-- ==== Sys2Proof/Word.lean ====
section
/-! DEFINITION. The word types of the TQ96: 32-bit registers and ring words (R48, R60), bytes of the
addressed memories (R9), 48-bit axis positions (R34) and the 64-bit time base (R46). -/

namespace Sys2Proof

/-- A 32-bit register, ring or payload word (R48, R60). -/
abbrev Word := BitVec 32
/-- One byte of record memory, NVM or host memory. -/
abbrev Byte := BitVec 8
/-- A 48-bit axis position or action key, compared modulo 2^48 (R125). -/
abbrev Pos := BitVec 48
/-- A partition number P0–P31 (R86). -/
abbrev Part := BitVec 5

end Sys2Proof
end

