-- ==== Sys2Proof/Syntax.lean ====
section
/-! DEFINITION. The commands and events of the TQ96, one constructor per row of the spec's table of
operations. A host command carries its packet (R66); an event carries what the outside or the analogue
side brings to it. -/

namespace Sys2Proof

/-- A command packet as the processor takes it from a ring (R60, R66): queue, TAG, FLAGS and payload. -/
structure Pkt where
  q : Fin 65
  tag : BitVec 8
  flags : BitVec 8
  pay : List Word
  deriving DecidableEq, Repr

/-- The registers of the PCI Express configuration space (R54–R56): those that a host writes and the device acts on, then
those that report what is supported, which ignore writes. -/
inductive CfgReg where
  | command | bar0Lo | bar0Hi | bar2Lo | bar2Hi | deviceControl | msixControl | powerControl
  | ident | classCode | deviceCap | linkCap | linkCap2 | powerCap | msixTable | msixPba | aer
  deriving DecidableEq, Repr

/-- Where a register write is addressed: the internal address space through a queue (R79), a register or ring word
of BAR0 of a host port (R80), or its PCI Express configuration space (R54). -/
inductive WrTarget where
  | ici (q : Fin 65) (addr : Word)
  | bar0 (port : Fin 8) (off : BitVec 16)
  | cfg (port : Fin 8) (r : CfgReg)
  deriving DecidableEq, Repr

/-- One pixel period of a line at the pins of its video port (R168): the head's signal in slots VS and RS, in nanovolts
and differential in DIFF mode, with the errors of the conversion in it, and whether the clip detector was active there
(R183). -/
structure Pixel where
  vs : Int
  rs : Int
  clipVs : Bool
  clipRs : Bool
  deriving DecidableEq, Repr

/-- How a host port loses its link state (R78). -/
inductive LinkLoss where
  | down | hotReset | functionReset
  deriving DecidableEq, Repr

/-- The loss of a host port's link state: which port, and how (R78). -/
structure LinkEnd where
  port : Fin 8
  how : LinkLoss
  deriving DecidableEq, Repr

/-- The level to which FF_SNS of a Firefly port comes, in units of 1/341 mV (R333). -/
structure SnsLevel where
  n : Fin 96
  level : Int
  deriving DecidableEq, Repr

/-- What the built-in test of the memories found (R185, R421): lasting and transient failures, each a fault source, a
member and a unit. -/
structure MemoryTest where
  failed : List (Fin 512 × BitVec 5 × BitVec 8)
  transient : List (Fin 512 × BitVec 5 × BitVec 8)
  deriving DecidableEq, Repr

/-- A bit-stream as it is read from flash (R364, R365, R370): its six header words, the frames in the order of their
readings, each with the CRC that was read with it, and the trailer. A frame whose first reading fails its CRC is read a
second time. -/
structure FlashStream where
  hdr : List Word
  reads : List (List Byte × Word)
  crc : Word
  tag : List Word
  deriving DecidableEq, Repr

/-- A Swarm frame as it arrives (R148–R152): its kind, 32-bit sequence, origin and payload bytes, whether
its CRC passes, and whether it is a resend. -/
structure SwFrame where
  seg : Bool
  origin : Fin 8
  seq : BitVec 8
  pay : List Byte
  crcOk : Bool
  resend : Bool
  deriving DecidableEq, Repr

/-- Bytes that a host memory read returns (R56), or its failure (R389). -/
abbrev HostBytes := List Byte

/-- The drain of a pause ends (R388): the channel, and what its host reads issued before the pause have brought. -/
structure DrainEnd where
  c : Fin 64
  host : HostBytes
  deriving DecidableEq, Repr

/-- The commands and events, in the order of the spec's table. -/
inductive Instr where
  | nop (p : Pkt)
  | ident (p : Pkt)
  | time (p : Pkt)
  | regRead (p : Pkt)
  | regWrite (p : Pkt)
  | regModify (p : Pkt)
  | regPeek (p : Pkt)
  | reservedOpcode (opc : BitVec 8) (p : Pkt)
  | unboundQueueCommand (opc : BitVec 8) (p : Pkt)
  | incompletePacket (q : Fin 65)
  | assign (p : Pkt)
  | release (p : Pkt)
  | lock (p : Pkt)
  | unlock (p : Pkt)
  | unlockForce (p : Pkt)
  | quota (p : Pkt)
  | partReset (p : Pkt)
  | partResetComplete (part : Part)
  | calRun (p : Pkt)
  | calComputeDone (q : Fin 65) (tag : BitVec 8)
  | calRunTimeout (q : Fin 65) (tag : BitVec 8)
  | calCommit (p : Pkt)
  | calCommitDeadline (q : Fin 65) (tag : BitVec 8)
  | calStatus (p : Pkt)
  | corrLoad (p : Pkt)
  | corrLoadDone (n : Fin 96)
  | armChannels (p : Pkt)
  | armGenerator (p : Pkt)
  | disarmChannels (p : Pkt)
  | disarmGenerator (p : Pkt)
  | sync (p : Pkt)
  | freeze (p : Pkt)
  | freezeRelease (p : Pkt)
  | statsSnap (p : Pkt)
  | actInsert (p : Pkt)
  | actCancel (p : Pkt)
  | actQuery (p : Pkt)
  | molt (p : Pkt)
  | moltCopyDone (h : Fin 96)
  | moltDeadline (h : Fin 96)
  | fence (p : Pkt)
  | unfence (p : Pkt)
  | selftest (p : Pkt)
  | selftestAttemptEnd (n : Fin 96) (lo hi : Int)
  | bitBegin (p : Pkt)
  | bitData (p : Pkt)
  | bitEnd (p : Pkt)
  | bitEndDone (sr : Fin 8)
  | sessionTimeout (sr : Fin 8)
  | readback (p : Pkt)
  | readbackDone (r : Fin 8)
  | regionReset (p : Pkt)
  | regionStart (p : Pkt)
  | regionClkstop (p : Pkt)
  | clkstopForce (r : Fin 8)
  | regionClkrun (p : Pkt)
  | regionClear (p : Pkt)
  | ledgerSnap (p : Pkt)
  | ledgerRead (p : Pkt)
  | faultReadRecords (p : Pkt)
  | faultReadCapture (p : Pkt)
  | faultReadStatus (p : Pkt)
  | faultClear (p : Pkt)
  | severitySet (p : Pkt)
  | injectRaise (p : Pkt)
  | injectHold (p : Pkt)
  | injectBrokenWire (p : Pkt)
  | injectRelease (p : Pkt)
  | nvmRead (p : Pkt)
  | nvmWrite (p : Pkt)
  | nvmWriteDone (ok : Bool)
  | nvmLock (p : Pkt)
  | nvmLockDone
  | supSnap (p : Pkt)
  | supUrgent (p : Pkt)
  | supPathTest (p : Pkt)
  | ffLoad (p : Pkt)
  | ffClear (p : Pkt)
  | swarmStop (p : Pkt)
  | swarmListen (p : Pkt)
  | swarmTrain (p : Pkt)
  | swarmTrainDone (consecutive : Bool) (hops : List (BitVec 16 × BitVec 16)) (newTb : BitVec 64)
  | resync (p : Pkt)
  | resyncDeadline (q : Fin 65) (tag : BitVec 8)
  | dmaKick (p : Pkt)
  | dmaPause (p : Pkt)
  | dmaResume (p : Pkt)
  | dmaAbort (p : Pkt)
  | dmaEnable (p : Pkt)
  | dmaDisable (p : Pkt)
  | doorbell (q : Fin 65) (v : Word) (be : BitVec 4)
  | qctlWrite (q : Fin 64) (v : Word) (be : BitVec 4)
  | w1cWrite (tgt : WrTarget) (v : Word)
  | registerWrite (tgt : WrTarget) (v : Word) (mask : BitVec 4)
  | tbLoRead (q : Fin 65)
  | latchedLoRead (q : Fin 65) (addr : Word)
  | rdescSelectRead (q : Fin 65) (i : Fin 512)
  | peakRead (q : Fin 65) (addr : Word)
  | tileClkStart (q : Fin 65) (t : Fin 8) (v : Word)
  | tileClkStop (q : Fin 65) (t : Fin 8) (v : Word)
  | axisForce (q : Fin 65) (a : Fin 8)
  | axisRestore (q : Fin 65) (a : Fin 8)
  | axisPreset (q : Fin 65) (a : Fin 8) (v : Word)
  | ffEnable (q : Fin 65) (n : Fin 96)
  | ffDisable (q : Fin 65) (n : Fin 96)
  | strobeMaskWrite (q : Fin 65) (t : Fin 8) (v : Word)
  | creditWrite (q : Fin 65) (n : Fin 96) (v : Word)
  | zoneEnable (q : Fin 65) (z : Fin 1024)
  | zoneDisable (q : Fin 65) (z : Fin 1024)
  | recordRingEnable (q : Fin 65) (part : Part) (v : Word)
  | dmaPauseBitWrite (q : Fin 65) (c : Fin 64) (v : Bool)
  | gpioBankWrite (q : Fin 65) (b : Fin 8) (dir : Bool) (v : Word)
  | irqSelWrite (q : Fin 65) (k : Fin 8) (v : Word)
  | powerStateRun (q : Fin 65)
  | powerStateIdle (q : Fin 65)
  | powerStateStandby (q : Fin 65)
  | completionDelivery (q : Fin 65)
  | processorRestart (applying : Option (Fin 65))
  | leaseExpiry (l : Fin 128)
  | debugRead (addr : Word) (count : BitVec 8)
  | debugHalt
  | debugResume
  | spiTransaction (write : Bool) (addr : BitVec 16) (bytes : List Byte) (n : Nat)
  | bar2Read (port : Fin 8) (off : BitVec 24) (n : Nat)
  | bar2Write (port : Fin 8) (off : BitVec 24)
  | hostLinkDown (e : LinkEnd)
  | perstRelease (port : Fin 8)
  | faultNotifyDelayed (port : Fin 8)
  | encoderEdge (e : Fin 32) (a b : Bool)
  | tokenDeferredDelivery (g : Fin 16)
  | encoderZEdge (e : Fin 32)
  | encoderLossOfSignal (e : Fin 32) (onB : Bool)
  | encoderSignalReturn (e : Fin 32) (onB : Bool)
  | axisRateUpdate (a : Fin 8)
  | triggerPulseEnd (g : Fin 16)
  | lineStart (t : Fin 8) (left : List Nat)
  | lineEnd (n : Fin 96) (px : List Pixel)
  | eventArrival (n : Fin 96)
  | lineEndMarker (n : Fin 96)
  | stitcherTake
  | stitchTimeout (h : Fin 96)
  | insertTaken
  | actionExecute (a : Fin 8)
  | markerPulseEnd (pin : Fin 256)
  | ffUpdateEdge (n : Fin 96)
  | deglitchHoldEnd (n : Fin 96)
  | comparatorTrip (x : SnsLevel)
  | tripNLow (t : Fin 8)
  | ffShortCircuit (n : Fin 96)
  | ffCompliance (n : Fin 96)
  | supSlotEnd (codes : List Int)
  | fabricRequest (r : Fin 8) (k : Fin 16) (merged : BitVec 12)
  | dmaDescriptorRead (c : Fin 64) (host : HostBytes)
  | dmaQuantumEnd (c : Fin 64) (host : HostBytes)
  | dmaDescriptorComplete (c : Fin 64)
  | dmaHostReadError (c : Fin 64)
  | dmaPauseDrainEnd (e : DrainEnd)
  | streamFrameSend (k : Fin 8)
  | streamCreditBlock (k : Fin 8) (w0 w1 : Word)
  | streamLinkDown (k : Fin 8)
  | speedUpdate (t : Fin 8) (ratio : BitVec 16)
  | tilePllLock (t : Fin 8)
  | tileCalibrationDone (t : Fin 8)
  | tilePllLockTimeout (t : Fin 8)
  | tilePllLossOfLock (t : Fin 8)
  | fabricPllLock (r : Fin 8)
  | swarmFrameSend (kind : Fin 6) (idx : Fin 16)
  | swarmTokenFrame (f : SwFrame)
  | swarmTimeFrame (f : SwFrame)
  | swarmStatusFrame (f : SwFrame)
  | swarmPosFrame (f : SwFrame)
  | swarmGdescFrame (f : SwFrame)
  | swarmNakFrame (f : SwFrame)
  | swarmTrainFrame (f : SwFrame)
  | swarmResendTimeout (seg : Bool)
  | swarmSegmentFail (seg : Bool)
  | swarmTokenDelivery
  | swarmHoldoverStart
  | swarmHoldoverEnd
  | swarmFollowerLost (d : Fin 8)
  | swarmReceiveDiscard
  | gpioIrqEdge (k : Fin 8) (level : Bool)
  | timeBasePulse
  | timeBasePulseEnd
  | brokenWire (src : Fin 512) (mem : BitVec 5)
  | sramEccError (src : Fin 512) (mem : BitVec 5) (unit : BitVec 8) (lasting : Bool)
  | dieOverTemperature (t : Fin 8) (temp : BitVec 16)
  | sclkRefLost
  | referencePllUnlock
  | syncMissing
  | powerFail (pin mon : Bool)
  | powerOnResetEntry
  | powerOnResetRelease
  | bootNvmLoadDone
  | bootSelftestDone (r : MemoryTest)
  | bootFabricLoadDone (sr : Fin 8) (f : FlashStream)
  | ready
  | resetNAssert
  | resetNRelease
  | hostLinkUp (port : Fin 8)
  | sclkRefReturn
  | referencePllLock
  | syncReturn
  | dieTemperatureNormal (t : Fin 8)
  | ffShortCircuitEnd (n : Fin 96)
  | ffComplianceEnd (n : Fin 96)
  | tripNHigh (t : Fin 8)
  | brokenWireCleared (src : Fin 512) (mem : BitVec 5)
  | domainSupplyValid (rail : Fin 25)
  | domainSupplyLost (rail : Fin 25)
  | processorRestartDone
  | dmaStopDrainEnd (c : Fin 64)
  | holdoverExtrapolation (a : Fin 8)
  | strobePulseBegin (n : Fin 96) (k : Fin 4)
  | strobePulseEnd (n : Fin 96) (k : Fin 4)
  deriving DecidableEq, Repr

end Sys2Proof
end

