-- ==== Sys2Proof/Decode.lean ====
section
/-! DEFINITION. Commands spelled by table words. -/

namespace Sys2Proof

/-- No row of the spec's table gives bits: no word spells a command. -/
def decodeTableWord (_nbits _w : Nat) : Option Instr := none

end Sys2Proof
end

