-- ==== Sys2Proof/Config.lean ====
section
/-! DEFINITION. What an implementation fixes and the values the spec leaves open. A constant here has
no body, so no proof can lean on its value. -/

namespace Sys2Proof

/-- The ordering grade of R1, which fixes the junction temperature limit. -/
inductive Grade where
  | gradeI | gradeX
  deriving DecidableEq, Repr, Inhabited

/-- The grade of this device (R1, R2); fixed for the device. -/
opaque Config.grade : Grade
/-- IDENT STEPPING, the silicon stepping, from 0x01 (IDENT table); the spec gives no value. -/
opaque Config.stepping : BitVec 8
/-- IDENT ROMVER, the command processor ROM version; the spec gives no value. -/
opaque Config.romVer : BitVec 16
/-- IDENT VENDOR, Ozirahel's assigned PCI Express Vendor ID (R54); the spec gives no value. -/
opaque Config.vendor : BitVec 16
/-- IDENT PATCHVER of a loaded patch, from the CRC word of the patch area: the spec gives the area no format. -/
opaque Config.patchVersion : BitVec 32 → BitVec 16
/-- Free value: the n-th value that the spec leaves open after an operation that goes on. -/
opaque Config.freeValue : Nat → BitVec 32
/-- Free value: an indeterminate pad level, R399; the argument is the state's free counter and the pin. -/
opaque Config.floatLevel : Nat → Nat → Bool
/-- Free value: flip-flop and memory contents that a user's fabric design holds (R353, R372):
free counter, region, word of the image. -/
opaque Config.fabricImage : Nat → Nat → Nat → BitVec 32
/-- What a bit-stream says, which the spec gives no encoding (R353, R355, R359): the initial values of the flip-flops of
a region's configuration bytes. -/
opaque Config.fabricInit : List (BitVec 8) → BitVec 3072
/-- The two nets that a cluster selects, and the flip-flops that take the second of the two. -/
opaque Config.fabricClusterNets : List (BitVec 8) → Nat → Fin 8 × Fin 8
opaque Config.fabricSecond : List (BitVec 8) → BitVec 3072
/-- The nets of the two ports of a memory block, the write side's first. -/
opaque Config.fabricBlockNets : List (BitVec 8) → Nat → Fin 8 × Fin 8
/-- Of a memory block that the design uses as a queue: 1K, 2K or 4K words, AF and AE. -/
opaque Config.fabricQueue : List (BitVec 8) → Nat → Option (Fin 3 × Nat × Nat)
/-- Free values: what a user's design has made of its flip-flops, by free counter and region. -/
opaque Config.fabricFlops : Nat → Nat → BitVec 3072
/-- Free values: of byte `i` of its memory blocks. -/
opaque Config.fabricByte : Nat → Nat → Nat → BitVec 8
/-- Free values: of its gateway outputs. -/
opaque Config.fabricGate : Nat → Nat → BitVec 128
/-- Free values: the levels of its nets, and the nets that have had a rising edge. -/
opaque Config.fabricNets : Nat → Nat → BitVec 8 × BitVec 8
/-- Free values: AF, AE and the number of clock edges at a queue since it was last looked at, and which each of them is:
0 and 1 an edge of its write side, 2 and 3 of its read side, odd with an access. -/
opaque Config.fabricQueueRun : Nat → Nat → Nat → Nat × Nat × Nat
opaque Config.fabricQueueOp : Nat → Nat → Nat → Nat → BitVec 2
/-- The factory-trimmed content of NVM pages 0–63 (R430): the spec gives no bytes. -/
opaque Config.trimByte : Nat → BitVec 8
/-- Design value j of minimum-phase response i, to any scale: R245 makes the ROM authoritative for this family. -/
opaque Config.minPhaseDesign : Nat → Nat → Int
/-- Descriptor figures that R248 defines by a measurement over a continuum of frequencies and R250
publishes: ATTEN of response i. -/
opaque Config.romAtten : Nat → BitVec 8
/-- R131 states a rate in counts per second; where it is no multiple of 1/16 the rounding is open. -/
opaque Config.rateRoundUp : Int → Bool

/-- Rounding of a calibration summary figure (R203, R204) that falls between two register values: up? -/
opaque Config.figureRoundUp : Nat → Bool

/-- A summary figure of calibration over no pixel at all: a mean of nothing, which R203 and R204 do not state. -/
opaque Config.emptyFigure : BitVec 16

end Sys2Proof
end

