-- ==== Sys2Proof/Machine/Bits.lean ====
section
/-! DEFINITION. Bit fields (R8), byte order (R9), the CRCs the spec names, and the sparse maps that
hold memories and register files: sorted, without repeats, listing nothing that equals the default. -/

namespace Sys2Proof.Machine

/-- Bits [hi:lo] of a 32-bit word as a number (R8). -/
def fld (w : Word) (hi lo : Nat) : Nat := (w.toNat >>> lo) % 2 ^ (hi + 1 - lo)

/-- Bit [i] of a word. -/
def bit (w : Word) (i : Nat) : Bool := w.getLsbD i

/-- The word whose bits [hi:lo] are ones. -/
def fldMask (hi lo : Nat) : Word := BitVec.ofNat 32 ((2 ^ (hi + 1 - lo) - 1) <<< lo)

/-- `w` with bits [hi:lo] replaced by `v`. -/
def setFld (w : Word) (hi lo v : Nat) : Word :=
  (w &&& ~~~(fldMask hi lo)) ||| (BitVec.ofNat 32 (v <<< lo) &&& fldMask hi lo)

/-- `w` with bit [i] replaced. -/
def setBit (w : Word) (i : Nat) (b : Bool) : Word := setFld w i i b.toNat

/-- The signed value of the low `n` bits of a natural number. -/
def sext (n v : Nat) : Int :=
  let m := v % 2 ^ n
  if m < 2 ^ (n - 1) then (m : Int) else (m : Int) - (2 ^ n : Nat)

/-- An integer as a word, modulo 2^32. -/
def intW (i : Int) : Word := BitVec.ofInt 32 i

/-- Clamp to a range, as the spec's sat() does. -/
def clampInt (lo hi x : Int) : Int := if x < lo then lo else if hi < x then hi else x

/-- Saturating increment of a `bits`-wide counter field. -/
def satInc (v bits : Nat) : Nat := min (v + 1) (2 ^ bits - 1)

/-- Division rounded to nearest, halves away from zero; `d > 0`. -/
def roundDiv (n : Int) (d : Nat) : Int :=
  if 0 ≤ n then ((2 * n + d) / (2 * d : Nat)) else -((2 * (-n) + d) / (2 * d : Nat))

/-- Low word of a 64-bit (or shorter) number. -/
def lo32 (n : Nat) : Word := BitVec.ofNat 32 n
/-- High word of a 64-bit number. -/
def hi32 (n : Nat) : Word := BitVec.ofNat 32 (n >>> 32)

/-- The four bytes of a word, little-endian (R9). -/
def wordBytes (w : Word) : List Byte := [w.extractLsb' 0 8, w.extractLsb' 8 8, w.extractLsb' 16 8, w.extractLsb' 24 8]

/-- The word of up to four bytes, little-endian (R9). -/
def bytesWord (bs : List Byte) : Word :=
  BitVec.ofNat 32 ((bs.take 4).foldr (fun b acc => acc * 256 + b.toNat) 0)

/-- A byte string as little-endian words; a short last word is zero-filled. -/
def bytesWords : Nat → List Byte → List Word
  | 0, _ => []
  | n + 1, bs => bytesWord bs :: bytesWords n (bs.drop 4)

/-- Byte enables as a bit mask (R80, R81): bit i of `m` enables byte i. -/
def byteMask (m : BitVec 4) : Word :=
  (if m.getLsbD 0 then fldMask 7 0 else 0) ||| (if m.getLsbD 1 then fldMask 15 8 else 0) |||
  (if m.getLsbD 2 then fldMask 23 16 else 0) ||| (if m.getLsbD 3 then fldMask 31 24 else 0)

/-- `new` where the mask is one, `old` elsewhere. -/
def blend (old new mask : Word) : Word := (old &&& ~~~mask) ||| (new &&& mask)

/-- A 96-bit mask held in three words, word 0 bit 0 naming number 0. -/
def mask96 (w0 w1 w2 : Word) : List Nat :=
  (List.range 96).filter fun n =>
    if n < 32 then bit w0 n else if n < 64 then bit w1 (n - 32) else bit w2 (n - 64)

/-- The set bits below `n` of a word, in ascending order. -/
def bitsOf (w : Word) (n : Nat) : List Nat := (List.range n).filter (bit w)

/-! ## Sparse maps -/

/-- The value a sparse map gives a key: the listed one, or the default. -/
def spGet {κ α : Type} [DecidableEq κ] (d : κ → α) : List (κ × α) → κ → α
  | [], k => d k
  | (k', v) :: m, k => if k' = k then v else spGet d m k

/-- Insert or replace, keeping the order of `code`. -/
def spIns {κ α : Type} [DecidableEq κ] (code : κ → Nat) : List (κ × α) → κ → α → List (κ × α)
  | [], k, v => [(k, v)]
  | (k', v') :: m, k, v =>
    if k' = k then (k, v) :: m
    else if code k < code k' then (k, v) :: (k', v') :: m
    else (k', v') :: spIns code m k v

/-- Write a key. Writing the default removes the entry, so that equal maps are equal lists. -/
def spPut {κ α : Type} [DecidableEq κ] [DecidableEq α] (code : κ → Nat) (d : κ → α)
    (m : List (κ × α)) (k : κ) (v : α) : List (κ × α) :=
  if v = d k then m.filter (fun e => decide (e.1 ≠ k)) else spIns code m k v

/-- The canonical form: keys strictly rising by `code`, nothing equal to the default. -/
def spWf {κ α : Type} [DecidableEq α] (code : κ → Nat) (d : κ → α) : List (κ × α) → Bool
  | [] => true
  | e :: m => decide (e.2 ≠ d e.1) && m.all (fun f => decide (code e.1 < code f.1)) && spWf code d m

/-! ## Byte memories (Host.Cell) -/

/-- The byte at an address of a byte memory whose unlisted bytes read `d`. -/
def memRd (d : Nat → Byte) (m : List Host.Cell) (a : Nat) : Byte := spGet d m a
/-- Write one byte. -/
def memWr (d : Nat → Byte) (m : List Host.Cell) (a : Nat) (b : Byte) : List Host.Cell := spPut id d m a b
/-- Write consecutive bytes from `a`. -/
def memWrs (d : Nat → Byte) (m : List Host.Cell) (a : Nat) : List Byte → List Host.Cell
  | [] => m
  | b :: bs => memWrs d (memWr d m a b) (a + 1) bs
/-- Consecutive bytes from `a`. -/
def memRds (d : Nat → Byte) (m : List Host.Cell) (a n : Nat) : List Byte := (List.range n).map fun i => memRd d m (a + i)

/-! ## Vectors by number -/

/-- Entry `i`, or the first entry where `i` is out of range (no caller of a well-formed command is). -/
def vget {α : Type} {n : Nat} (v : Vector α (n + 1)) (i : Nat) : α := if h : i < n + 1 then v[i] else v[0]
/-- Replace entry `i`; out of range changes nothing. -/
def vset {α : Type} {n : Nat} (v : Vector α (n + 1)) (i : Nat) (a : α) : Vector α (n + 1) := v.setIfInBounds i a
/-- Modify entry `i`. -/
def vmod {α : Type} {n : Nat} (v : Vector α (n + 1)) (i : Nat) (f : α → α) : Vector α (n + 1) := vset v i (f (vget v i))

/-! ## CRCs -/

/-- One bit of the reflected CRC-32 of IEEE 802.3. -/
def crc32Bit (c : Nat) : Nat := if c % 2 = 1 then (c / 2) ^^^ 0xEDB88320 else c / 2
/-- Eight bits of it. -/
def crc32Byte (c : Nat) (b : Byte) : Nat :=
  crc32Bit (crc32Bit (crc32Bit (crc32Bit (crc32Bit (crc32Bit (crc32Bit (crc32Bit (c ^^^ b.toNat))))))))
/-- CRC-32 with the IEEE 802.3 polynomial (R285, R365, R431), over bytes. -/
def crc32 (bs : List Byte) : Word := BitVec.ofNat 32 ((bs.foldl crc32Byte 0xFFFFFFFF) ^^^ 0xFFFFFFFF)

/-- One bit of CRC-16 with polynomial 0x1021. -/
def crc16Bit (c : Nat) : Nat := (if c ≥ 0x8000 then (c * 2) ^^^ 0x1021 else c * 2) % 65536
/-- CRC-16 with polynomial 0x1021 and initial value 0xFFFF (R148, R287), over bytes. -/
def crc16 (bs : List Byte) : BitVec 16 :=
  BitVec.ofNat 16 (bs.foldl (fun c b => (List.range 8).foldl (fun c _ => crc16Bit c) (c ^^^ (b.toNat * 256))) 0xFFFF)

end Sys2Proof.Machine
end

