-- ==== Sys2Proof/Machine/Regs.lean ====
section
/-! DEFINITION. The register map of the spec (R48, R50): every register by block, instance and offset,
with its fields' access codes (R22), reset values (R24) and permitted values (R18), as the field
tables of the chapters give them. -/

namespace Sys2Proof.Machine

/-- The register blocks of the address map (R48) and of BAR0 (R58), one per kind of instance. -/
inductive Blk where
  /-- DEV -/ | dev
  /-- PART -/ | part
  /-- FLT but for SRC -/ | flt
  /-- FLT.SRC[s] -/ | src
  /-- NVM -/ | nvm
  /-- ENC.PORT[e] -/ | enc
  /-- ENC.AX[a] -/ | ax
  /-- ENC.GEN[g] -/ | gen
  /-- ENC.HCFG[h] -/ | hcfg
  /-- SWM -/ | swm
  /-- PAQ -/ | paq
  /-- DMA.CH[c] -/ | dma
  /-- DMA.MOVER[m] -/ | mover
  /-- RULE.PAIR0[k], PAIR1[k] -/ | pair
  /-- RULE.STTMO, STFULL, NSTITCH -/ | ruleG
  /-- RULE.RULE[r] -/ | rule
  /-- ZST zone z -/ | zone
  /-- PORT.MODE[k] -/ | pmode
  /-- PORT stream port k -/ | strm
  /-- PORT.RRING[p] -/ | rring
  /-- GPIO bank b -/ | bank
  /-- GPIO.TBP -/ | tbp
  /-- GPIO.IRQ[k] -/ | irq
  /-- GPIO.PIN[p] -/ | pin
  /-- SUPV.CFG, STAT -/ | supv
  /-- SUPV.CONV[t] -/ | conv
  /-- SUPV.IN[i] -/ | supIn
  /-- TILE[t] -/ | tile
  /-- VID[n] -/ | vid
  /-- COR[n] -/ | cor
  /-- FIL[n] -/ | fil
  /-- THR[n] -/ | thr
  /-- FF[n] -/ | ff
  /-- CMPW[n] -/ | cmpw
  /-- SGEN[n] -/ | sgen
  /-- HEAD[n] -/ | head
  /-- FAB[r] -/ | fab
  /-- queue control block of queue Q (R58); also the SPI window's registers for Q = 64 (R82) -/ | qcb
  /-- BAR0 port registers of port k (R58) -/ | bport
  /-- an offset of a mapped block that holds no register and has no owner (R50) -/ | void
  deriving DecidableEq, Repr

/-- A register: block, instance, byte offset inside the instance. -/
structure RKey where
  blk : Blk
  i : Nat
  off : Nat
  deriving DecidableEq, Repr

/-- The order of the register file's canonical form. -/
def RKey.code (k : RKey) : Nat := (k.blk.ctorIdx * 2 ^ 24 + k.i) * 2 ^ 24 + k.off

/-- Access codes of R22. -/
inductive Acc where
  | rw | ro | wo | w1c | rc | wos | rwl
  deriving DecidableEq, Repr

/-- One field: bits [hi:lo], access code, reset value, least and greatest permitted value (R18). -/
structure Fd where
  hi : Nat
  lo : Nat
  acc : Acc
  rst : Nat
  mn : Nat
  mx : Nat
  deriving DecidableEq, Repr

/-- A field of which every value is permitted. -/
def fd (acc : Acc) (hi lo rst : Nat) : Fd := ⟨hi, lo, acc, rst, 0, 2 ^ 32⟩
/-- A field whose permitted values are `mn` to `mx`; the others are reserved encodings (R18). -/
def fdr (acc : Acc) (hi lo rst mn mx : Nat) : Fd := ⟨hi, lo, acc, rst, mn, mx⟩

/-- Registers of one offset, or of `n` offsets `stride` apart. -/
structure RRow where
  off : Nat
  stride : Nat
  n : Nat
  fds : List Fd
  deriving DecidableEq, Repr

/-- A single register row. -/
def r1 (off : Nat) (fds : List Fd) : RRow := ⟨off, 4, 1, fds⟩
/-- A row of `n` registers. -/
def rn (off stride n : Nat) (fds : List Fd) : RRow := ⟨off, stride, n, fds⟩
/-- A 32-bit read-only register that resets to zero. -/
def ro32 (off : Nat) : RRow := r1 off [fd .ro 31 0 0]

open Sys2Proof.Machine.Acc

/-- DEV (R47, R250, R424; PWR, RSTAT, RSTCUT). RDESC and RCOEF are fixed by the ROM. -/
def rowsDev : List RRow := [
  r1 0x10 [fd rc 31 0 0], r1 0x14 [fd ro 31 0 0],
  r1 0x100 [fdr rw 1 0 0 0 2, fd ro 9 8 0],
  r1 0x104 [fd ro 1 0 1, fd ro 2 2 0, fd ro 6 4 1, fd ro 8 8 0, fd ro 31 16 0],
  ro32 0x108, rn 0x4000 4 4096 [fd rc 31 0 0], rn 0x8000 4 256 [fd ro 31 0 0]]

/-- PART (R101, R102): AXUSE, SWUSE, QACT and HWDENY and the caps of QCRED are stored; the rest are views. -/
def rowsPart : List RRow := [
  rn 0x100 4 8 [fd ro 31 0 1], r1 0x120 [fd ro 31 0 1], rn 0x200 4 32 [fd ro 17 0 0],
  rn 0x280 4 32 [fd ro 16 0 0], rn 0x300 4 32 [fd ro 31 0 0],
  rn 0x400 4 256 [fd ro 12 0 0, fd ro 28 16 0], rn 0x800 4 128 [fd ro 31 0 0],
  rn 0x1000 4 1510 [fd ro 31 0 0]]

/-- FLT registers (R408, R410). -/
def rowsFlt : List RRow := [
  r1 0 [fdr rw 2 0 3 0 4, fd wos 8 8 0], r1 4 [fd ro 0 0 0, fd ro 3 1 0, fd ro 14 8 0],
  ro32 8, ro32 0xC, rn 0x20 4 8 [fd ro 31 0 0], rn 0x40 4 16 [fd ro 31 0 0]]

/-- FLT.SRC[s] (R412): CFG, STAT, MLIVE, MLATCH. -/
def rowsSrc : List RRow := [
  r1 0 [fd ro 2 0 0, fd ro 3 3 1],
  r1 4 [fd ro 0 0 0, fd ro 1 1 0, fd ro 2 2 0, fd ro 3 3 0, fd ro 6 4 0, fd ro 31 16 0], ro32 8, ro32 0xC]

/-- NVM registers (R431, R432). -/
def rowsNvm : List RRow := [
  r1 0 [fd ro 0 0 0, fd ro 1 1 0, fd ro 2 2 0, fd ro 3 3 0, fd ro 4 4 0, fd ro 10 8 0, fd ro 19 16 0],
  ro32 4, r1 8 [fd ro 5 0 0], ro32 0xC, r1 0x10 [fd ro 9 0 0, fd ro 31 31 0]]

/-- ENC.PORT[e] (R118–R124). -/
def rowsEnc : List RRow := [
  r1 0 [fdr rwl 2 0 0 0 5, fd rwl 3 3 0, fd rwl 4 4 0, fd rwl 5 5 0, fd rwl 6 6 0, fdr rwl 11 8 8 0 8,
    fd rwl 12 12 0, fd rwl 13 13 0],
  r1 4 [fd ro 0 0 0, fd ro 1 1 0, fd w1c 2 2 0, fd w1c 3 3 0, fd ro 4 4 0, fd ro 5 5 0, fd ro 8 6 0],
  ro32 8, ro32 0xC, ro32 0x10, ro32 0x14]

/-- ENC.AX[a] (R125–R134). -/
def rowsAx : List RRow := [
  r1 0 [fd rwl 4 0 0, fd rwl 5 5 0, fd rwl 12 8 0, fd rwl 13 13 0, fd rwl 14 14 0, fd rwl 15 15 0,
    fd rwl 16 16 0, fdr rwl 23 20 4 0 10, fdr rwl 28 24 0x14 8 31],
  r1 4 [fd rw 31 0 0x10000], r1 8 [fd rw 15 0 0], r1 0xC [fd wo 0 0 0, fd wo 1 1 0],
  r1 0x10 [fd ro 0 0 0, fd ro 2 1 0, fd ro 3 3 0, fd ro 4 4 0], r1 0x14 [fd rc 31 0 0], ro32 0x18, ro32 0x1C,
  r1 0x20 [fd rw 31 0 0], r1 0x24 [fd rwl 15 0 0], ro32 0x28, ro32 0x2C]

/-- ENC.GEN[g] (R135–R141, R144). -/
def rowsGen : List RRow := [
  r1 0 [fd rwl 2 0 0, fd rwl 3 3 0, fd rwl 4 4 0], r1 4 [fdr rwl 31 0 0x10000 0x10000 0xFFFFFFFF],
  r1 8 [fd rwl 31 0 0], r1 0xC [fd rwl 15 0 0],
  r1 0x10 [fd ro 0 0 0, fd ro 1 1 0, fd ro 2 2 0, fd w1c 3 3 0],
  r1 0x14 [fd rc 31 0 0], ro32 0x18, r1 0x1C [fd rc 31 0 0], ro32 0x20, r1 0x24 [fd rc 31 0 0], ro32 0x28,
  r1 0x2C [fd rw 0 0 0, fd rw 1 1 0, fdr rw 15 8 1 1 255]]

/-- ENC.HCFG[h] (R143). -/
def rowsHcfg : List RRow := [r1 0 [fd rwl 3 0 0, fd rwl 4 4 0, fd rwl 31 16 0]]

/-- SWM (R147–R162). -/
def rowsSwm : List RRow := [
  r1 0 [fd rwl 2 0 0, fd rwl 3 3 0, fdr rwl 6 4 1 1 7, fd rwl 7 7 0], r1 4 [fdr rwl 15 0 0x28 1 0xFFFF],
  r1 8 [fd ro 15 0 0, fd rwl 31 16 0xC8], r1 0xC [fdr rwl 6 0 0x64 0 100], r1 0x10 [fd rwl 7 0 0, fd rwl 31 16 0],
  r1 0x20 [fd ro 2 0 0, fd ro 4 4 0, fd ro 5 5 0, fd ro 6 6 0], r1 0x24 [fd ro 7 0 0], ro32 0x28, ro32 0x2C,
  ro32 0x30, ro32 0x34, ro32 0x38, ro32 0x3C, ro32 0x40, rn 0x100 4 8 [fd ro 15 0 0, fd ro 31 16 0],
  rn 0x200 4 8 [fd ro 31 0 0], rn 0x240 4 16 [fd ro 31 0 0], ro32 0x280, ro32 0x284]

/-- PAQ (R292–R306). -/
def rowsPaq : List RRow := [
  r1 0 [fd rw 0 0 0], r1 4 [fd ro 0 0 0, fd ro 1 1 0, fd ro 2 2 0, fd w1c 3 3 0], r1 8 [fd ro 17 0 0],
  r1 0xC [fd rc 17 0 0], r1 0x10 [fd ro 10 0 0, fd rc 26 16 0], ro32 0x14, ro32 0x18, ro32 0x1C, ro32 0x20,
  ro32 0x24, ro32 0x28, rn 0x100 16 8 [fd rc 31 0 0], rn 0x104 16 8 [fd ro 15 0 0], rn 0x108 16 8 [fd ro 17 0 0]]

/-- DMA.CH[c] (R373–R393). -/
def rowsDma : List RRow := [
  r1 0 [fd rw 0 0 0, fd ro 1 1 0, fd ro 4 2 0, fd ro 11 8 0],
  r1 4 [fd rwl 2 0 0, fd rwl 3 3 0, fd rwl 4 4 0, fd rwl 9 8 0, fd rwl 22 16 0],
  r1 8 [fd rwl 31 0 0], r1 0xC [fd rwl 31 0 0], ro32 0x10, ro32 0x14, ro32 0x18, ro32 0x1C, ro32 0x20,
  r1 0x24 [fd ro 4 0 0], ro32 0x28, ro32 0x2C]

/-- DMA.MOVER[m]. -/
def rowsMover : List RRow := [r1 0 [fd ro 5 0 0, fd ro 6 6 0, fd rc 25 16 0]]

/-- RULE.PAIR0[k] at 0, PAIR1[k] at 4 (R263). -/
def rowsPair : List RRow := [
  r1 0 [fd rw 0 0 0, fd rwl 14 8 0, fd rwl 22 16 0], r1 4 [fd rwl 15 0 0, fd rwl 23 16 0, fd rwl 31 24 0]]

/-- RULE.STTMO, STFULL, NSTITCH at 0, 4, 8 (R265). -/
def rowsRuleG : List RRow := [ro32 0, ro32 4, ro32 8]

/-- RULE.RULE[r] (R266–R269). -/
def rowsRule : List RRow := [
  r1 0 [fd rw 0 0 0],
  r1 4 [fd rwl 3 1 0, fd rwl 5 4 0, fd rwl 7 6 0, fd rwl 8 8 0, fd rwl 9 9 0, fd rwl 10 10 0, fd rwl 25 16 0],
  r1 8 [fd rwl 31 0 0], r1 0xC [fd rwl 31 0 0], r1 0x10 [fd rwl 31 0 0], r1 0x14 [fd rwl 15 0 1],
  r1 0x18 [fd rwl 31 0 0], r1 0x1C [fd rwl 15 0 0], r1 0x20 [fd rwl 31 0 0], r1 0x24 [fd rwl 31 0 0],
  r1 0x28 [fd rwl 31 0 0], ro32 0x2C]

/-- ZST zone (R270–R273). -/
def rowsZone : List RRow := [
  r1 0 [fd rw 0 0 0], r1 4 [fd rwl 0 0 0, fd rwl 1 1 0, fd rwl 2 2 0, fdr rwl 14 8 0 0 95],
  r1 8 [fd rwl 13 0 0, fdr rwl 30 16 1 1 16384], r1 0xC [fdr rwl 15 0 1 1 65535],
  r1 0x10 [fd rwl 11 0 0, fdr rwl 22 16 0 0 83], r1 0x14 [fd ro 0 0 0, fd ro 1 1 0, fd ro 31 16 0]]

/-- PORT.MODE[k] (R51). -/
def rowsPmode : List RRow := [r1 0 [fd ro 1 0 0]]

/-- PORT stream port k (R284–R290). -/
def rowsStrm : List RRow := [
  r1 0 [fd rw 0 0 0, fdr rwl 2 1 0 0 2, fd rwl 3 3 0, fd rwl 4 4 0, fd rwl 5 5 0, fd rwl 6 6 0, fd rwl 7 7 0,
    fd rwl 8 8 0],
  r1 4 [fd ro 0 0 0, fd w1c 1 1 0], rn 8 4 6 [fd rwl 31 0 0], r1 0x20 [fd ro 17 0 0, fd rc 31 18 0],
  r1 0x24 [fd ro 16 0 0], ro32 0x28, ro32 0x2C, ro32 0x30, ro32 0x34, ro32 0x38, ro32 0x3C]

/-- PORT.RRING[p] (R282, R283). -/
def rowsRring : List RRow := [
  r1 0 [fd rw 0 0 0, fd rwl 19 8 0, fdr rwl 28 20 1 1 256], r1 4 [fd ro 19 0 0], r1 8 [fd rw 19 0 0], ro32 0xC]

/-- GPIO bank b: DOUT, DIR, DIN (R395). -/
def rowsBank : List RRow := [r1 0 [fd rw 31 0 0], r1 4 [fd rw 31 0 0], ro32 8]

/-- GPIO.TBP (R398). -/
def rowsTbp : List RRow := [r1 0 [fd rw 0 0 0, fdr rw 12 8 0x14 10 30, fdr rw 23 16 1 1 255]]

/-- GPIO.IRQ[k] (R400). -/
def rowsIrq : List RRow := [
  r1 0 [fd rw 2 0 0, fd rw 9 8 0, fd rw 17 16 0], r1 4 [fd w1c 0 0 0, fd ro 1 1 0, fd ro 31 16 0],
  r1 8 [fd rc 31 0 0], ro32 0xC]

/-- GPIO.PIN[p] (R396, R397). -/
def rowsPin : List RRow := [
  r1 0 [fdr rw 3 0 0 0 11, fd rw 4 4 0, fdr rw 6 5 0 0 2, fd rw 9 8 1, fd rw 10 10 0, fd rw 21 16 0]]

/-- SUPV.CFG, STAT (R340–R344). -/
def rowsSupv : List RRow := [
  r1 0 [fdr rw 5 0 8 1 32, fd rw 8 8 1, fd rw 9 9 0], r1 4 [fd ro 0 0 0, fd ro 1 1 0, fd ro 2 2 0]]

/-- SUPV.CONV[t] (R343). -/
def rowsConv : List RRow := [
  r1 0 [fd rw 3 0 0, fd rw 4 4 0], r1 4 [fd rw 9 0 0], ro32 8, ro32 0xC, ro32 0x10, ro32 0x14]

/-- SUPV.IN[i] (R339, R341, R349). -/
def rowsSupIn : List RRow := [
  r1 0 [fd rw 31 0 0], r1 4 [fd rw 0 0 0], r1 8 [fd ro 0 0 0, fd ro 1 1 0, fd ro 2 2 0],
  r1 0xC [fd ro 15 0 0, fd ro 31 16 0]]

/-- TILE[t] (R43–R45, R166, R172, R179, R257, R307, R322, R326, R335). -/
def rowsTile : List RRow := [
  r1 0 [fdr rwl 7 0 0 1 255, fdr rwl 15 8 0 1 255, fd rwl 16 16 0], r1 4 [fd ro 0 0 0, fd ro 1 1 0, fd w1c 2 2 0],
  r1 0x10 [fd ro 15 0 0, fd rc 31 16 0xFFFF], r1 0x14 [fd rw 15 0 0x1000], rn 0x40 4 12 [fd ro 31 0 0],
  rn 0x80 4 12 [fd rw 14 0 0x555], rn 0xC0 4 12 [fd ro 3 0 0, fd ro 5 4 1],
  rn 0x100 4 12 [fdr rw 12 0 0x155 0 8191], r1 0x140 [fd ro 12 0 0, fd rc 28 16 0], ro32 0x144,
  rn 0x200 4 12 [fd ro 3 0 0, fd ro 4 4 1, fd ro 11 8 0, fd ro 31 16 0],
  r1 0x300 [fdr rwl 11 0 5 1 4095, fd ro 27 16 5], r1 0x304 [fd rw 0 0 0, fd rw 7 4 0], r1 0x308 [fd rw 11 0 0],
  r1 0x30C [fd ro 0 0 0, fd ro 1 1 0, fd ro 31 16 0], r1 0x310 [fdr rw 3 0 0 0 11, fd rw 4 4 0], ro32 0x314]

/-- VID[n] (R168–R184). -/
def rowsVid : List RRow := [
  r1 0 [fd rwl 0 0 0, fdr rwl 2 1 0 0 2, fd rwl 3 3 0, fd rwl 4 4 0, fd rwl 5 5 0, fd rwl 6 6 0],
  r1 4 [fdr rw 8 0 0x30 0 288], r1 8 [fd rw 9 0 0], r1 0xC [fd rw 0 0 0, fd rw 15 8 0x5F],
  r1 0x10 [fd rw 15 0 0, fd rw 27 16 0],
  r1 0x14 [fd rwl 3 0 1, fd rwl 6 4 0, fd rwl 11 8 1, fd rwl 15 12 0, fd rwl 19 16 0],
  r1 0x18 [fd rw 15 0 0, fdr rw 23 16 8 1 255], r1 0x1C [fd rw 15 0 0, fdr rw 30 16 0 0 16384],
  r1 0x20 [fd ro 0 0 0, fd ro 1 1 0, fd ro 2 2 0, fd w1c 3 3 0, fd w1c 4 4 0, fd w1c 5 5 0], r1 0x24 [fd ro 15 0 0],
  r1 0x28 [fdr rw 15 0 0xFFFF 1 0xFFFF], ro32 0x2C, ro32 0x30,
  r1 0x34 [fd ro 7 0 0, fd ro 15 8 0, fd ro 17 16 0], r1 0x38 [fd ro 15 0 0, fd ro 31 16 0]]

/-- COR[n] (R194–R212). -/
def rowsCor : List RRow := [
  r1 0 [fd ro 0 0 0, fd ro 1 1 0, fd ro 2 2 0, fd ro 3 3 0, fd ro 6 4 0, fd ro 15 8 0],
  r1 4 [fd rw 0 0 1, fdr rw 7 4 4 1 8], r1 8 [fd rw 15 0 0xC000], r1 0xC [fd rw 15 0 0xE000, fd rw 31 16 0x7FFF],
  r1 0x10 [fd rw 13 0 0x800, fd rw 29 16 0x3000], r1 0x14 [fdr rw 14 0 0x10 0 16384],
  r1 0x18 [fd rw 13 0 0, fd rw 31 16 0], r1 0x1C [fdr rw 14 0 0 0 16384], r1 0x20 [fd rw 15 0 0, fd rw 31 16 0],
  ro32 0x40, ro32 0x44, ro32 0x48, r1 0x4C [fd ro 14 0 0, fd ro 30 16 0], r1 0x50 [fd ro 12 0 0, fd ro 28 16 0],
  r1 0x54 [fd ro 14 0 0, fd ro 31 31 0], ro32 0x58, r1 0x5C [fd ro 15 0 0], ro32 0x60]

/-- FIL[n] (R215–R237). -/
def rowsFil : List RRow := [
  r1 0 [fd rw 0 0 0, fd rw 1 1 0, fd rw 2 2 0, fd rw 3 3 1, fd rw 4 4 0, fd rw 5 5 0], r1 4 [fd rw 0 0 0],
  r1 8 [fd rw 3 0 4], r1 0xC [fd rw 13 0 0, fd rw 30 16 0], r1 0x10 [fd rw 17 0 0], r1 0x14 [fd rw 17 0 0],
  r1 0x18 [fd rw 15 0 0], r1 0x1C [fd rw 9 0 0, fd rw 25 16 0], r1 0x20 [fd rw 7 0 0], r1 0x24 [fd rw 8 0 0],
  r1 0x28 [fd rw 3 0 0, fd rw 11 8 0],
  r1 0x40 [fd ro 0 0 0, fd ro 1 1 0, fd ro 2 2 0, fd ro 3 3 0, fd ro 4 4 0, fd w1c 5 5 0, fd w1c 6 6 0],
  ro32 0x44, r1 0x48 [fd ro 8 0 1, fd ro 24 16 1, fd ro 31 31 0], r1 0x4C [fd ro 15 0 0, fd ro 24 16 0],
  r1 0x50 [fd ro 14 0 0, fd ro 30 16 0], r1 0x54 [fd ro 14 0 0, fd ro 30 16 0], ro32 0x58, ro32 0x5C,
  r1 0x60 [fd ro 15 0 0, fd ro 16 16 0], ro32 0x64, r1 0x68 [fd ro 15 0 0]]

/-- THR[n] (R252–R259). -/
def rowsThr : List RRow := [
  rn 0 8 2 [fd rw 0 0 0, fd rw 1 1 0, fd rw 2 2 0, fd rw 3 3 0, fd rw 5 4 0, fd rw 6 6 0, fdr rw 15 8 1 1 255,
    fd rw 23 16 0],
  rn 4 8 2 [fd rw 15 0 0x8000, fd rw 31 16 0x7FFF], r1 0x20 [fd w1c 0 0 0, fd w1c 1 1 0],
  r1 0x24 [fd ro 15 0 0, fd ro 31 16 0], ro32 0x28, ro32 0x2C]

/-- FF[n] (R319–R330). -/
def rowsFf : List RRow := [
  r1 0 [fd rw 0 0 0], r1 4 [fd rwl 0 0 0, fd rwl 1 1 0, fd rwl 2 2 0, fd rwl 3 3 1, fd rwl 6 4 4],
  r1 8 [fd rw 13 0 0],
  r1 0xC [fd ro 0 0 0, fd ro 1 1 0, fd w1c 2 2 0, fd ro 3 3 0, fd w1c 4 4 0, fd w1c 5 5 0],
  r1 0x10 [fd ro 8 0 0, fd rc 24 16 0], r1 0x14 [fd ro 13 0 0, fd ro 17 16 2], ro32 0x18, ro32 0x1C, ro32 0x20,
  r1 0x24 [fd ro 13 0 0, fd ro 16 16 0]]

/-- CMPW[n] (R333, R334). -/
def rowsCmpw : List RRow := [
  r1 0 [fd rw 0 0 0, fd rw 1 1 0, fd rw 2 2 0, fd rw 5 4 0, fd rw 6 6 0, fd rw 7 7 0],
  r1 4 [fd rw 9 0 0, fd rw 25 16 0x3FF], r1 8 [fd ro 0 0 0, fd ro 1 1 0, fd ro 3 2 0], ro32 0xC, ro32 0x10, ro32 0x14]

/-- SGEN[n] (R331, R332). -/
def rowsSgen : List RRow := [
  rn 0 8 4 [fd rw 19 0 0, fd rw 31 31 0], rn 4 8 4 [fdr rw 15 0 1 1 65535], r1 0x40 [fd ro 0 0 0], ro32 0x44, ro32 0x48]

/-- HEAD[n] (R307–R318). -/
def rowsHead : List RRow := [
  r1 0 [fd rw 0 0 0, fd rw 1 1 0, fd rw 2 2 0], r1 4 [fd rw 15 0 0x40],
  r1 8 [fd ro 6 0 0, fd ro 7 7 1, fd ro 8 8 0, fd ro 9 9 0, fd ro 11 10 0], ro32 0xC, r1 0x10 [fd ro 15 0 0],
  ro32 0x14, ro32 0x18, r1 0x1C [fd ro 15 0 0]]

/-- FAB[r] (R354–R371). -/
def rowsFab : List RRow := [
  r1 0 [fd ro 2 0 0, fd ro 3 3 0, fd ro 4 4 0, fd w1c 5 5 0, fd ro 15 8 0], ro32 4, ro32 8,
  r1 0xC [fdr rw 7 0 8 1 255, fdr rw 15 8 1 1 255, fd rw 16 16 0],
  rn 0x10 4 8 [fd rwl 4 0 0, fd rwl 9 5 0, fd rwl 14 10 0, fd rwl 19 15 0, fd rw 21 20 0, fd rwl 22 22 0,
    fd rwl 31 24 0],
  rn 0x40 4 16 [fdr rw 1 0 0 0 2, fd rw 13 8 0], r1 0x80 [fd rw 11 0 0, fd rw 12 12 0, fd rw 13 13 0, fd rw 31 16 0],
  rn 0x90 4 12 [fd ro 31 0 0], ro32 0xC0, ro32 0xC4, ro32 0xC8, ro32 0xCC, ro32 0xD0]

/-- Queue control block (R58): QBIND, QCTL, RPL_BASE, CMD_HEAD … QERR. -/
def rowsQcb : List RRow := [
  r1 0 [fd ro 4 0 0, fd ro 8 8 0], r1 4 [fd rw 0 0 0, fd rw 5 4 0, fd rw 11 8 0], r1 8 [fd rw 31 12 0],
  r1 0xC [fd rw 31 0 0], r1 0x10 [fd ro 9 0 0], r1 0x14 [fd ro 9 0 0], r1 0x18 [fd wo 9 0 0], r1 0x1C [fd ro 9 0 0],
  r1 0x20 [fd rw 9 0 0], ro32 0x24, ro32 0x28, ro32 0x2C, ro32 0x30, r1 0x34 [fd w1c 0 0 0, fd w1c 1 1 0]]

/-- BAR0 port registers (R58): PSTAT, PINFO, PCTL, BAR2_WR. -/
def rowsBport : List RRow := [
  r1 0 [fd ro 0 0 0, fd ro 1 1 0, fd ro 2 2 0, fd w1c 3 3 0], r1 4 [fd ro 2 0 0, fd ro 15 8 0],
  r1 8 [fd rw 0 0 0, fd rw 11 8 0], ro32 0xC,
  rn 0x9000 16 16 [fd rw 31 2 0], rn 0x9004 16 16 [fd rw 31 0 0], rn 0x9008 16 16 [fd rw 31 0 0],
  rn 0x900C 16 16 [fd rw 0 0 1], r1 0x9800 [fd ro 15 0 0], ro32 0x9804]

/-- The registers of a block. -/
def rows : Blk → List RRow
  | .dev => rowsDev | .part => rowsPart | .flt => rowsFlt | .src => rowsSrc | .nvm => rowsNvm
  | .enc => rowsEnc | .ax => rowsAx | .gen => rowsGen | .hcfg => rowsHcfg | .swm => rowsSwm
  | .paq => rowsPaq | .dma => rowsDma | .mover => rowsMover | .pair => rowsPair | .ruleG => rowsRuleG
  | .rule => rowsRule | .zone => rowsZone | .pmode => rowsPmode | .strm => rowsStrm | .rring => rowsRring
  | .bank => rowsBank | .tbp => rowsTbp | .irq => rowsIrq | .pin => rowsPin | .supv => rowsSupv
  | .conv => rowsConv | .supIn => rowsSupIn | .tile => rowsTile | .vid => rowsVid | .cor => rowsCor
  | .fil => rowsFil | .thr => rowsThr | .ff => rowsFf | .cmpw => rowsCmpw | .sgen => rowsSgen
  | .head => rowsHead | .fab => rowsFab | .qcb => rowsQcb | .bport => rowsBport | .void => []

/-- Whether an offset is one of a row's registers. -/
def RRow.has (r : RRow) (off : Nat) : Bool :=
  decide (r.off ≤ off) && decide ((off - r.off) % r.stride = 0) && decide ((off - r.off) / r.stride < r.n)

/-- The fields of a register; none at an undefined offset (R50). -/
def fieldsOf (b : Blk) (off : Nat) : Option (List Fd) := ((rows b).find? (·.has off)).map (·.fds)

/-- The default severity of fault source `s` in the source map of R404; none for a reserved number. -/
def srcDefault (s : Nat) : Option Nat :=
  if s ≤ 0x00B then some (if s = 8 ∨ s = 9 then 3 else if s = 2 ∨ s = 3 ∨ s = 4 ∨ s = 0xB then 0 else 1)
  else if 0x010 ≤ s ∧ s ≤ 0x017 then some 1
  else if 0x018 ≤ s ∧ s ≤ 0x020 then some 0
  else if 0x028 ≤ s ∧ s ≤ 0x030 then some 0
  else if s = 0x031 then some 1
  else if 0x040 ≤ s ∧ s ≤ 0x05F then some 1
  else if 0x060 ≤ s ∧ s ≤ 0x080 then some 0
  else if 0x088 ≤ s ∧ s ≤ 0x097 then some 1
  else if 0x0A0 ≤ s ∧ s ≤ 0x0AF then some 1
  else if s = 0x0B0 ∨ s = 0x0B4 ∨ s = 0x0B8 then some 0
  else if 0x0B1 ≤ s ∧ s ≤ 0x0B3 then some 1
  else if 0x0C0 ≤ s ∧ s ≤ 0x0C7 then some 1
  else if 0x0C8 ≤ s ∧ s ≤ 0x0D7 then some 0
  else if 0x0D8 ≤ s ∧ s ≤ 0x0DF then some 1
  else if 0x0E0 ≤ s ∧ s ≤ 0x0EF then some 0
  else if 0x100 ≤ s ∧ s ≤ 0x17F then
    some (if s % 16 ∈ [0x0, 0x1, 0x2, 0x7, 0x9, 0xA, 0xC, 0xE, 0xF] then 1 else 0)
  else none

/-- Reset values that depend on the instance or on the offset inside a row (R24). -/
def rstSpecial (k : RKey) : Option Word :=
  match k.blk with
  | .ax => if k.off = 0 then some (BitVec.ofNat 32 (0x14400000 + k.i)) else none
  | .src => if k.off = 0 then some (match srcDefault k.i with | some v => BitVec.ofNat 32 (v + 8) | none => 0) else none
  | .part =>
    if k.off = 0x200 then some 0x20000
    else if 0x400 ≤ k.off ∧ k.off < 0x420 then some 0x1000 else none
  | .tile =>
    if 0xC0 ≤ k.off ∧ k.off < 0xF0 then some (BitVec.ofNat 32 (0x10 + (k.off - 0xC0) / 4))
    else if 0x100 ≤ k.off ∧ k.off < 0x110 then some 0x156
    else if 0x200 ≤ k.off ∧ k.off < 0x230 then some (BitVec.ofNat 32 (0x10 + (k.off - 0x200) / 4))
    else none
  | .head => if k.off = 8 then some (BitVec.ofNat 32 (0x80 + k.i)) else none
  | .supIn => if k.off = 0 ∧ 64 ≤ k.i then some (BitVec.ofNat 32 (2 ^ (k.i % 8))) else none
  | .bport => if k.off = 4 then some (BitVec.ofNat 32 k.i) else none
  | _ => none

/-- The reset word of a list of fields. -/
def fieldsRst : List Fd → Word
  | [] => 0
  | f :: fs => setFld (fieldsRst fs) f.hi f.lo f.rst

/-- The value a register holds after power-on reset (R24). -/
def rstVal (k : RKey) : Word :=
  match rstSpecial k with
  | some w => w
  | none => match fieldsOf k.blk k.off with
    | some fs => fieldsRst fs
    | none => 0

/-! ## Addresses (R48, R49, R50) -/

/-- What a 32-bit internal address names. -/
inductive Loc where
  | unmapped
  | reg (k : RKey)
  | corr (n bank i : Nat)
  | mem (off : Nat)
  deriving DecidableEq, Repr

/-- A register of a block of `cnt` instances `stride` apart from `base`, or `void` past the end. -/
def instReg (b : Blk) (x base stride cnt : Nat) : RKey :=
  if (x - base) / stride < cnt then ⟨b, (x - base) / stride, (x - base) % stride⟩ else ⟨.void, 0, x⟩

/-- The channel sub-block at an offset of 0x0000–0x7FFF of a channel block. -/
def chanBlk : Nat → Blk
  | 0 => .vid | 1 => .cor | 2 => .fil | 3 => .thr | 4 => .ff | 5 => .cmpw | 6 => .sgen | _ => .head

/-- The register at offset `x` of one of the 64 KiB blocks at 0x0000_0000–0x000D_FFFF. -/
def lowReg (blk x : Nat) : RKey :=
  match blk with
  | 0 => ⟨.dev, 0, x⟩
  | 1 => ⟨.void, 0, x⟩
  | 2 => ⟨.part, 0, x⟩
  | 3 => if x < 0x1000 then ⟨.flt, 0, x⟩ else instReg .src x 0x1000 16 512
  | 4 => ⟨.nvm, 0, x⟩
  | 5 => if x < 0x1000 then instReg .enc x 0 0x20 32
         else if x < 0x2000 then instReg .ax x 0x1000 0x40 8
         else if x < 0x3000 then instReg .gen x 0x2000 0x40 16
         else instReg .hcfg x 0x3000 4 96
  | 6 => ⟨.swm, 0, x⟩
  | 7 => ⟨.paq, 0, x⟩
  | 8 => if x < 0x1000 then instReg .dma x 0 0x40 64 else instReg .mover x 0x1000 4 4
  | 9 => if x < 0x400 then instReg .pair x 0 8 96
         else if x < 0x1000 then ⟨.ruleG, 0, x - 0x400⟩ else instReg .rule x 0x1000 0x40 64
  | 10 => instReg .zone x 0 0x20 1024
  | 11 => if x < 0x1000 then instReg .pmode x 0 4 8
          else if x < 0x3000 then instReg .strm x 0x1000 0x100 8 else instReg .rring x 0x3000 0x20 32
  | 12 => if x < 0x100 then instReg .bank x 0 0x10 8
          else if x < 0x200 then ⟨.tbp, 0, x - 0x100⟩
          else if x < 0x1000 then instReg .irq x 0x200 0x10 8 else instReg .pin x 0x1000 4 256
  | _ => if x < 0x100 then ⟨.supv, 0, x⟩
         else if x < 0x1000 then instReg .conv x 0x100 0x20 8 else instReg .supIn x 0x1000 0x20 128

/-- The global address map of R48. Alignment is checked where a command names the address. -/
def locate (a : Nat) : Loc :=
  if a < 0x000E0000 then .reg (lowReg (a / 0x10000) (a % 0x10000))
  else if 0x01000000 ≤ a ∧ a < 0x01800000 then .reg ⟨.tile, (a - 0x01000000) / 0x100000, a % 0x100000⟩
  else if 0x02000000 ≤ a ∧ a < 0x02600000 then
    if a % 0x10000 < 0x8000 then
      .reg ⟨chanBlk (a % 0x10000 / 0x1000), (a - 0x02000000) / 0x10000, a % 0x1000⟩
    else .unmapped
  else if 0x10000000 ≤ a ∧ a < 0x10C00000 then
    .corr ((a - 0x10000000) / 0x20000) (a % 0x20000 / 0x10000) (a % 0x10000 / 4)
  else if 0x20000000 ≤ a ∧ a < 0x28000000 then .reg ⟨.fab, (a - 0x20000000) / 0x1000000, a % 0x1000000⟩
  else if 0x30000000 ≤ a ∧ a < 0x31000000 then .mem (a - 0x30000000)
  else .unmapped

/-- The internal address of a register, the inverse of `locate` on the register blocks (R20). -/
def RKey.addr (k : RKey) : Nat :=
  match k.blk with
  | .dev => k.off | .part => 0x20000 + k.off | .flt => 0x30000 + k.off
  | .src => 0x31000 + 16 * k.i + k.off | .nvm => 0x40000 + k.off
  | .enc => 0x50000 + 0x20 * k.i + k.off | .ax => 0x51000 + 0x40 * k.i + k.off
  | .gen => 0x52000 + 0x40 * k.i + k.off | .hcfg => 0x53000 + 4 * k.i + k.off
  | .swm => 0x60000 + k.off | .paq => 0x70000 + k.off | .dma => 0x80000 + 0x40 * k.i + k.off
  | .mover => 0x81000 + 4 * k.i + k.off | .pair => 0x90000 + 8 * k.i + k.off
  | .ruleG => 0x90400 + k.off | .rule => 0x91000 + 0x40 * k.i + k.off | .zone => 0xA0000 + 0x20 * k.i + k.off
  | .pmode => 0xB0000 + 4 * k.i + k.off | .strm => 0xB1000 + 0x100 * k.i + k.off
  | .rring => 0xB3000 + 0x20 * k.i + k.off | .bank => 0xC0000 + 0x10 * k.i + k.off
  | .tbp => 0xC0100 + k.off | .irq => 0xC0200 + 0x10 * k.i + k.off | .pin => 0xC1000 + 4 * k.i + k.off
  | .supv => 0xD0000 + k.off | .conv => 0xD0100 + 0x20 * k.i + k.off | .supIn => 0xD1000 + 0x20 * k.i + k.off
  | .tile => 0x1000000 + 0x100000 * k.i + k.off
  | .vid => 0x2000000 + 0x10000 * k.i + k.off | .cor => 0x2001000 + 0x10000 * k.i + k.off
  | .fil => 0x2002000 + 0x10000 * k.i + k.off | .thr => 0x2003000 + 0x10000 * k.i + k.off
  | .ff => 0x2004000 + 0x10000 * k.i + k.off | .cmpw => 0x2005000 + 0x10000 * k.i + k.off
  | .sgen => 0x2006000 + 0x10000 * k.i + k.off | .head => 0x2007000 + 0x10000 * k.i + k.off
  | .fab => 0x20000000 + 0x1000000 * k.i + k.off
  | .qcb => 0x8100 + 0x40 * k.i + k.off | .bport => 0x8000 + k.off | .void => k.off

end Sys2Proof.Machine
end

