-- ==== Sys2Proof/Machine/State.lean ====
section
/-! DEFINITION. The state of the TQ96 as plain data: the register file (R48, R58), the memories, and
every queue, counter, timer and mode that the spec gives the device beside its registers. -/

namespace Sys2Proof.Machine

/-- Stops that a command may name. No command of the table ends in one: a command the ring does not offer
and an event whose condition does not hold leave the device as it was. Raised by no meaning; safe. -/
inductive Fault where
  /-- The spec describes no behaviour. Raised by no meaning; safe. -/
  | unspecified
  deriving DecidableEq, Repr

/-- Refusals by name. -/
inductive Refusal where
  /-- A row of the table without a meaning yet, by its mnemonic. Raised by refused arms only; safe. -/
  | notModelled (mnemonic : String)
  deriving DecidableEq, Repr

/-! ## Outputs -/

/-- What the device puts out: the log of effects that leave it. -/
inductive Out where
  /-- Reply or completion words written at word `idx` of the reply ring of queue `q`, which lies from address
  `base` in the memory of the port's host; that of queue 64 is on the device (R58, R63, R72). -/
  | reply (q base idx : Nat) (ws : List Word)
  /-- An MSI-X message of a host port (R59, R63). -/
  | msix (port vec : Nat)
  /-- A VSP pulse of video port `n` (R175): its active level, its delay from the line-start edge and its width, in
  sample periods. -/
  | vsp (n : Nat) (high : Bool) (delay width : Nat)
  /-- The VCK divider of video port `n` restarts (R174): its period in sample periods, its high time in half sample
  periods, and the eighths of a sample period to the first rising edge. -/
  | vck (n k hi ph : Nat)
  /-- Words returned by a read that a row names by itself: register, BAR2 or debug reads. -/
  | data (ws : List Word)
  /-- Bytes returned on the management SPI port or by BAR2. -/
  | bytes (bs : List Byte)
  /-- The status of a register write that a row names by itself, judged as REG_WRITE would be. -/
  | status (q st : Nat)
  /-- A read request to host memory by a DMA channel: port, address and length (R374). -/
  | hostRd (port addr n : Nat)
  /-- Bytes written to host memory by a DMA channel (R56). -/
  | hostWr (port addr : Nat) (bs : List Byte)
  /-- A stream frame sent by port `k` (R285). -/
  | frame (k : Nat) (ws : List Word)
  /-- Idle blocks that end a frame of stream port `k` (R285). -/
  | idle (k n : Nat)
  /-- A Swarm frame sent, east when `east` (R148). -/
  | swarm (east : Bool) (bs : List Byte)
  /-- Tap words (R361) that enter a hard tap of region `r`: 0 fast path, 1 record, 2 token, 3 action. -/
  | tap (r t : Nat) (ws : List (BitVec 36))
  /-- An event pulse into the fabric: region, event input (R391, R298). -/
  | pulse (r ev : Nat)
  deriving DecidableEq, Repr

/-! ## Faults -/

/-- A report on a source's wires that the collector has not yet taken (R404–R406): the source, its member,
the master fields of R409, DETAIL word 6, and whether INJECT or a broken wire made it. -/
structure Report where
  src : Nat
  mem : Option Nat
  part : Nat
  port : Nat
  unit : Nat
  acc : Nat
  addr : Word
  d6 : Word
  inj : Bool
  bw : Bool
  /-- severity that the rule of the raise gives in place of SRC.CFG.SEV (R370) -/
  sev : Option Nat
  deriving DecidableEq, Repr

/-- The fault collector beside its registers (R405, R408, R410, R416). Masks are by source number. -/
structure FltSt where
  /-- members whose real cause is active -/
  cause : List (Nat × Nat)
  /-- members held active by INJECT MODE 1 -/
  hold : List (Nat × Nat)
  /-- members with a broken wire, real -/
  bw : List (Nat × Nat)
  /-- members with a broken wire held by INJECT MODE 2 -/
  bwInj : List (Nat × Nat)
  /-- the FIFO, oldest first, at most 64 records of 8 words -/
  fifo : List (List Word)
  /-- nanoseconds until the record writer is free -/
  wrBusy : Nat
  /-- the raise held waiting: its record and severity -/
  wrWait : Option (List Word × Nat)
  /-- time of the last overflow raise -/
  lastOvf : Option Nat
  /-- time of the last record logged to NVM -/
  lastLog : Option Nat
  deriving DecidableEq, Repr

/-! ## Host side -/

/-- The link of a serial port in HOST role (R55, R56, R59, R78). -/
structure Link where
  up : Bool
  /-- Bus Master Enable -/
  bme : Bool
  /-- link lost or reset and the drain of R78 step 3 not yet done -/
  drain : Bool
  /-- PERST_N released -/
  perst : Bool
  /-- time of the last fault notification -/
  lastMsg : Option Nat
  /-- a further notification is due at 10 µs -/
  due : Bool
  /-- memory space enable -/
  mse : Bool
  /-- in D3hot -/
  d3 : Bool
  /-- MSI-X enable, and its function mask -/
  msixEn : Bool
  msixMask : Bool
  /-- the addresses of BAR0 and BAR2, and the device control word -/
  bar0 : BitVec 64
  bar2 : BitVec 64
  devCtl : BitVec 16
  deriving DecidableEq, Repr

/-- Calibration run by CAL_RUN (R200–R206). -/
structure CalSt where
  /-- channels named -/
  chans : List Nat
  dark : Bool
  white : Bool
  compute : Bool
  /-- lines per phase, and lines passed over at its start -/
  lines : Nat
  settle : Nat
  /-- DKCODE where AUTODARK = 1 -/
  code : Option Nat
  /-- time at which TMO runs out -/
  tmo : Nat
  /-- 0 dark, 1 white, 2 compute -/
  stage : Nat
  dkports : List Nat
  deriving DecidableEq, Repr

/-- What an outstanding long operation does. -/
inductive OpKind where
  | partReset (p : Nat)
  | calRun (c : CalSt)
  /-- channels still to swap, all channels named, line L, deadline, late swaps, time of the first swap -/
  | calCommit (left all : List Nat) (line deadline late : Nat) (t : Option Nat)
  | corrLoad (n : Nat) (src first count : Nat)
  | molt (h : Nat)
  | selftest (n : Nat)
  | bitEnd (sr : Nat)
  /-- region, destination offset in record memory, MEM, and whether the region was STOPPED at the start -/
  | readback (r dest : Nat) (withMem coh : Bool)
  | nvmWrite (addr : Nat) (ws : List Word)
  | nvmLock (mask : Nat)
  | train
  | resync (deadline : Nat)
  /-- an operation whose effect is complete -/
  | finished
  deriving DecidableEq, Repr

/-- An outstanding long operation (R72): its queue, TAG, NOTIFY flag and issuing partition; once its
result is decided, the completion words held for delivery. -/
structure LongOp where
  q : Nat
  tag : Nat
  notify : Bool
  part : Nat
  kind : OpKind
  held : Option (List Word)
  /-- outstanding as the link of its queue was lost: its completion is dropped (R78) -/
  lost : Bool
  deriving DecidableEq, Repr

/-- A command taken whose first reply is written later (ACT_INSERT, R305; SUP_URGENT, R343; CLKSTOP, R371). -/
structure Waiting where
  q : Nat
  tag : Nat
  notify : Bool
  part : Nat
  deriving DecidableEq, Repr

/-- A lease that is held: its number, holder and remaining time in nanoseconds (R95–R97). -/
structure Lease where
  id : Nat
  holder : Nat
  rem : Nat
  deriving DecidableEq, Repr

/-- A partition's ledger snapshot (R113, R114). -/
structure Snap where
  part : Nat
  seq : Nat
  t : Nat
  flags : Word
  led : List (Nat × Nat)
  owner : List (Nat × Nat)
  deriving DecidableEq, Repr

/-! ## Encoders, axes, generators, Swarm -/

/-- An encoder port: filtered levels, time of the last counted edge, and DEGRADE (R118–R123, R407). -/
structure Enc where
  a : Bool
  b : Bool
  z : Bool
  lastEdge : Option Nat
  deg : Bool
  /-- time of the last change of level that the filter accepted, of A and of B; of the last Z edge taken (R118) -/
  chgA : Option Nat
  chgB : Option Nat
  chgZ : Option Nat
  deriving DecidableEq, Repr

/-- An axis beside its registers (R125–R131). -/
structure Axis where
  pos : BitVec 48
  /-- the 16-bit remainder of R126 -/
  frac : BitVec 16
  /-- exact divergence, in 1/65,536 counts (R127) -/
  div : Int
  /-- primary counts since the last rebase -/
  trav : Int
  /-- backup counts since the last rebase (R127) -/
  bk : Int
  /-- failed over with no backup bound (R130) -/
  noPort : Bool
  /-- displacement counted for RATE -/
  odo : Int
  /-- displacement at each 10 µs update, newest first -/
  hist : List Int
  deriving DecidableEq, Repr

/-- A line token (R136): generator, count, latched position, UNSYNC. -/
structure Token where
  gen : Nat
  count : Nat
  pos : BitVec 48
  unsync : Bool
  deriving DecidableEq, Repr

/-- A trigger generator beside its registers (R135–R138, R144). -/
structure Gen where
  /-- index of the first trigger point not crossed -/
  next : Nat
  /-- one above the index of the last token made since arming (R138, R448) -/
  top : Nat
  /-- that point, 48.16 fixed point -/
  nextT : BitVec 64
  /-- tokens delivered since arming -/
  count : Nat
  backlog : List Token
  lastPos : Option (BitVec 48)
  lock : Bool
  /-- time of the last delivery -/
  lastDel : Option Nat
  /-- count of the last token delivered -/
  lastCount : Option Nat
  /-- end of the trigger pulse now running -/
  pulseEnd : Option Nat
  deriving DecidableEq, Repr

/-- The Swarm link beside SWM (R148–R161). Per-axis, per-generator and per-node values are sparse lists. -/
structure SwSt where
  /-- tokens awaiting their delivery instant -/
  tokQ : List (Nat × Token)
  /-- token frames made and not yet sent: generator, count, instant -/
  txTok : List (Nat × Nat × Nat)
  /-- frames accepted: type, origin, SEQ, arrival -/
  seen : List (Nat × Nat × Nat × Nat)
  /-- SEQ last used per type -/
  seqs : List (Nat × Nat)
  /-- last good TIME frame -/
  lastTime : Option Nat
  /-- T0 and PITCH of the last GDESC frame, by generator -/
  gdesc : List (Nat × Nat × Nat)
  /-- position, rate and time of the last POS frame, by axis -/
  pos : List (Nat × Nat × Int × Nat)
  /-- start of holdover -/
  hold0 : Option Nat
  /-- last 16 frames sent, newest first, east and west -/
  sentE : List (List Byte)
  sentW : List (List Byte)
  /-- frame waited for from the neighbour: segment east?, byte 1 (TYPE and ORIGIN), SEQ, deadline -/
  nak : List (Bool × Nat × Nat × Nat)
  /-- NAK frames that wait for frames of higher priority (R148), with their segment east? -/
  txNak : List (Bool × List Byte)
  /-- good frames in a row on a failed segment -/
  goodE : Nat
  goodW : Nat
  /-- last STATUS by node, and when expected first -/
  status : List (Nat × Nat)
  /-- generators that have not yet switched in RESYNC -/
  rsGens : List Nat
  /-- instant of the first RESYNC switch -/
  rsT : Option Nat
  /-- axes that adopt the next POS -/
  rsAxes : List Nat
  /-- holdover has ended and local ports count (R158) -/
  fall : Bool
  /-- what RESYNC has changed since its first switch: registers with their values before it, and the step of
  each axis that has adopted a position (R161) -/
  rsSave : List (RKey × Word)
  rsStep : List (Nat × Int)
  /-- fault-summary records in the Swarm receive bridge (R39, R162) -/
  rx : Nat
  /-- time base at the last frame of each kind and number sent by its origin, by kind × 16 + number (R148) -/
  sentAt : List (Nat × Nat)
  deriving DecidableEq, Repr

/-! ## Tiles and channels -/

/-- A tile beside its registers: tokens that have arrived and await their line-start edge (R142). -/
structure Tile where
  toks : List Token
  /-- time of the write that started the PLL and has not locked yet (R173) -/
  pllStart : Option Nat
  /-- a loss of lock not yet relocked -/
  lost : Bool
  /-- TRIP_N low now (R335) -/
  trip : Bool
  /-- a first speed measurement has been made (R44) -/
  measured : Bool
  /-- time of the last trip that chose the port of SNSSEL (R337) -/
  tripAt : Option Nat
  /-- die temperature at the last detection of over-temperature, in 1/16 °C (R404, R409) -/
  dieTemp : Word
  deriving DecidableEq, Repr

/-- A line in progress in a channel (R176–R178): what was fixed at its line start. -/
structure Line where
  num : Nat
  head : Nat
  epoch : Nat
  gen : Nat
  pos : BitVec 48
  unsync : Bool
  refused : Bool
  fenced : Bool
  /-- marked over-range by a loss of lock (R173) -/
  marked : Bool
  bank : Nat
  first : Nat
  count : Nat
  /-- its line block was dropped by its stream port (R288) -/
  dropped : Bool
  /-- its fast outputs go to the fabric tap (R361) -/
  tap : Bool
  /-- it is accumulated for calibration (R201) -/
  cal : Bool
  /-- time of its line-start edge -/
  t0 : Nat
  /-- STAT.FRZ as its reference window was completed, where FRZ has changed since (R220) -/
  frz : Option Bool
  /-- stream port that holds its line blocks, and their admission there (R288) -/
  lb : Option (Nat × Nat)
  deriving DecidableEq, Repr

/-- Hidden calibration accumulators of one phase (R200, R203): lines collected, and per pixel the sum,
the sum of squares and the over-range flag. -/
structure AccSt where
  n : Nat
  px : List (Int × Nat × Bool)
  deriving DecidableEq, Repr

/-- What a line's outputs carry with them to the collector, the stitcher and the rules (R254, R264, R267):
the line, its head, epoch and token, the fine and fast output counts and the f of each window. -/
structure LineTag where
  num : Nat
  head : Nat
  epoch : Nat
  gen : Nat
  pos : BitVec 48
  unsync : Bool
  m : Nat
  mf : Nat
  f0 : Nat
  f1 : Nat
  deriving DecidableEq, Repr

/-- An event-class record (R254, R259, R264, R276): its type, span, extremum or count, window and polarity
bits, and flags. -/
structure EvRec where
  tag : LineTag
  typ : Nat
  /-- path: fast (R262) -/
  fast : Bool
  start : Nat
  len : Nat
  ext : Int
  w0 : Bool
  w1 : Bool
  hi : Bool
  lo : Bool
  settle : Bool
  edge : Bool
  orr : Bool
  stitched : Bool
  deriving DecidableEq, Repr

/-- What a threshold unit sends to the collector, and the collector to the stitcher (R255). -/
inductive QItem where
  | ev (r : EvRec)
  | mark (t : LineTag)
  deriving DecidableEq, Repr

/-- A burst being gathered (R258, R259): the record so far, its greatest end and its events. -/
structure Burst where
  r : EvRec
  last : Nat
  n : Nat
  deriving DecidableEq, Repr

/-- An update of the tracker that has been made and is not yet in force (R217): the line number it first
acts on, the line mean with 16 fraction bits, and K. -/
structure Upd where
  at_ : Nat
  mean : Int
  k : Nat
  deriving DecidableEq, Repr

/-- A channel beside its registers. -/
structure Chan where
  line : Option Line
  /-- number of the last line started -/
  lastLine : Option Nat
  /-- tracker estimate B, 16 fraction bits (R216) -/
  est : Int
  upd : List Upd
  /-- B̂ of the line in progress (R217) -/
  bhat : Int
  /-- registers written under HOLD = 1 whose values wait (R235) -/
  held : List RKey
  /-- a pending SYNC restarts the tracker (R237) -/
  syncTrk : Bool
  /-- events and markers on their way to the collector (R255) -/
  evq : List QItem
  /-- burst mode of the line at the collector (R258) -/
  burst : Option Burst
  /-- records written for the line at the collector (EVLAST.REC) -/
  recs : Nat
  dk : AccSt
  wt : AccSt
  /-- lines still passed over in this calibration phase, and lines still to accumulate (R201) -/
  calSkip : Nat
  calLeft : Nat
  /-- 0x00, 0x04 or 0x05 (R204) -/
  calRes : Nat
  /-- first self-test attempt failed (R187) -/
  stFail : Bool
  /-- old port still routed until the line in progress ends (R316 step 3) -/
  oldPort : Bool
  /-- registers whose values, written under HOLD = 1 and freed by HOLD = 0, wait for the next line start under a new
  HOLD (R235) -/
  freed : List RKey
  /-- pixel values in the video bridge (R39) -/
  vbr : Nat
  deriving DecidableEq, Repr

/-- A VSP pulse (R175): time of its line-start edge, active level, delay and width in sample periods, and the sample
period in nanoseconds as a fraction. -/
structure VspPulse where
  t0 : Nat
  high : Bool
  delay : Nat
  width : Nat
  num : Nat
  den : Nat
  deriving DecidableEq, Repr

/-- A video port (R163): the pulses started on VSP that have not run out, the time of the last restart of the VCK divider, and the
voltage that the clamp holds on the coupling capacitor, in nanovolts (R171). -/
structure VidPort where
  vsp : List VspPulse
  vck : Option Nat
  clamp : Int
  deriving DecidableEq, Repr

/-- The open interval of a zone (R270, R271). -/
structure ZoneAcc where
  z : Nat
  j : Nat
  /-- lines taken, and the numbers of the lines of the interval that have started and are still in progress -/
  lines : Nat
  prog : List Nat
  count : Nat
  excl : Nat
  sum : Int
  sumsq : Nat
  mn : Int
  mx : Int
  mnln : Nat
  mxln : Nat
  mnix : Nat
  mxix : Nat
  unsync : Bool
  orr : Bool
  epochChg : Bool
  /-- head and epoch of the last line taken -/
  head : Nat
  epoch : Nat
  deriving DecidableEq, Repr

/-- A candidate held by the stitcher (R264, R265): the record in the grid of its leftmost head; the head,
last output and output count of its rightmost component in that head's own grid, and the SHIFT from that
grid to the record's; the time of its line-end marker; whether it is released and only waits for the earlier
lines of its head. -/
structure Cand where
  r : EvRec
  rHead : Nat
  rEnd : Nat
  rM : Nat
  rShift : Int
  mark : Option Nat
  out : Bool
  deriving DecidableEq, Repr

/-- An insert on its way to the action queue (R268, R293, R295): its key and axis, action words, late policy,
owner, and for an ACT_INSERT command its queue and TAG. -/
structure Insert where
  axis : Nat
  key : BitVec 48
  act0 : Word
  act1 : Word
  act2 : Word
  execLate : Bool
  owner : Nat
  cmd : Option Waiting
  deriving DecidableEq, Repr

/-- An outstanding MOLT of a head (R314–R318): its settings and whether the copy is complete; `auto` for
auto-Molt, which replies to no queue. -/
structure MoltSt where
  head : Nat
  old : Option Nat
  new : Option Nat
  imm : Bool
  arm : Bool
  line : Nat
  deadline : Nat
  copied : Bool
  auto : Bool
  deriving DecidableEq, Repr

/-! ## Action queue, streams, Firefly, supervisory converters, fabric, DMA -/

/-- A pending entry of the action queue (R292): its key, action words, owner and late policy; `late` for one that
was late at its acceptance and has not executed yet (R301), `fresh` for one accepted in the pause in force (R302). -/
structure Entry where
  axis : Nat
  key : BitVec 48
  act0 : Word
  act1 : Word
  act2 : Word
  owner : Nat
  policy : Bool
  late : Bool
  fresh : Bool
  deriving DecidableEq, Repr

/-- A line block admitted to a port buffer (R279, R288): its size in bytes, its words once its line has
ended, and how many of them have been sent. -/
structure LBlock where
  head : Nat
  num : Nat
  fast : Bool
  size : Nat
  /-- ORMAP as it was at the line start, which fixed the size -/
  ormap : Bool
  words : Option (List Word)
  sent : Nat
  /-- number of its line's admission at the port -/
  id : Nat
  deriving DecidableEq, Repr

/-- A stream port beside its registers (R284–R289). -/
structure Strm where
  /-- the reverse lane has been lost since the last good credit block -/
  lost : Bool
  gLast : BitVec 32
  /-- frames sent since the last good credit block (R287) -/
  spent : Nat
  seq : BitVec 32
  lbs : List LBlock
  /-- admissions of lines so far -/
  lines : Nat
  /-- records waiting, with their frame kind: 2 REC, 3 STAT -/
  recs : List (Nat × List Word)
  deriving DecidableEq, Repr

/-- A Firefly port beside its registers (R319–R332). -/
structure FfSt where
  /-- the code queue: CODE in [13:0], END in [14] -/
  q : List Nat
  /-- the code of rank 5 of R321 and its CODE.SRC -/
  base : Nat
  baseSrc : Nat
  /-- a DAC action not yet driven -/
  dac : Option Nat
  /-- IDLE is to be driven at the next update edge (R329) -/
  enable : Bool
  /-- DKCODE while a dark phase is on the port (R202) -/
  dark : Option Nat
  /-- value held by the deglitcher (R327) -/
  held : Option Nat
  /-- output mode now: current -/
  cur : Bool
  /-- the non-volatile value has been driven at power-up (R328) -/
  driven : Bool
  /-- FF_GATE stays low until the next START (R332) -/
  wait : Bool
  /-- pulses of the strobe generator: number and whether high -/
  pulses : List (Nat × Bool)
  /-- level at FF_SNS, in units of 1/341 mV (R333) -/
  sns : Int
  /-- the raw output by the high threshold and by the low one is active (R333) -/
  hi : Bool
  lo : Bool
  deriving DecidableEq, Repr

/-- An urgent request (R343): 0 comparator trip, 1 fabric, 2 command; for a command the replier, and for a
path test D, the attempt, and the first attempt's time. -/
structure SupReq where
  conv : Nat
  src : Nat
  loc : Nat
  cmd : Option Waiting
  test : Option Nat
  second : Bool
  t0 : Option Nat
  deriving DecidableEq, Repr

/-- An accumulator (R346). -/
structure SupAcc where
  sum : Int
  count : Nat
  mn : Int
  mx : Int
  deriving DecidableEq, Repr

/-- The supervisory converters beside their registers (R340–R346). -/
structure SupSt where
  /-- slot of the round in progress -/
  slot : Option Nat
  /-- urgent slot in progress: the requests it serves -/
  urg : Option (List SupReq)
  /-- start of the slot in progress -/
  at_ : Nat
  len : Nat
  /-- local input of each converter's slot, by converter × 32 + slot, plus 1; default 0, idle -/
  map : List (Nat × Nat)
  /-- the round in progress is protected -/
  prot : Bool
  /-- the next round restarts an aborted one under PROTECT = 1 -/
  guard : Bool
  /-- RUN has been cleared since the slot in progress began: the round ends with it (R342) -/
  ending : Bool
  pend : List SupReq
  /-- a path test whose test DAC settles, and when it has (R349 step 1) -/
  dac : Option (Nat × SupReq)
  /-- accumulators by input; default empty -/
  accs : List (Nat × SupAcc)
  deriving DecidableEq, Repr

/-- A load session (R366–R369). -/
structure Session where
  sr : Nat
  part : Nat
  hold : Bool
  hdr : List Word
  /-- frame and chunk expected -/
  frame : Nat
  chunk : Nat
  /-- chunks held of the frame -/
  buf : List Byte
  /-- frames written, in order -/
  data : List Byte
  /-- the frame has failed once -/
  failed : Bool
  /-- nanoseconds left of R369 -/
  rem : Nat
  /-- BIT_END has been issued: final CRC and tag given -/
  fin : Option (Word × List Word)
  deriving DecidableEq, Repr

/-- A queue under a hard queue controller (R359): its depth in words, words written and read, thresholds, the sticky
flags of writes and reads ignored, and the words read as they stood at the last three clocks of the write side, and the
words written at those of the read side, newest first. -/
structure Fifo where
  depth : Nat
  wr : Nat
  rd : Nat
  af : Nat
  ae : Nat
  wrIgn : Bool
  rdIgn : Bool
  rdSeen : List Nat
  wrSeen : List Nat
  deriving DecidableEq, Repr

/-- The user side of a region (R352–R359): flip-flops, bit 16k + j for cell j of cluster k; the bytes of memory blocks
M0–M11, packed as in the configuration; the queue of each block that serves as a FIFO; the signals that the design
puts to its gateways, to region r − 1 in [63:0] and to r + 1 in [127:64]; the levels of the nets; the request lines whose
latch still held a pulse when the region ceased to run (R363). -/
structure Fab where
  ff : BitVec 3072
  mem : List Byte
  fifos : List (Nat × Fifo)
  gate : BitVec 128
  nets : BitVec 8
  req : BitVec 16
  deriving DecidableEq, Repr

/-- A DMA channel beside its registers (R373–R391). -/
structure DmaCh where
  /-- copy of the descriptor in hand -/
  desc : Option (List Word)
  /-- address of that descriptor and its space (host) -/
  at_ : Nat
  atHost : Bool
  /-- space of PTR: host (R380) -/
  sp : Bool
  /-- a ring read is due -/
  fetch : Bool
  /-- bytes in the holding register -/
  held : List Byte
  /-- XSIDE = 0 in MODE 1 and 2: address and remaining length of the element or piece last read -/
  piece : Option (Nat × Nat)
  /-- XSIDE = 1: destination pieces read ahead and not yet filled, address and length (R383–R385) -/
  outq : List (Nat × Nat)
  /-- every stream byte has moved and ownership is to be returned -/
  done : Bool
  /-- stopping with this cause, after the drain -/
  stop : Option Nat
  /-- stream bytes of the descriptor read, and written; POSR and POSW hold their low 32 bits -/
  rdN : Nat
  wrN : Nat
  /-- ranges of memory that the descriptor has read, and written: space (0 internal, 1 + port), address, length (R392) -/
  rdR : List (Nat × Nat × Nat)
  wrR : List (Nat × Nat × Nat)
  deriving DecidableEq, Repr

/-- The state of the device. Register values are in `regs`; the other fields hold what no register holds.
A list of pairs is a sparse map: a number not listed has the default its docstring names. -/
structure State where
  /-- commands waiting, first in first out -/
  pending : List Instr
  /-- the time base, nanoseconds (R46) -/
  tb : Nat
  /-- how many open values have been taken (the model's own) -/
  free : Nat
  /-- effects that have left the device, oldest first -/
  out : List Out
  /-- the register file; default `rstVal` -/
  regs : List (RKey × Word)
  /-- values in force of staged registers (R180, R235, R256); default `rstVal` -/
  act : List (RKey × Word)
  /-- values written before HOLD was set that take effect at the next line start (R235) -/
  due : List (RKey × Word)
  /-- read latches (R47, R145) by reader × 2^48 + address; default 0; reader 65 is the debug port -/
  latch : List (Nat × Word)
  /-- selected response by reader (R250); default 0 -/
  sel : List (Nat × Nat)
  /-- owners by class × 65536 + index (R89); default 0 -/
  owner : List (Nat × Nat)
  leases : List Lease
  /-- ring words by queue × 1024 + index (R58, R82); default 0 -/
  ring : List (Nat × Word)
  /-- reply ring of queue 64 (R82); default 0 -/
  rpl : List (Nat × Word)
  /-- the queue next in turn (R70) -/
  rr : Nat
  /-- queues whose next reply carries AFTER_RESTART (R76) -/
  aftRst : BitVec 65
  /-- halted from the debug port (R85) -/
  halted : Bool
  /-- a halt request waits for the end of the command being applied (R85) -/
  haltReq : Bool
  /-- restarting (R76) -/
  restarting : Bool
  ops : List LongOp
  /-- ACT_INSERT waiting for its fate, if any (R305) -/
  insWait : List Waiting
  links : Vector Link 8
  /-- ledger terms by class × 65536 + instance × 16 + term (R105); default 0 -/
  led : List (Nat × Nat)
  /-- counting has stopped at a power fail (R117) -/
  ledStop : Bool
  snaps : List Snap
  /-- partitions whose next snapshot carries INJ, and SLOW (R114) -/
  injFlag : BitVec 32
  slowFlag : BitVec 32
  /-- queues bound besides QBIND: the boot queue (R87) -/
  bootQ : Nat
  flt : FltSt
  /-- reports not yet taken by the collector; empty between commands -/
  rep : List Report
  /-- power fail held (R426) -/
  pfail : Bool
  /-- in power-on reset (R419) -/
  por : Bool
  /-- RESET_N low and acted on (R423) -/
  rstn : Bool
  /-- boot steps 1 and 2 ended (R420) -/
  step1 : Bool
  step2 : Bool
  /-- supplies of group 3 valid, by rail (R441): 0–7 VDDA33_T, 8–15 VDDA33_FF_T, 16–23 VDDIO_G, 24 VDD_ENC -/
  rails : BitVec 25
  /-- f(SCLK_REF) in hertz (R172) -/
  sclkHz : Nat
  /-- NVM bytes; an unlisted byte reads 0xFF -/
  nvm : List Host.Cell
  /-- record and statistics memory; an unlisted byte reads 0 -/
  mem : List Host.Cell
  /-- correction tables by channel × 32768 + bank × 16384 + entry; default the identity entry -/
  corr : List (Nat × Word)
  enc : Vector Enc 32
  axes : Vector Axis 8
  gens : Vector Gen 16
  sw : SwSt
  tiles : Vector Tile 8
  chans : Vector Chan 96
  /-- video ports, by the head of each (R163) -/
  vports : Vector VidPort 96
  /-- records and markers in each collector, oldest first, with their channel (R261) -/
  coll : Vector (List (Nat × QItem)) 8
  /-- collector next in turn for the stitcher (R261) -/
  stRr : Nat
  /-- candidates held by the stitcher (R265) -/
  hold : List Cand
  /-- number of the last line-end marker of each head at the stitcher -/
  marks : List (Nat × Nat)
  /-- records that have left the stitcher and wait at the action rules, with the rule next in turn (R261, R268) -/
  ruleQ : List (EvRec × Nat)
  zones : List ZoneAcc
  /-- the insert buffer of the action queue, oldest first (R295) -/
  insBuf : List Insert
  molts : List MoltSt
  /-- one above the number of the last line started for each head (R314); default 0, none -/
  headLine : List (Nat × Nat)
  /-- marker lines that pulse, by owner × 32 + line, with the end of the pulse (R294); default 0, none -/
  markers : List (Nat × Nat)
  /-- the level to which the last edge at the pin that each interrupt line watches brought it, where the board drives it
  (R399, R400) -/
  boardLvl : Vector (Option Bool) 8
  /-- end of the time-base pulse running, and time base at the last one (R398) -/
  tbpEnd : Option Nat
  tbpLast : Nat
  /-- pending entries of the action queue, in insertion order (R292) -/
  paq : List Entry
  /-- the position of each axis as the action queue observes it (R297) -/
  obs : Vector (BitVec 48) 8
  /-- the action queue is paused (R302) -/
  paused : Bool
  strms : Vector Strm 8
  ffs : Vector FfSt 96
  sup : SupSt
  sessions : List Session
  /-- configuration of each region, its frames in order (R364); default none, EMPTY -/
  fabCfg : List (Nat × List Byte)
  /-- user side of each region -/
  fabs : Vector Fab 8
  /-- words held by each hard tap, by region × 4 + tap: 0 fast, 1 record, 2 token, 3 action (R360) -/
  taps : List (Nat × Nat)
  /-- a region with a net still high after CLKSTOP, and the command that waits for it (R371) -/
  clkstop : Option (Nat × Waiting)
  dma : Vector DmaCh 64
  /-- channel that each mover serves (R373) -/
  movers : Vector (Option Nat) 4
  /-- channels next in turn, for PRI = 0 and 1 -/
  dmaRr0 : Nat
  dmaRr1 : Nat
  /-- number of each partition's last snapshot (R114) -/
  snapSeq : List (Nat × Nat)
  /-- boot map fabric entries still to load in step 4, and tiles still to calibrate in step 5 (R420) -/
  bootFabs : List Nat
  bootTiles : List Nat
  /-- the patch is loaded, and DBGDIS and FABAUTH as step 1 read them (R431) -/
  dbgDis : Bool
  fabAuth : Bool
  /-- the capture taken at a power fail has been programmed (R426) -/
  gasp : Bool
  /-- a last-gasp slot has been prepared since power-on reset (R117) -/
  gaspSlot : Bool
  deriving DecidableEq, Repr

/-! ## Reset -/

/-- A port's link at reset: down, in PERST_N, its configuration state as PCI Express resets it (R54). -/
def Link.reset : Link := ⟨false, false, false, false, none, false, false, false, false, false, 0, 0, 0x2810⟩
/-- The fault collector at reset: nothing active, FIFO empty (R412). -/
def FltSt.reset : FltSt := ⟨[], [], [], [], [], 0, none, none, none⟩
/-- An encoder port at reset; its filtered levels are low (the model's choice). -/
def Enc.reset : Enc := ⟨false, false, false, none, false, none, none, none⟩
/-- An axis at reset: position 0 (R125, R24). -/
def Axis.reset : Axis := ⟨0, 0, 0, 0, 0, false, 0, []⟩
/-- A generator at reset: disarmed. -/
def Gen.reset : Gen := ⟨0, 0, 0, 0, [], none, false, none, none, none⟩
/-- The Swarm link at reset: OFF (R152). -/
def SwSt.reset : SwSt := ⟨[], [], [], [], none, [], [], none, [], [], [], [], 0, 0, [], [], none, [], false, [], [], 0, []⟩
/-- A tile at reset. -/
def Tile.reset : Tile := ⟨[], none, false, false, false, none, 0⟩
/-- A channel at reset: no line, tracker unprimed (R218), accumulators empty (R207). -/
def Chan.reset : Chan := ⟨none, none, 0, [], 0, [], false, [], none, 0, ⟨0, []⟩, ⟨0, []⟩, 0, 0, 0, false, false, [], 0⟩
/-- A video port at reset: no pulse, its capacitor discharged (the model's choice). -/
def VidPort.reset : VidPort := ⟨[], none, 0⟩
/-- A stream port at reset; G_last starts at 0 (R287). -/
def Strm.reset : Strm := ⟨false, 0, 0, 0, [], 0, []⟩
/-- A Firefly port at reset: not driven yet, queue empty (R323, R328). -/
def FfSt.reset : FfSt := ⟨[], 0, 2, none, false, none, none, false, false, true, [], 0, false, false⟩
/-- The user side of a region that holds no design: held in reset (R354), its bits zero (the model's choice). -/
def Fab.reset : Fab := ⟨0, [], [], 0, 0, 0⟩
/-- The supervisory converters at reset: no slot in progress, accumulators empty. -/
def SupSt.reset : SupSt := ⟨none, none, 0, 0, [], false, false, false, [], none, []⟩
/-- A DMA channel at reset: nothing held (R379). -/
def DmaCh.reset : DmaCh := ⟨none, 0, false, false, false, [], none, [], false, none, 0, 0, [], []⟩

/-- The device as power-on reset is released (R419, R422): every register at its reset value (R24), the time
base at zero (R46), the ledger at zero (R104), everything owned by P0 (R88), boot step 1 in progress (R420). -/
def State.reset : State where
  pending := []
  tb := 0
  free := 0
  out := []
  regs := []
  act := []
  due := []
  latch := []
  sel := []
  owner := []
  leases := []
  ring := []
  rpl := []
  rr := 0
  aftRst := 0
  halted := false
  haltReq := false
  restarting := false
  ops := []
  insWait := []
  links := Vector.replicate 8 Link.reset
  led := []
  ledStop := false
  snaps := []
  injFlag := 0
  slowFlag := 0
  bootQ := 0
  flt := FltSt.reset
  rep := []
  pfail := false
  por := false
  rstn := false
  step1 := false
  step2 := false
  rails := BitVec.allOnes 25
  sclkHz := 50000000
  nvm := []
  mem := []
  corr := []
  enc := Vector.replicate 32 Enc.reset
  axes := Vector.replicate 8 Axis.reset
  gens := Vector.replicate 16 Gen.reset
  sw := SwSt.reset
  tiles := Vector.replicate 8 Tile.reset
  chans := Vector.replicate 96 Chan.reset
  vports := Vector.replicate 96 VidPort.reset
  coll := Vector.replicate 8 []
  stRr := 0
  hold := []
  marks := []
  ruleQ := []
  zones := []
  insBuf := []
  molts := []
  headLine := []
  markers := []
  boardLvl := Vector.replicate 8 none
  tbpEnd := none
  tbpLast := 0
  paq := []
  obs := Vector.replicate 8 0
  paused := false
  strms := Vector.replicate 8 Strm.reset
  ffs := Vector.replicate 96 FfSt.reset
  sup := SupSt.reset
  sessions := []
  fabCfg := []
  fabs := Vector.replicate 8 Fab.reset
  taps := []
  clkstop := none
  dma := Vector.replicate 64 DmaCh.reset
  movers := Vector.replicate 4 none
  dmaRr0 := 0
  dmaRr1 := 0
  snapSeq := []
  bootFabs := []
  bootTiles := []
  dbgDis := false
  fabAuth := false
  gasp := false
  gaspSlot := false

end Sys2Proof.Machine
end

