-- ==== Sys2Proof/Machine/Balls.lean ====
section
/-! DEFINITION. The package: ball names, the net of each ball (R435–R439), and what a pin reads and drives without its
supply (R440, R441). -/

namespace Sys2Proof.Machine

/-- The signals of the package, with their indices. -/
inductive Pin where
  | vinP (n : Nat) | vinN (n : Nat) | vsp (n : Nat) | vck (n : Nat)
  | ffOut (n : Nat) | ffSns (n : Nat) | ffGate (n : Nat)
  | supIn (i : Nat) | tripN (t : Nat) | gp (b i : Nat)
  | serTxP (l : Nat) | serTxN (l : Nat) | serRxP (l : Nat) | serRxN (l : Nat) | refclkP (i : Nat) | refclkN (i : Nat)
  | encAP (e : Nat) | encAN (e : Nat) | encBP (e : Nat) | encBN (e : Nat) | encZP (e : Nat) | encZN (e : Nat)
  | sclkP | sclkN | syncP | syncN
  | swmTxEP | swmTxEN | swmRxEP | swmRxEN | swmTxWP | swmTxWN | swmRxWP | swmRxWN
  | perstN (k : Nat) | faultN | safeN | pfailN | resetN | tck | tms | tdi | tdo | trstN
  | mspiCsN | mspiSck | mspiMosi | mspiMiso | cfgSck | cfgCsN | cfgIo (i : Nat)
  deriving DecidableEq, Repr
/-- The net of a ball: a supply, a ground, or a signal. -/
inductive Net where
  | vss | vssa | vddCore | vddSram | vddNvm | vddSer | vddhSer | vddEnc
  | vdda18 (t : Nat) | vdda33 (t : Nat) | vdda33Ff (t : Nat) | vddio (b : Nat)
  | sig (p : Pin)
  deriving DecidableEq, Repr

/-- The letters of a series of rows (R435). -/
def rowLetters : List String := ["A", "B", "C", "D", "E", "F", "G", "H", "J", "K", "L", "M", "N", "P", "T", "U", "V", "W", "Y"]
/-- The name of row `i`, 1 to 64. -/
def rowName (i : Nat) : String :=
  (["", "A", "B", "C"].getD ((i - 1) / 19) "") ++ rowLetters.getD ((i - 1) % 19) ""
/-- The name of a ball: its row, then its column (R435). -/
def ballName (row col : Nat) : String := rowName row ++ toString col

/-- Tile `t` at inward row `k`, 1 to 15, and column `j`, 1 to 16, from its base (R436). -/
def tileBall (t k j : Nat) : Net :=
  let n := 12 * t + (j - 3)
  let inner (p : Pin) : Net := if 3 ≤ j ∧ j ≤ 14 then .sig p else .vssa
  let drive (p : Pin) : Net := if 3 ≤ j ∧ j ≤ 14 then .sig p else .vdda33Ff t
  match k with
  | 1 => inner (.vinP n) | 2 => inner (.vinN n) | 4 => inner (.vsp n) | 5 => inner (.vck n)
  | 7 => drive (.ffOut n) | 8 => drive (.ffSns n) | 9 => drive (.ffGate n)
  | 10 =>
    if j ≤ 2 ∨ 15 ≤ j then .vdda33Ff t
    else if j ≤ 10 then .sig (.supIn (8 * t + (j - 3)))
    else if j = 11 then .sig (.tripN t) else if j = 14 then .vss else .vssa
  | 11 => .sig (.gp t (j - 1))
  | 12 => .sig (.gp t (j + 15))
  | 13 => if j ≤ 6 then .vddio t else .vss
  | 14 => if j ≤ 12 then .vdda33 t else .vss
  | 15 => if j ≤ 12 then .vdda18 t else .vss
  | _ => .vssa
/-- The serial lanes, columns 1 to 8 of rows 16 to 49 (R437). -/
def serialBall (row col : Nat) : Net :=
  if row = 16 ∨ row = 49 then
    let c := if row = 16 then 0 else 2
    match col with
    | 1 => .sig (.refclkP c) | 2 => .sig (.refclkN c) | 3 => .sig (.refclkP (c + 1)) | 4 => .sig (.refclkN (c + 1))
    | 5 => .vddhSer | 7 => .vddhSer | _ => .vss
  else
    let l := row - 17
    match col with
    | 1 => .sig (.serTxP l) | 2 => .sig (.serTxN l) | 4 => .sig (.serRxP l) | 5 => .sig (.serRxN l)
    | 7 => if l % 4 = 3 then .vddhSer else .vddSer
    | _ => .vss
/-- Column 64 beside encoder port `e` (R438). -/
def systemBall (e : Nat) : Net :=
  if e ≤ 7 then .sig (.perstN e)
  else match e with
    | 8 => .sig .faultN | 9 => .sig .safeN | 10 => .sig .pfailN | 11 => .sig .resetN
    | 12 => .sig .tck | 13 => .sig .tms | 14 => .sig .tdi | 15 => .sig .tdo | 16 => .sig .trstN
    | 17 => .sig .mspiCsN | 18 => .sig .mspiSck | 19 => .sig .mspiMosi | 20 => .sig .mspiMiso
    | 21 => .sig .cfgSck | 22 => .sig .cfgCsN | 23 => .sig (.cfgIo 0) | 24 => .sig (.cfgIo 1) | 25 => .sig (.cfgIo 2)
    | 26 => .sig (.cfgIo 3) | 31 => .vddEnc | _ => .vss
/-- The encoder and system pins, columns 57 to 64 of rows 16 to 49 (R438). -/
def encoderBall (row col : Nat) : Net :=
  let c := col - 57
  if row = 16 then
    ([.sig .sclkP, .sig .sclkN, .vss, .sig .syncP, .sig .syncN, .vss, .vddEnc, .vss] : List Net).getD c .vss
  else if row = 49 then
    ([.sig .swmTxEP, .sig .swmTxEN, .sig .swmRxEP, .sig .swmRxEN, .sig .swmTxWP, .sig .swmTxWN, .sig .swmRxWP, .sig .swmRxWN] :
      List Net).getD c .vss
  else
    let e := row - 17
    match c with
    | 0 => .sig (.encAP e) | 1 => .sig (.encAN e) | 2 => .sig (.encBP e) | 3 => .sig (.encBN e)
    | 4 => .sig (.encZP e) | 5 => .sig (.encZN e)
    | 6 => if e % 4 = 0 then .vddEnc else .vss
    | _ => systemBall e
/-- The centre, columns 9 to 56 of rows 16 to 49 (R439). -/
def coreBall (row col : Nat) : Net :=
  if (row + col) % 2 = 0 then .vss
  else if row ≤ 20 then .vddSram
  else if row = 21 ∧ (col = 10 ∨ col = 12 ∨ col = 14 ∨ col = 16) then .vddNvm
  else .vddCore
/-- The net of the ball at a row and a column, each 1 to 64 (R436–R439). -/
def ballNet (row col : Nat) : Net :=
  if row ≤ 15 then tileBall ((col - 1) / 16) row ((col - 1) % 16 + 1)
  else if 50 ≤ row then tileBall (4 + (col - 1) / 16) (65 - row) ((col - 1) % 16 + 1)
  else if col ≤ 8 then serialBall row col
  else if 57 ≤ col then encoderBall row col
  else coreBall row col
/-- The balls of a net. -/
def ballsOf (f : Net → Bool) : Nat :=
  ((List.range 64).map fun i => ((List.range 64).filter fun j => f (ballNet (i + 1) (j + 1))).length).sum

/-- The group 3 supply of a pin's domain, numbered as State.rails numbers them (R441); the serial lanes and their
reference clocks have supplies of their own. -/
def pinRail : Pin → Option Nat
  | .vinP n | .vinN n | .vsp n | .vck n => some (n / 12)
  | .supIn i => some (i / 8)
  | .ffOut n | .ffSns n | .ffGate n => some (8 + n / 12)
  | .gp b _ => some (16 + b)
  | .cfgSck | .cfgCsN | .cfgIo _ => some 16
  | .serTxP _ | .serTxN _ | .serRxP _ | .serRxN _ | .refclkP _ | .refclkN _ => none
  | _ => some 24
/-- A pin's domain supply is valid: else it drives nothing and reads 0 (R441). -/
def pinPowered (s : State) (p : Pin) : Bool := match pinRail p with | some k => s.rails.getLsbD k | none => true

end Sys2Proof.Machine
end

