-- ==== Sys2Proof/Machine/Cmac.lean ====
section
/-! DEFINITION. AES-128 CMAC as NIST SP 800-38B defines it, which R365 names for the tag of a bit-stream. -/

namespace Sys2Proof.Machine

/-- Exclusive or of two byte strings. -/
def xorB (a b : List Byte) : List Byte := List.zipWith (· ^^^ ·) a b
/-- Multiplication by x in the AES field. -/
def xtime (b : Byte) : Byte := (b <<< 1) ^^^ (if b.getLsbD 7 then 0x1B else 0)
/-- Multiplication in the AES field, over the low `n` bits of `a`. -/
def gmul : Nat → Byte → Byte → Byte
  | 0, _, _ => 0
  | n + 1, a, b => (if a.getLsbD 0 then b else 0) ^^^ gmul n (a >>> 1) (xtime b)
/-- The inverse in the AES field: the 254th power. -/
def ginv (b : Byte) : Byte :=
  let sq (x : Byte) : Byte := gmul 8 x x
  let b2 := sq b; let b4 := sq b2; let b8 := sq b4; let b16 := sq b8; let b32 := sq b16; let b64 := sq b32; let b128 := sq b64
  gmul 8 b2 (gmul 8 b4 (gmul 8 b8 (gmul 8 b16 (gmul 8 b32 (gmul 8 b64 b128)))))
/-- The AES substitution of a byte. -/
def sbox (b : Byte) : Byte :=
  let i := ginv b
  i ^^^ i.rotateLeft 1 ^^^ i.rotateLeft 2 ^^^ i.rotateLeft 3 ^^^ i.rotateLeft 4 ^^^ 0x63
/-- The next round key. -/
def nextKey (k : List Byte) (rc : Byte) : List Byte :=
  let t := [sbox (k.getD 13 0) ^^^ rc, sbox (k.getD 14 0), sbox (k.getD 15 0), sbox (k.getD 12 0)]
  let w0 := xorB (k.take 4) t
  let w1 := xorB ((k.drop 4).take 4) w0
  let w2 := xorB ((k.drop 8).take 4) w1
  w0 ++ w1 ++ w2 ++ xorB (k.drop 12) w2
/-- Shift the rows of a state of 16 bytes in column order. -/
def shiftRows (s : List Byte) : List Byte := (List.range 16).map fun i => s.getD ((i + 4 * (i % 4)) % 16) 0
/-- Mix one column. -/
def mixCol (a b c d : Byte) : List Byte :=
  let m3 (x : Byte) : Byte := xtime x ^^^ x
  [xtime a ^^^ m3 b ^^^ c ^^^ d, a ^^^ xtime b ^^^ m3 c ^^^ d, a ^^^ b ^^^ xtime c ^^^ m3 d, m3 a ^^^ b ^^^ c ^^^ xtime d]
/-- Mix all columns. -/
def mixCols (s : List Byte) : List Byte :=
  (List.range 4).flatMap fun j => mixCol (s.getD (4 * j) 0) (s.getD (4 * j + 1) 0) (s.getD (4 * j + 2) 0) (s.getD (4 * j + 3) 0)
/-- The rounds of AES-128 from a state and its round key; `n` rounds remain. -/
def aesRounds : Nat → Byte → List Byte → List Byte → List Byte
  | 0, _, _, s => s
  | n + 1, rc, k, s =>
    let k := nextKey k rc
    let t := shiftRows (s.map sbox)
    aesRounds n (xtime rc) k (xorB (if n = 0 then t else mixCols t) k)
/-- AES-128 of one block. -/
def aes (key blk : List Byte) : List Byte := aesRounds 10 1 key (xorB blk key)
/-- Doubling in the CMAC field, most significant byte first. -/
def dbl (b : List Byte) : List Byte :=
  let sh := (List.range 16).map fun i => (b.getD i 0 <<< 1) ||| (if i < 15 ∧ (b.getD (i + 1) 0).getLsbD 7 then 1 else 0)
  if (b.getD 0 0).getLsbD 7 then sh.take 15 ++ [sh.getD 15 0 ^^^ 0x87] else sh
/-- The chain over the blocks of a message; `n` blocks remain, and the last is masked. -/
def cmacChain (key k1 k2 : List Byte) : Nat → List Byte → List Byte → List Byte
  | 0, c, _ => c
  | n + 1, c, m =>
    let b := m.take 16
    let x := if n = 0 then (if b.length = 16 then xorB b k1 else xorB ((b ++ [0x80] ++ List.replicate 16 0).take 16) k2) else b
    cmacChain key k1 k2 n (aes key (xorB c x)) (m.drop 16)
/-- The CMAC tag of a message. -/
def cmac (key m : List Byte) : List Byte :=
  let k1 := dbl (aes key (List.replicate 16 0))
  cmacChain key k1 (dbl k1) (max 1 ((m.length + 15) / 16)) (List.replicate 16 0) m

end Sys2Proof.Machine
end

