-- ==== Sys2Proof/Machine/Ops.lean ====
section
/-! DEFINITION. The named operations over the state: register access, ledger counting, ownership, fault
reports, replies and completions, and the frame in which every host command is taken and answered. -/

namespace Sys2Proof.Machine

/-! ## Registers -/

/-- The stored value of a register. -/
def rd (s : State) (k : RKey) : Word := spGet rstVal s.regs k
/-- Store a register. -/
def wr (k : RKey) (v : Word) (s : State) : State := { s with regs := spPut RKey.code rstVal s.regs k v }
/-- Bits [hi:lo] of a register. -/
def rf (s : State) (k : RKey) (hi lo : Nat) : Nat := fld (rd s k) hi lo
/-- Set bits [hi:lo] of a register. -/
def setF (k : RKey) (hi lo v : Nat) (s : State) : State := wr k (setFld (rd s k) hi lo v) s
/-- One bit of a register. -/
def rb (s : State) (k : RKey) (i : Nat) : Bool := bit (rd s k) i
/-- Set one bit of a register. -/
def setB (k : RKey) (i : Nat) (b : Bool) (s : State) : State := wr k (setBit (rd s k) i b) s
/-- Add one to a whole register; it wraps. -/
def incR (k : RKey) (s : State) : State := wr k (rd s k + 1) s
/-- Add one to bits [hi:lo]; it wraps. -/
def incF (k : RKey) (hi lo : Nat) (s : State) : State := setF k hi lo ((rf s k hi lo + 1) % 2 ^ (hi + 1 - lo)) s
/-- Add one to bits [hi:lo]; it saturates. -/
def satF (k : RKey) (hi lo : Nat) (s : State) : State := setF k hi lo (satInc (rf s k hi lo) (hi + 1 - lo)) s
/-- The value in force of a staged register. -/
def act (s : State) (k : RKey) : Word := spGet rstVal s.act k
/-- Bits of the value in force of a staged register. -/
def af (s : State) (k : RKey) (hi lo : Nat) : Nat := fld (act s k) hi lo
/-- Put a value of a staged register in force. -/
def setAct (k : RKey) (v : Word) (s : State) : State := { s with act := spPut RKey.code rstVal s.act k v }
/-- Return a register to its reset value. -/
def rstR (k : RKey) (s : State) : State := wr k (rstVal k) s

/-- Sparse map of numbers with default `d`. -/
def nget (d : Nat) (m : List (Nat × Nat)) (k : Nat) : Nat := spGet (fun _ => d) m k
/-- Write a sparse map of numbers with default `d`. -/
def nput (d : Nat) (m : List (Nat × Nat)) (k v : Nat) : List (Nat × Nat) := spPut id (fun _ => d) m k v

/-- Apply `f` where `b` holds. -/
def onlyIf (b : Bool) (f : State → State) (s : State) : State := if b then f s else s
/-- Apply `f` for each number of a list, in order. -/
def forEach {α : Type} (l : List α) (f : α → State → State) (s : State) : State := l.foldl (fun s a => f a s) s

/-- Take one open value. -/
def takeFree (s : State) : Word × State := (Config.freeValue s.free, { s with free := s.free + 1 })
/-- `n` words whose values the spec does not state. -/
def freeWords (n : Nat) (s : State) : List Word × State :=
  ((List.range n).map fun i => Config.freeValue (s.free + i), { s with free := s.free + n })
/-- Log an output. -/
def emit (o : Out) (s : State) : State := { s with out := s.out ++ [o] }

/-! ## Units -/

/-- An axis. -/
def axis (s : State) (a : Nat) : Axis := vget s.axes a
/-- Modify an axis. -/
def modAxis (a : Nat) (f : Axis → Axis) (s : State) : State := { s with axes := vmod s.axes a f }
/-- A generator. -/
def gen (s : State) (g : Nat) : Gen := vget s.gens g
/-- Modify a generator. -/
def modGen (g : Nat) (f : Gen → Gen) (s : State) : State := { s with gens := vmod s.gens g f }
/-- An encoder port. -/
def encP (s : State) (e : Nat) : Enc := vget s.enc e
/-- Modify an encoder port. -/
def modEnc (e : Nat) (f : Enc → Enc) (s : State) : State := { s with enc := vmod s.enc e f }
/-- A channel. -/
def chan (s : State) (n : Nat) : Chan := vget s.chans n
/-- Modify a channel. -/
def modChan (n : Nat) (f : Chan → Chan) (s : State) : State := { s with chans := vmod s.chans n f }
/-- A tile. -/
def tile (s : State) (t : Nat) : Tile := vget s.tiles t
/-- A video port. -/
def vport (s : State) (h : Nat) : VidPort := vget s.vports h
/-- Modify a video port. -/
def modVp (h : Nat) (f : VidPort → VidPort) (s : State) : State := { s with vports := vmod s.vports h f }
/-- Modify a tile. -/
def modTile (t : Nat) (f : Tile → Tile) (s : State) : State := { s with tiles := vmod s.tiles t f }
/-- Modify the Swarm link. -/
def modSw (f : SwSt → SwSt) (s : State) : State := { s with sw := f s.sw }
/-- Modify the fault collector. -/
def modFlt (f : FltSt → FltSt) (s : State) : State := { s with flt := f s.flt }

/-! ## Record memory (R48, R50) -/

/-- What an unlisted byte of record memory reads as. -/
def memDflt : Nat → Byte := fun _ => 0
/-- A word of record memory at a byte offset. -/
def memW (s : State) (off : Nat) : Word := bytesWord (memRds memDflt s.mem off 4)
/-- Write bytes of record memory. -/
def putMem (off : Nat) (bs : List Byte) (s : State) : State := { s with mem := memWrs memDflt s.mem off bs }
/-- Write words of record memory. -/
def putMemW (off : Nat) (ws : List Word) (s : State) : State := putMem off (ws.flatMap wordBytes) s
/-- Fill bytes of record memory with zero. -/
def zeroMem (off n : Nat) (s : State) : State :=
  { s with mem := s.mem.filter (fun c => decide (c.1 < off) || decide (off + n ≤ c.1)) }

/-- What an unlisted byte of the NVM reads as: erased. -/
def nvmDflt : Nat → Byte := fun a => if a < 0x4000 then Config.trimByte a else 0xFF
/-- A word of the NVM. -/
def nvmW (s : State) (off : Nat) : Word := bytesWord (memRds nvmDflt s.nvm off 4)
/-- Program words of the NVM. -/
def putNvmW (off : Nat) (ws : List Word) (s : State) : State :=
  { s with nvm := memWrs nvmDflt s.nvm off (ws.flatMap wordBytes) }

/-- A correction entry (R49, R195). -/
def corrGet (s : State) (n bank i : Nat) : Word := spGet (fun _ => 0x10000000#32) s.corr (n * 32768 + bank * 16384 + i)
/-- Write a correction entry. -/
def corrPut (n bank i : Nat) (w : Word) (s : State) : State :=
  { s with corr := spPut id (fun _ => 0x10000000#32) s.corr (n * 32768 + bank * 16384 + i) w }
/-- Give a channel's entries `from` to `upto` − 1 of a bank new values by index. -/
def corrFill (n bank lo : Nat) (ws : List Word) (s : State) : State :=
  (ws.zipIdx lo).foldl (fun s wi => corrPut n bank wi.2 wi.1 s) s
/-- Make entries `lo` and above of one bank of a channel the identity. -/
def corrIdent (n bank lo : Nat) (s : State) : State :=
  { s with corr := s.corr.filter fun e =>
      decide (e.1 < n * 32768 + bank * 16384 + lo) || decide (n * 32768 + bank * 16384 + 16384 ≤ e.1) }

/-! ## Ownership (R86–R89) -/

/-- The size of each resource class (R89); 0 for a reserved code. -/
def classSize (c : Nat) : Nat :=
  match c with
  | 0x01 => 64 | 0x02 => 96 | 0x03 => 96 | 0x04 => 96 | 0x05 => 32 | 0x06 => 8 | 0x07 => 16 | 0x08 => 1024
  | 0x09 => 128 | 0x0A => 256 | 0x0B => 8 | 0x0C => 64 | 0x0D => 64 | 0x0E => 4096 | 0x0F => 1 | _ => 0
/-- Whether a class is a use set. -/
def isUseSet (c : Nat) : Bool := c == 0x06 || c == 0x0F
/-- The owner of a resource of a single-owner class. -/
def ownerOf (s : State) (c i : Nat) : Nat := nget 0 s.owner (c * 65536 + i)
/-- Give a resource to a partition. -/
def setOwner (c i p : Nat) (s : State) : State := { s with owner := nput 0 s.owner (c * 65536 + i) p }
/-- Membership of a use set: class 0x06 axis `i`, or class 0x0F (R101 table). -/
def inUse (s : State) (c i p : Nat) : Bool :=
  if c = 0x06 then rb s ⟨.part, 0, 0x100 + 4 * i⟩ p else rb s ⟨.part, 0, 0x120⟩ p
/-- Change membership of a use set. -/
def setUse (c i p : Nat) (b : Bool) (s : State) : State :=
  if c = 0x06 then setB ⟨.part, 0, 0x100 + 4 * i⟩ p b s else setB ⟨.part, 0, 0x120⟩ p b s

/-- The lease with a number, if held. -/
def leaseOf (s : State) (l : Nat) : Option Lease := s.leases.find? (fun x => x.id == l)
/-- Whether partition `p` holds lease `l`. -/
def holds (s : State) (l p : Nat) : Bool :=
  match leaseOf s l with | some x => x.holder == p | none => false

/-- The partition bound to a queue (R53): queue 64 is bound to P0 always. -/
def partOf (s : State) (q : Nat) : Nat := if q = 64 then 0 else rf s ⟨.qcb, q, 0⟩ 4 0
/-- Whether a queue is bound. -/
def bound (s : State) (q : Nat) : Bool := q == 64 || rb s ⟨.qcb, q, 0⟩ 8
/-- The PORT code of a queue (R66 table, R278). -/
def portOf (q : Nat) : Nat := if q = 64 then 0xFF else q / 8
/-- The role of a serial port: 0 OFF, 1 HOST, 2 STREAM (R51). -/
def roleOf (s : State) (k : Nat) : Nat := rf s ⟨.pmode, k, 0⟩ 1 0

/-! ## Head map (R33, R307) -/

/-- HMAP of a head. -/
def hmapK (h : Nat) : RKey := ⟨.tile, h / 12, 0x200 + 4 * (h % 12)⟩
/-- The channel that serves a head, if it is not parked. -/
def chanOf (s : State) (h : Nat) : Option Nat :=
  if rb s (hmapK h) 4 then some (12 * (h / 12) + rf s (hmapK h) 3 0) else none
/-- The head that a channel serves, if any. -/
def headOf (s : State) (n : Nat) : Option Nat :=
  ((List.range 12).map (12 * (n / 12) + ·)).find? (fun h => chanOf s h == some n)
/-- The epoch of a head. -/
def epochOf (s : State) (h : Nat) : Nat := rf s (hmapK h) 11 8

/-- VID STAT.ARMED of a channel. -/
def armed (s : State) (n : Nat) : Bool := rb s ⟨.vid, n, 0x20⟩ 0
/-- GEN STAT.ARMED. -/
def genArmed (s : State) (g : Nat) : Bool := rb s ⟨.gen, g, 0x10⟩ 0

/-! ## The ledger (R105) -/

/-- Key of a ledger term: class, instance, term in the order of the identity. -/
def ledK (c i t : Nat) : Nat := c * 65536 + i * 16 + t
/-- A ledger term. -/
def ledGet (s : State) (c i t : Nat) : Nat := nget 0 s.led (ledK c i t)
/-- Add to a ledger term, modulo 2^64; nothing is counted after a power fail (R104, R117). -/
def ledAdd (c i t n : Nat) (s : State) : State :=
  if s.ledStop then s else { s with led := nput 0 s.led (ledK c i t) ((ledGet s c i t + n) % 2 ^ 64) }
/-- Take from a ledger term that names units held. -/
def ledSub (c i t n : Nat) (s : State) : State :=
  if s.ledStop then s else { s with led := nput 0 s.led (ledK c i t) (ledGet s c i t - n) }

/-! ## Fault reports (R404–R409) -/

/-- Post a report on a source's wires; the collector takes it before the command ends. -/
def report (r : Report) (s : State) : State := { s with rep := s.rep ++ [r] }
/-- A report by an internal unit (R409). -/
def hwReport (src : Nat) (mem : Option Nat) (unit part : Nat) : Report := ⟨src, mem, part, 0xFE, unit, 3, 0, 0, false, false, none⟩
/-- An occurrence of an event source, reported by a unit. -/
def raiseHw (src : Nat) (mem : Option Nat) (unit part : Nat) (s : State) : State := report (hwReport src mem unit part) s
/-- The mask bit of a member; bit 0 for a source without members. -/
def memBit (m : Option Nat) : Nat := match m with | some i => 2 ^ i | none => 1
/-- Members of a source active on its wires, whatever the reason (R405, R416). -/
def liveMask (f : FltSt) (src : Nat) : Nat :=
  nget 0 f.cause src ||| nget 0 f.hold src ||| nget 0 f.bw src ||| nget 0 f.bwInj src
/-- A level cause begins: the source is raised if its wires were inactive (R404, R412). -/
def causeOn (src : Nat) (m : Option Nat) (unit part : Nat) (d6 : Word) (s : State) : State :=
  let was := liveMask s.flt src &&& memBit m
  let s := modFlt (fun f => { f with cause := nput 0 f.cause src (nget 0 f.cause src ||| memBit m) }) s
  if was = 0 then report { hwReport src m unit part with d6 := d6 } s else s
/-- A level cause ends. -/
def causeOff (src : Nat) (m : Option Nat) (s : State) : State :=
  modFlt (fun f => { f with cause := nput 0 f.cause src (nget 0 f.cause src - (nget 0 f.cause src &&& memBit m)) }) s

/-- A hardware path of partition `p` is refused (R94): counted, and reported under source 0x002. -/
def refuse (p unit : Nat) (s : State) : State :=
  raiseHw 0x002 none unit p (incR ⟨.part, 0, 0x300 + 4 * p⟩ s)

/-! ## Replies and completions (R63, R66, R72, R78) -/

/-- Queue control block register. -/
def qk (q off : Nat) : RKey := ⟨.qcb, q, off⟩
/-- Free words of a reply ring (R64). -/
def rplRoom (s : State) (q : Nat) : Nat := (rf s (qk q 0x20) 9 0 + 2047 - rf s (qk q 0x1C) 9 0) % 1024
/-- A port may issue requests to its host: its link is up, Bus Master Enable is set, and the function is in D0
(R54, R56). -/
def mayMaster (s : State) (k : Nat) : Bool :=
  (vget s.links k).up && (vget s.links k).bme && !(vget s.links k).d3
/-- Whether the device may write to the host of a queue: queue 64 always; an enabled queue of a port that may issue
requests and has no loss of its link still to see to (R56, R78). -/
def canWrite (s : State) (q : Nat) : Bool :=
  q == 64 || (mayMaster s (q / 8) && !(vget s.links (q / 8)).drain && rb s (qk q 4) 0)
/-- A register of a host port beside its queues: port registers, MSI-X table and pending bits (R58). -/
def bpk (k off : Nat) : RKey := ⟨.bport, k, off⟩
/-- A port signals an MSI-X vector: a message, or while the vector or the function is masked its pending bit; nothing
while MSI-X is not enabled. PRESUMED: so PCI Express, which R54 names, defines it. -/
def signal (k v : Nat) (s : State) : State :=
  let l := vget s.links k
  if !l.msixEn then s
  else if l.msixMask || rb s (bpk k (0x900C + 16 * v)) 0 || !mayMaster s k then setB (bpk k 0x9800) v true s
  else emit (.msix k v) s
/-- Pending vectors of a port that are masked no more send their messages. -/
def signalPending (k : Nat) (s : State) : State :=
  forEach ((List.range 16).filter fun v => rb s (bpk k 0x9800) v) (fun v s => signal k v (setB (bpk k 0x9800) v false s)) s
/-- Reply word 0 (R66). -/
def rplWord (st : Nat) (compl aft : Bool) (len tag : Nat) : Word :=
  BitVec.ofNat 32 (st + 256 * compl.toNat + 512 * aft.toNat + 65536 * len + 16777216 * tag)
/-- The address of a reply ring in host memory (R58); queue 64's is at 0x1000 of the SPI window (R82). -/
def rplBase (s : State) (q : Nat) : Nat :=
  if q = 64 then 0x1000 else rf s (qk q 8) 31 12 * 4096 + (rd s (qk q 0xC)).toNat * 2 ^ 32
/-- Write one reply or completion, or drop it and count it. -/
def putReply (q st tag : Nat) (compl notify : Bool) (pay : List Word) (s : State) : State :=
  if canWrite s q then
    let h := rf s (qk q 0x1C) 9 0
    let ws := rplWord st compl (s.aftRst.getLsbD q) pay.length tag :: pay
    let s := { s with aftRst := s.aftRst &&& ~~~(BitVec.ofNat 65 (2 ^ q)) }
    let s := if q = 64 then
      { s with rpl := (ws.zipIdx h).foldl (fun m wi => spPut id (fun _ => 0) m (wi.2 % 1024) wi.1) s.rpl } else s
    let s := emit (.reply q (rplBase s q) h ws) (setF (qk q 0x1C) 9 0 ((h + ws.length) % 1024) s)
    let nm := rf s (qk q 4) 5 4
    if q ≠ 64 ∧ (nm = 1 ∨ (nm = 2 ∧ notify) ∨ (nm = 3 ∧ compl)) then signal (q / 8) (rf s (qk q 4) 11 8) s else s
  else incR (qk q 0x30) s

/-- The first reply of a command, which counts it as replied (R72, R111). -/
def firstReply (q st tag : Nat) (notify : Bool) (pay : List Word) (s : State) : State :=
  ledSub 7 q 4 1 (ledAdd 7 q 1 1 (putReply q st tag false notify pay s))

/-- The long operation of a queue with a TAG. -/
def opOf (s : State) (q tag : Nat) : Option LongOp := s.ops.find? (fun o => o.q == q && o.tag == tag)
/-- Remove a long operation. -/
def dropOp (q tag : Nat) (s : State) : State := { s with ops := s.ops.filter (fun o => !(o.q == q && o.tag == tag)) }
/-- Change what a long operation does. -/
def setOp (q tag : Nat) (k : OpKind) (s : State) : State :=
  { s with ops := s.ops.map (fun o => if o.q == q && o.tag == tag then { o with kind := k } else o) }
/-- A long operation's result is decided: its completion is written, or held until it can be (R64, R72, R85). One that
was outstanding as its link was lost is dropped and counted, though the link be back (R78). -/
def complete (q tag st : Nat) (pay : List Word) (s : State) : State :=
  match opOf s q tag with
  | none => s
  | some o =>
    if o.lost then dropOp q tag (incR (qk q 0x30) s)
    else if !canWrite s q || (decide (pay.length + 1 ≤ rplRoom s q) && !s.halted && !s.restarting) then
      dropOp q tag (putReply q st tag true o.notify pay s)
    else { s with ops := s.ops.map (fun x =>
      if x.q == q && x.tag == tag then { x with kind := .finished, held := some (BitVec.ofNat 32 st :: pay) } else x) }

/-- The resources that a long operation holds (R73), by class and index; class 0x100 is the NVM. -/
def OpKind.holds (k : OpKind) (s : State) (c i : Nat) : Bool :=
  match k with
  | .partReset p => decide (c < 0x100) && !isUseSet c && ownerOf s c i == p
  | .calRun r => (c == 0x02 && r.chans.contains i) || (c == 0x04 && r.dkports.contains i)
  | .calCommit _ all _ _ _ _ => c == 0x02 && all.contains i
  | .corrLoad n _ _ _ => c == 0x02 && i == n
  | .molt _ => false
  | .selftest n => c == 0x02 && i == n
  | .bitEnd _ => false
  | .readback r _ _ _ => c == 0x0B && i == r
  | .nvmWrite _ _ => c == 0x100
  | .nvmLock _ => c == 0x100
  | .train => false
  | .resync _ => false
  | .finished => false
/-- A MOLT holds its head, its old and its new channel (R314). -/
def MoltSt.holds (m : MoltSt) (c i : Nat) : Bool :=
  (c == 0x03 && m.head == i) || (c == 0x02 && (m.old == some i || m.new == some i))
/-- Whether an outstanding long operation holds a resource (R73). -/
def busy (s : State) (c i : Nat) : Bool := s.ops.any (fun o => o.kind.holds s c i) || s.molts.any (fun m => m.holds c i)

/-! ## The frame of a host command (R60, R64, R69–R72) -/

/-- A command being applied. -/
structure Cmd where
  q : Nat
  part : Nat
  port : Nat
  opc : Nat
  tag : Nat
  notify : Bool
  pay : List Word
  deriving DecidableEq, Repr

/-- What a command answers: the state it leaves, its status and reply payload; `later` where the first reply
comes with a later event. -/
structure Ans where
  st : State
  code : Nat
  pay : List Word
  later : Bool
  deriving DecidableEq, Repr

/-- Applied in full. -/
def Ans.ok (s : State) (pay : List Word) : Ans := ⟨s, 0x00, pay, false⟩
/-- DETAIL (R67): the payload word at fault, 0xFF for the header, and the command's code. -/
def detail (word code : Nat) : Word := BitVec.ofNat 32 (word + 256 * code)
/-- Refused, with DETAIL and failure words (R67). -/
def Ans.fail (s : State) (st word code : Nat) (extra : List Word) : Ans := ⟨s, st, detail word code :: extra, false⟩
/-- The fault source of a DENIED command (R404). -/
def deniedSrc (port : Nat) : Nat := if port = 0xFF then 0x020 else 0x018 + port
/-- The report of a command (R68, R409). -/
def cmdReport (c : Cmd) (src acc word : Nat) (addr : Word) : Report :=
  ⟨src, none, c.part, c.port, 0, acc, addr,
   if src = deniedSrc c.port then BitVec.ofNat 32 (c.opc + 256 * word + 16777216 * c.tag) else 0, false, false, none⟩
/-- Refused DENIED, raising the source of the queue's port (R93). -/
def Ans.deny (c : Cmd) (s : State) (word : Nat) (extra : List Word) : Ans :=
  Ans.fail (report (cmdReport c (deniedSrc c.port) 2 word 0) s) 0x03 word 0 extra

/-- A long operation is started, unless its queue has four outstanding (R72). One that is accepted while what was
doorbelled before a link loss is carried out loses its completion (R78). -/
def Ans.long (c : Cmd) (k : OpKind) (s : State) : Ans :=
  ⟨{ s with ops := s.ops ++ [⟨c.q, c.tag, c.notify, c.part, k, none, c.q != 64 && (vget s.links (c.q / 8)).drain⟩] }, 0x01, [], false⟩
/-- Whether a queue has four long operations outstanding; a fifth is BUSY with the header at fault, for no payload word is
(DESIGN CHOICE, log entry 24). -/
def opsFull (s : State) (q : Nat) : Bool := decide (4 ≤ (s.ops.filter (fun o => o.q == q)).length)

/-- A ring word (R60). -/
def ringW (s : State) (q i : Nat) : Word := spGet (fun _ => 0) s.ring (q * 1024 + i % 1024)
/-- Words from CMD_HEAD to CMD_TAIL. -/
def waitingWords (s : State) (q : Nat) : Nat := (rf s (qk q 0x14) 9 0 + 1024 - rf s (qk q 0x10) 9 0) % 1024
/-- Whether the processor serves a queue now (R64, R70): enabled, not empty, with reply space. -/
def servable (s : State) (q : Nat) : Bool :=
  (q == 64 || rb s (qk q 4) 0) && decide (waitingWords s q ≠ 0) && decide (256 ≤ rplRoom s q)
/-- READY: boot step 6 (R420). -/
def isReady (s : State) : Bool := rf s ⟨.dev, 0, 0x104⟩ 6 4 == 6
/-- Whether the processor takes commands: READY, not halted, not restarting (R55, R76, R85). -/
def serving (s : State) : Bool := isReady s && !s.halted && !s.restarting && !s.pfail && !s.por && !s.rstn
/-- The queue whose turn it is (R70): the first servable one in round-robin order; none while a command
taken is still being applied (R74). -/
def turn (s : State) : Option Nat :=
  if serving s && s.insWait.isEmpty then ((List.range 65).map (fun i => (s.rr + i) % 65)).find? (servable s) else none
/-- The length of the packet at CMD_HEAD, and whether it is whole before the tail (R60, R61). -/
def headLen (s : State) (q : Nat) : Nat := fld (ringW s q (rf s (qk q 0x10) 9 0)) 23 16
def headWhole (s : State) (q : Nat) : Bool := decide (1 + headLen s q ≤ waitingWords s q)

/-- The header word of a packet (R66). -/
def header (opc : Nat) (p : Pkt) : Word :=
  BitVec.ofNat 32 (opc + 256 * p.flags.toNat + 65536 * p.pay.length + 16777216 * p.tag.toNat)
/-- Whether the ring offers exactly this packet to the processor now: its queue is in turn, and the words at
CMD_HEAD are the packet's, whole before the tail. -/
def offered (opc : Nat) (p : Pkt) (s : State) : Bool :=
  turn s == some p.q.val && headWhole s p.q.val &&
    ((header opc p :: p.pay).zipIdx (rf s (qk p.q.val 0x10) 9 0)).all (fun wi => ringW s p.q.val wi.2 == wi.1)

/-- Take the packet: CMD_HEAD passes it, it counts as received and pending, and the turn moves on. -/
def take (q len : Nat) (s : State) : State :=
  let s := setF (qk q 0x10) 9 0 ((rf s (qk q 0x10) 9 0 + 1 + len) % 1024) s
  let s := ledAdd 7 q 4 1 (ledAdd 7 q 0 1 (incR (qk q 0x24) s))
  { s with rr := (q + 1) % 65 }
/-- The command that a packet makes. -/
def cmdOf (opc : Nat) (p : Pkt) (s : State) : Cmd :=
  ⟨p.q.val, partOf s p.q.val, portOf p.q.val, opc, p.tag.toNat, p.flags.getLsbD 0, p.pay⟩
/-- Write the answer's reply. -/
def answer (c : Cmd) (a : Ans) : State :=
  if a.later then { a.st with insWait := a.st.insWait ++ [⟨c.q, c.tag, c.notify, c.part⟩] }
  else firstReply c.q a.code c.tag c.notify a.pay a.st

/-- Word `i` of a payload; 0 past its end. -/
def pw (c : Cmd) (i : Nat) : Word := c.pay.getD i 0

/-- The checks that every opcode has before its own parameters (R69, R70, R72): an unbound queue, the
length, and a TAG in use. -/
def common (lenOk : Nat → Bool) (body : Cmd → State → Ans) (c : Cmd) (s : State) : Ans :=
  if !bound s c.q then Ans.fail s 0x03 0xFF 0x0F []
  else if !lenOk c.pay.length then Ans.fail s 0x05 0xFF 0 []
  else if (opOf s c.q c.tag).isSome then Ans.fail s 0x06 0xFF 0 []
  else body c s

end Sys2Proof.Machine
end

