-- ==== Sys2Proof/Machine/Motion.lean ====
section
/-! DEFINITION. Encoders, axes and trigger generators (R118–R145): counting, failover, the crossing of
trigger points, tokens and trigger pulses. -/

namespace Sys2Proof.Machine

/-- ENC.PORT register. -/
def ek (e off : Nat) : RKey := ⟨.enc, e, off⟩
/-- ENC.AX register. -/
def ak (a off : Nat) : RKey := ⟨.ax, a, off⟩
/-- ENC.GEN register. -/
def gk (g off : Nat) : RKey := ⟨.gen, g, off⟩
/-- SWM register. -/
def swk (off : Nat) : RKey := ⟨.swm, 0, off⟩

/-- The difference of two positions, modulo 2^48, read as signed (R125). -/
def sdiff (a b : BitVec 48) : Int := sext 48 (a - b).toNat
/-- A position advanced by a number of counts. -/
def posAdd (p : BitVec 48) (d : Int) : BitVec 48 := p + BitVec.ofInt 48 d

/-- Swarm STATE of this device (SWM.STAT). -/
def swState (s : State) : Nat := rf s (swk 0x20) 2 0
/-- The device is master of a trained ring. -/
def swMaster (s : State) : Bool := rb s (swk 0) 3 && swState s == 2
/-- The device is a follower that has lost the master or not rejoined it (R157–R160). -/
def swAlone (s : State) : Bool := !rb s (swk 0) 3 && decide (3 ≤ swState s)
/-- A follower generator that makes its own tokens: it has not rejoined the master's numbering (R157, R161). -/
def genAlone (s : State) (g : Nat) : Bool := rb s (gk g 0) 4 && swAlone s && (swState s != 6 || s.sw.rsGens.contains g)

/-- A follower axis takes the master's position and rate now (R133, R160, R161): in LINKED, and in RESYNCING once
the first generator has switched and the axis has adopted a position. -/
def followsMaster (s : State) (a : Nat) : Bool :=
  rb s (ak a 0) 14 && !rb s (swk 0) 3 &&
    (swState s == 2 || (swState s == 6 && s.sw.rsT.isSome && !s.sw.rsAxes.contains a))

/-! ## Trigger pulses and refused pins (R94, R144, R396) -/

/-- PIN register of a GPIO pin. -/
def pinK (p : Nat) : RKey := ⟨.pin, p, 0⟩
/-- Whether a pin carries the source of function `f` (2–7): selected, or added by ORMASK (R397). -/
def pinCarries (s : State) (p f : Nat) : Bool :=
  let m := rf s (pinK p) 3 0
  m == f || (((m == 0 && rb s ⟨.bank, p / 32, 4⟩ (p % 32)) || (decide (2 ≤ m) && decide (m ≤ 7))) && rb s (pinK p) (16 + f - 2))
/-- Refusals of the pins that carry function `f` of a source, where the pin's owner does not own the
source's resource (R396). -/
def pinRefusals (f : Nat) (pins : List Nat) (cls idx : Nat) (s : State) : State :=
  forEach (pins.filter fun p => pinCarries s p f && ownerOf s 0x0A p != ownerOf s cls idx)
    (fun p s => refuse (ownerOf s 0x0A p) 0x29 s) s
/-- A pulse of trigger output `g`: it extends a pulse that runs and never shortens it (R144). DESIGN CHOICE: the spec
is silent on TOUT.EN written 0 while a pulse runs; the pulse runs to its end. -/
def trigPulse (g : Nat) (s : State) : State :=
  if rb s (gk g 0x2C) 0 then
    let e := s.tb + 10 * rf s (gk g 0x2C) 15 8
    let s := modGen g (fun x => { x with pulseEnd := some (match x.pulseEnd with | some o => max o e | none => e) }) s
    pinRefusals 2 ((List.range 256).filter fun p => p % 32 % 16 == g) 0x07 g s
  else s

/-! ## Tokens (R136–R139, R142, R151, R153) -/

/-- Round up to a multiple of GRID. -/
def gridUp (s : State) (t : Nat) : Nat :=
  let g := max 1 (rf s (swk 4) 15 0)
  (t + g - 1) / g * g
/-- A token reaches every tile whose sample clock runs (R142 step 3). -/
def toTiles (k : Token) (s : State) : State :=
  { s with tiles := s.tiles.mapIdx fun t x =>
      if rb s ⟨.tile, t, 4⟩ 0 then { x with toks := x.toks ++ [k] } else x }
/-- Whether generator `g` of this device is exported to a trained ring (R147). -/
def exported (s : State) (g : Nat) : Bool := swMaster s && rb s (swk 0x10) (16 + g)
/-- Deliver a token (R136, R142): the count advances, the trigger output pulses, and the tiles receive it; an
exported generator's token is delivered at its instant on the ring's grid (R153). -/
def deliver (k : Token) (s : State) : State :=
  let s := modGen k.gen (fun x => { x with count := x.count + 1, lastDel := some s.tb, lastCount := some k.count }) s
  if exported s k.gen then
    let at_ := gridUp s (s.tb + rf s (swk 8) 15 0)
    modSw (fun w => { w with tokQ := w.tokQ ++ [(at_, k)], txTok := w.txTok ++ [(k.gen, k.count, at_)] }) s
  else toTiles k (trigPulse k.gen s)
/-- The least integer position at or above a 48.16 point (R137). -/
def ceilPos (t : BitVec 64) : BitVec 48 := BitVec.ofNat 48 ((t.toNat + 65535) / 65536)
/-- Lines of a generator's tokens carry UNSYNC (R157). -/
def genUnsync (s : State) (g : Nat) : Bool := genAlone s g
/-- T0 and PITCH of the last GDESC frame of a generator (R151). -/
def gdescOf (s : State) (g : Nat) : Option (Nat × Nat) := (s.sw.gdesc.find? (fun x => x.1 == g)).map (·.2)
/-- The pitch of a generator's trigger points: PITCH, or that of the last GDESC frame where the generator makes its
own tokens in holdover (R135, R157). DESIGN CHOICE: without any GDESC frame, PITCH. -/
def genPitch (s : State) (g : Nat) : Nat :=
  match gdescOf s g with
  | some x => if genAlone s g then x.2 else (rd s (gk g 4)).toNat
  | none => (rd s (gk g 4)).toNat
/-- The owner of a generator is in the use set of its axis (R94, R141). -/
def genMay (s : State) (g : Nat) : Bool := inUse s 0x06 (rf s (gk g 0) 2 0) (ownerOf s 0x07 g)
/-- A crossing outside rewind lock makes a token, delivered now or deferred (R136, R137). -/
def makeToken (g k : Nat) (t : BitVec 64) (s : State) : State :=
  let x := gen s g
  let soon := match x.lastDel with | some d => decide (s.tb < d + 4000) | none => false
  let defer := soon || !x.backlog.isEmpty
  let pos := if defer || exported s g then ceilPos t else (axis s (rf s (gk g 0) 2 0)).pos
  let tok : Token := ⟨g, k, pos, genUnsync s g⟩
  let s := ledAdd 4 g 1 1 (ledAdd 4 g 0 1 s)
  let s := modGen g (fun x => { x with lastPos := some pos, top := k + 1 }) s
  if defer then
    let s := if x.backlog.isEmpty then
      raiseHw (0x0A0 + g) none 0x22 (ownerOf s 0x07 g) (setB (gk g 0x10) 3 true s) else s
    modGen g (fun x => { x with backlog := x.backlog ++ [tok] }) s
  else deliver tok s

/-- The crossings of a generator after its axis has come to its present position (R136, R138). A crossing is refused
where the generator's owner is not in the axis use set (R94). DESIGN CHOICE: the index k of R136 counts trigger points,
so a later token keeps its point's k, and the count of R32 passes over each point that made no token: a refused one, and
one beyond the last token first crossed by the position change that ends rewind lock, which R138 suppresses although
"the count does not advance" and R136 ties line k to point k. -/
def genMove (g : Nat) (s : State) : State :=
  let x := gen s g
  let a := rf s (gk g 0) 2 0
  let pos := (axis s a).pos
  let pitch := genPitch s g
  let gap := sext 64 (x.nextT - BitVec.ofNat 64 (pos.toNat * 65536)).toNat
  let s :=
    if gap ≤ 0 then
      let n := ((-gap) / (max 1 pitch : Nat)).toNat + 1
      let s' := modGen g (fun y => { y with next := y.next + n, nextT := y.nextT + BitVec.ofNat 64 (n * pitch) }) s
      if !genMay s g then forEach (List.range n) (fun _ s => refuse (ownerOf s 0x07 g) 0x22 s) s'
      else if x.lock then ledAdd 4 g 2 n (ledAdd 4 g 0 n s')
      else forEach (List.range n) (fun i s => makeToken g (x.next + i) (x.nextT + BitVec.ofNat 64 (i * pitch)) s) s'
    else
      let m := min x.next ((gap - 1) / (max 1 pitch : Nat)).toNat
      modGen g (fun y => { y with next := y.next - m, nextT := y.nextT - BitVec.ofNat 64 (m * pitch) }) s
  modGen g (fun y => { y with lock := match y.lastPos with | some l => decide (sdiff pos l < 0) | none => false }) s

/-- A generator crosses points itself (R140, R157): local, or a follower that has lost the master. -/
def genLocal (s : State) (g : Nat) : Bool := !rb s (gk g 0) 4 || genAlone s g
/-- Every armed generator on an axis judges its points against the position. -/
def gensMove (a : Nat) (s : State) : State :=
  forEach ((List.range 16).filter fun g => genArmed s g && rf s (gk g 0) 2 0 == a && genLocal s g) genMove s

/-- Move an axis by whole counts; `rate` where the motion counts for RATE (R131). -/
def moveAxis (a : Nat) (d : Int) (rate : Bool) (s : State) : State :=
  if d = 0 then s else
  let s := modAxis a (fun x => { x with pos := posAdd x.pos d, odo := if rate then x.odo + d else x.odo }) s
  gensMove a (setB (ak a 0x10) 4 (decide (d < 0)) s)
/-- Move an axis by 1/65,536 counts, through the remainder of R126. -/
def moveFixed (a : Nat) (x : Int) (rate : Bool) (s : State) : State :=
  let acc := (((axis s a).frac.toNat : Nat) : Int) + x
  moveAxis a (acc / 65536) rate (modAxis a (fun y => { y with frac := BitVec.ofInt 16 acc }) s)

/-! ## Sources and failover (R126–R130) -/

/-- The primary port of an axis, if bound. -/
def priOf (s : State) (a : Nat) : Option Nat := if rb s (ak a 0) 5 then some (rf s (ak a 0) 4 0) else none
/-- The backup port of an axis, if bound. -/
def bkpOf (s : State) (a : Nat) : Option Nat := if rb s (ak a 0) 13 then some (rf s (ak a 0) 12 8) else none
/-- The axis takes the Swarm master's position (R133). -/
def axSwarm (s : State) (a : Nat) : Bool := rb s (ak a 0) 14
/-- A port's loss-of-signal detector is asserted (R123). -/
def losDet (s : State) (e : Nat) : Bool := rb s (ek e 4) 0 || rb s (ek e 4) 1
/-- The same, or DEGRADE makes it act so for R128 and R130 (R407). -/
def losOf (s : State) (e : Nat) : Bool := losDet s e || (encP s e).deg
/-- A bound port that has lost signal. -/
def losOpt (s : State) (e : Option Nat) : Bool := match e with | some e => losOf s e | none => false
/-- The backup is the active source. -/
def onBackup (s : State) (a : Nat) : Bool := rb s (ak a 0x10) 0
/-- Rebase the divergence (R127). -/
def rebase (a : Nat) (s : State) : State := modAxis a (fun x => { x with div := 0, trav := 0, bk := 0 }) s
/-- The divergence is Δprimary − RATIO × Δbackup, both since the last rebase (R127). -/
def divNow (a : Nat) (s : State) : State :=
  modAxis a (fun x => { x with div := if (bkpOf s a).isSome then x.trav * 65536 - (((rd s (ak a 4)).toNat : Nat) : Int) * x.bk else 0 }) s
/-- A follower axis that counts a local port: holdover has ended with FALLBACK = 1 (R158), and RESYNC has not given it
the master's position (R133, R161). -/
def fallen (s : State) (a : Nat) : Bool :=
  axSwarm s a && s.sw.fall && rb s (swk 0) 7 && swAlone s && !followsMaster s a
/-- Whether a local port moves an axis that may be a Swarm follower (R133, R158). -/
def localMoves (s : State) (a : Nat) : Bool := !axSwarm s a || fallen s a
/-- The local port that an axis counts: the backup after a failover, and where a fallen follower axis has no
primary (R126, R158). -/
def localSrc (s : State) (a : Nat) : Option Nat :=
  if onBackup s a || (axSwarm s a && (priOf s a).isNone) then bkpOf s a else priOf s a

/-- The axis has no source (R130, R158). A follower axis has one until holdover ends, and again once RESYNC has given it
the master's position; between them it needs FALLBACK = 1 and a local port. DESIGN CHOICE: a CFG write that unbinds the backup while it is the active source is neither of R130's
cases, and leaves NOSRC at 0. -/
def noSrc (s : State) (a : Nat) : Bool :=
  if axSwarm s a && (!s.sw.fall || followsMaster s a) then false
  else if axSwarm s a && (!rb s (swk 0) 7 || ((priOf s a).isNone && (bkpOf s a).isNone)) then true
  else (axis s a).noPort || losOpt s (localSrc s a)
/-- Bring NOSRC and its fault source up to date. -/
def updNoSrc (a : Nat) (s : State) : State :=
  let n := noSrc s a
  let s' := setB (ak a 0x10) 3 n s
  if n && !rb s (ak a 0x10) 3 then causeOn (0x090 + a) none 0x21 0 0 s'
  else if !n && rb s (ak a 0x10) 3 then causeOff (0x090 + a) none s' else s'

/-- Fail over to the backup (R128): 1 divergence, 2 loss of signal, 3 forced. The FOSTEP step is no motion for
RATE (R131). -/
def failover (a cause : Nat) (s : State) : State :=
  if onBackup s a then s else
  let s := incR (ak a 0x2C) (setF (ak a 0x10) 2 1 cause (setB (ak a 0x10) 0 true s))
  let s := modAxis a (fun x => { x with noPort := (bkpOf s a).isNone }) s
  let s := causeOn (0x088 + a) none 0x21 0 0 s
  let s := if rb s (ak a 0) 16 then moveFixed a (-(axis s a).div) false s else s
  updNoSrc a s
/-- Fail over where a condition of R128 holds, and bring NOSRC up to date. -/
def axisCheck (a : Nat) (s : State) : State :=
  let win := rf s (ak a 8) 15 0
  let s :=
    if onBackup s a || !localMoves s a || (axSwarm s a && (priOf s a).isNone) then s
    else if (bkpOf s a).isSome && decide (win ≠ 0) && decide (win * 65536 < (axis s a).div.natAbs) then failover a 1 s
    else if rb s (ak a 0) 15 && (bkpOf s a).isSome && losOpt s (priOf s a) then failover a 2 s
    else s
  updNoSrc a s

/-- A count of the primary port (R126, R127). -/
def countPrimary (a : Nat) (d : Int) (s : State) : State :=
  let s := divNow a (modAxis a (fun x => { x with trav := x.trav + d }) s)
  let s := if localMoves s a && !onBackup s a then moveAxis a d true s else s
  let s := axisCheck a s
  if 2 ^ rf s (ak a 0) 28 24 ≤ (axis s a).trav.natAbs then rebase a s else s
/-- A count of the backup port (R126, R127). -/
def countBackup (a : Nat) (d : Int) (s : State) : State :=
  let r : Int := ((rd s (ak a 4)).toNat : Nat)
  let s := divNow a (modAxis a (fun x => { x with bk := x.bk + d }) s)
  let s := if localMoves s a && !(axis s a).noPort && (onBackup s a || (axSwarm s a && (priOf s a).isNone))
    then moveFixed a (r * d) true s else s
  axisCheck a s

/-- A counted edge of a port reaches the axis that binds it. -/
def portCount (e : Nat) (d : Int) (s : State) : State :=
  forEach (List.range 8) (fun a s =>
    if priOf s a == some e then countPrimary a d s else if bkpOf s a == some e then countBackup a d s else s) s

/-- The counts of an accepted sample (R119): `none` where the mode counts no edge of it. -/
def edgeCount (mode : Nat) (oa ob a b : Bool) : Option Int :=
  let rise := !oa && a
  let dir (fwd : Bool) : Int := if fwd then 1 else -1
  match mode with
  | 1 => if rise then some (dir !ob) else none
  | 2 => if oa != a then some (dir (a != b)) else none
  | 3 => if oa != a then some (dir (a != b)) else if ob != b then some (dir (a == b)) else none
  | 4 => if rise then some (dir ob) else none
  | 5 => if rise then some 1 else none
  | _ => none

/-- The glitch filter can accept a new level now (R118): a level that it accepts has been stable for the filter time
of 2.5 ns × 2^FILT, so two changes that it accepts on one input are at least that far apart, and `k` of them `k` times
as far. -/
def filterPassed (s : State) (e k : Nat) (last : Option Nat) : Bool :=
  match last with
  | some t => decide (s.tb < t) || decide (5 * k * 2 ^ rf s (ek e 0) 11 8 ≤ 2 * (s.tb - t))
  | none => true
/-- A sample of the filtered levels in which the filter accepts a change of an input (R118–R121). DEDUCED: the row
brings levels that have passed the filter ("a filtered encoder edge is accepted"), never those of a pulse that it
rejects; a change sooner than the filter can accept one is no such event, and the input keeps its level. -/
def encSample (e : Nat) (a b : Bool) (s : State) : State :=
  let x := encP s e
  let a := if filterPassed s e 1 x.chgA then a else x.a
  let b := if filterPassed s e 1 x.chgB then b else x.b
  let mode := rf s (ek e 0) 2 0
  let both := (x.a != a) && (x.b != b)
  let s := modEnc e (fun y => { y with a := a, b := b, chgA := if x.a != a then some s.tb else y.chgA,
                                       chgB := if x.b != b then some s.tb else y.chgB }) s
  let s := if !x.a && a then pinRefusals 4 ((List.range 256).filter fun p => p % 32 == e && p / 32 % 2 == 0) 0x05 e s else s
  let s := if !x.b && b then pinRefusals 4 ((List.range 256).filter fun p => p % 32 == e && p / 32 % 2 == 1) 0x05 e s else s
  if both && decide (1 ≤ mode) && decide (mode ≤ 3) then
    raiseHw (0x060 + e) none 0x20 (ownerOf s 0x05 e) (incR (ek e 0x10) s)
  else match edgeCount mode x.a x.b a b with
    | none => s
    | some d =>
      let d := if rb s (ek e 0) 3 then -d else d
      let tooFast := match x.lastEdge with | some l => decide (s.tb < l + 20) | none => false
      let s := modEnc e (fun y => { y with lastEdge := some s.tb }) s
      let s := if tooFast then raiseHw 0x080 (some e) 0x20 (ownerOf s 0x05 e) (setB (ek e 4) 3 true s) else s
      portCount e d (wr (ek e 8) (rd s (ek e 8) + intW d) s)

/-- A Z edge of the selected polarity that the filter accepts (R118, R122). It is one filter time after the last change
that the filter accepted; where Z already stood at its level after that edge, the filter has accepted the opposite edge
between them, and they are two filter times apart. -/
def encZ (e : Nat) (s : State) : State :=
  let mode := rf s (ek e 0) 2 0
  let quad := decide (1 ≤ mode) && decide (mode ≤ 3)
  if !filterPassed s e (if (encP s e).z == !rb s (ek e 0) 13 then 2 else 1) (encP s e).chgZ then s else
  let s := modEnc e (fun y => { y with z := !rb s (ek e 0) 13, chgZ := some s.tb }) s
  if quad && rb s (ek e 0) 12 && !((encP s e).a && (encP s e).b) then s
  else incR (ek e 0x14) (wr (ek e 0xC) (rd s (ek e 8)) s)

/-- A detector watches B in the modes that use B (R123). -/
def usesB (s : State) (e : Nat) : Bool := decide (1 ≤ rf s (ek e 0) 2 0) && decide (rf s (ek e 0) 2 0 ≤ 4)
/-- The loss-of-signal detector of an input asserts or deasserts (R123, R128, R130). -/
def encLos (e : Nat) (onB lost : Bool) (s : State) : State :=
  if onB && !usesB s e && lost then s else
  let s := setB (ek e 4) (if onB then 1 else 0) lost s
  let s := if lost then causeOn (0x040 + e) none 0x20 (ownerOf s 0x05 e) 0 (setB (ek e 4) 2 true s)
    else if !rb s (ek e 4) 0 && !rb s (ek e 4) 1 then causeOff (0x040 + e) none s else s
  forEach ((List.range 8).filter fun a => priOf s a == some e || bkpOf s a == some e) axisCheck s

/-- The 10 µs update of RATE (R131). DESIGN CHOICE: the spec states no saturation; a rate outside signed Q27.4, which
RATIO can bring about, is kept modulo 2^32. -/
def rateUpdate (a : Nat) (s : State) : State :=
  let x := axis s a
  let w := 2 ^ rf s (ak a 0) 23 20
  let hist := (x.odo :: x.hist).take 1025
  let num := (x.odo - hist.getD w 0) * 1600000
  let r := num / (w : Nat)
  let r := if num % (w : Nat) = 0 then r else if Config.rateRoundUp num then r + 1 else r
  let s := modAxis a (fun y => { y with hist := hist }) s
  if followsMaster s a then s else wr (ak a 0x1C) (intW r) s

/-- Disarm a generator (R139); its deferred tokens, counted as consumed at their crossing, start no line. -/
def disarmGen (g : Nat) (s : State) : State :=
  modGen g (fun x => { x with backlog := [] }) (setB (gk g 0x10) 0 false s)
/-- A generator lets a token go, or emits nothing where its owner has left the axis use set meanwhile (R94). -/
def tokenGoes (g : Nat) (t : Token) (s : State) : State :=
  if genMay s g then deliver t s else refuse (ownerOf s 0x07 g) 0x22 s
/-- Deliver the oldest deferred token 4 µs after the previous one (R137), outside rewind lock (R138). -/
def deliverDeferred (g : Nat) (s : State) : State :=
  let x := gen s g
  if x.lock then s else
  match x.backlog, x.lastDel with
  | t :: ts, some d => if d + 4000 ≤ s.tb then tokenGoes g t (modGen g (fun y => { y with backlog := ts }) s) else s
  | t :: ts, none => tokenGoes g t (modGen g (fun y => { y with backlog := ts }) s)
  | [], _ => s

/-- The signed 48-bit START of a generator. -/
def genStart (s : State) (g : Nat) : BitVec 48 :=
  BitVec.ofNat 48 ((rd s (gk g 8)).toNat + 2 ^ 32 * rf s (gk g 0xC) 15 0)
/-- Arm a generator at T0 (R135). -/
def armGen (g : Nat) (t0 : BitVec 48) (s : State) : State :=
  setB (gk g 0x10) 0 true (modGen g (fun x =>
    { x with next := 0, top := 0, nextT := BitVec.ofNat 64 (t0.toNat * 65536), count := 0, backlog := [], lastPos := none,
             lock := false, lastCount := none }) s)

/-- Force a failover (R128): by CTL.FORCE or DEGRADE. DESIGN CHOICE: an axis with SRC = 1 that follows the master
fails over like any other: STAT, FOVCNT, the source and the FOSTEP step change, and the backup counts once the
axis falls back (R133, R158). -/
def forceAxis (a : Nat) (s : State) : State := failover a 3 s
/-- Restore the primary (R129). -/
def restoreAxis (a : Nat) (s : State) : State :=
  let s := setB (ak a 0x10) 0 false s
  let s := modAxis a (fun x => { x with noPort := false }) s
  updNoSrc a (rebase a (causeOff (0x088 + a) none s))
/-- Preset the position (R132): no crossing, no reverse, no rate; the action queue observes it without an action.
DESIGN CHOICE: the spec presets the 48-bit position and is silent on the 16-bit remainder of R126, which becomes 0. -/
def presetAxis (a : Nat) (p : BitVec 48) (s : State) : State :=
  rebase a (modAxis a (fun x => { x with pos := p, frac := 0 }) { s with obs := vset s.obs a p })

end Sys2Proof.Machine
end

