-- ==== Sys2Proof/Machine/Operands.lean ====
section
/-! DEFINITION. Operand forms of the data path: the converter code, the corrected pixel, the tracker, the
delay and the two output paths (R168–R170, R183, R194–R197, R213–R232), as functions of one line. -/

namespace Sys2Proof.Machine

/-- A value with its over-range mark. -/
abbrev Mk := Int × Bool

/-- The input stage as it is set for a line (R168–R171): mode, sign, gain code, offset in nanovolts, the clamp voltage
in nanovolts with the line clamp on, and the first period and the periods of the clamp window. -/
structure InStage where
  mode : Nat
  pol : Bool
  gain : Nat
  ofs : Int
  clamp : Option Int
  clFirst : Nat
  clCount : Nat
  deriving DecidableEq, Repr

/-- Whether `q` codes are at most the conversion of `a` nanovolts: the span of 2.0 V ÷ g has 65,536 codes, and
g = 10^((CODE − 48) ÷ 160), so both sides are taken to the power 160 (R170, R171). -/
def gainLe (code q a : Nat) : Bool :=
  decide (q ^ 160 * 10 ^ (1440 + (48 - code)) ≤ (a * 2 ^ 15) ^ 160 * 10 ^ (code - 48))
/-- The whole codes of `a` nanovolts, up to 2^18 − 1, which is beyond every code range. -/
def gainFloor (code a : Nat) : Nat :=
  (List.range 18).foldl (fun q i => if gainLe code (q + 2 ^ (17 - i)) a then q + 2 ^ (17 - i) else q) 0
/-- The conversion result of a conditioned voltage, rounded down (R170). DESIGN CHOICE: the spec gives the converter no
rounding; the operand is the voltage that the converter resolves, its errors in it. -/
def converted (code : Nat) (v : Int) : Int :=
  if 0 ≤ v then gainFloor code v.toNat
  else
    let q := gainFloor code (-v).toNat
    if q ^ 160 * 10 ^ (1440 + (48 - code)) = ((-v).toNat * 2 ^ 15) ^ 160 * 10 ^ (code - 48) then -(q : Int) else -(q : Int) - 1

/-- The signal of each pixel period at the input circuit, and the voltage that the clamp then holds (R168, R171): in
the clamp window the switch holds a leg at the clamp voltage, both legs in DIFF, and outside it the leg follows the
head by the voltage held. CDS takes the difference of its slots, in which the clamp cancels. DEDUCED: the legs in use, which R171 clamps, are VIN_P and VIN_N in
DIFF, and VIN_P alone in SE and CDS, where VIN_N only senses the reference ground (R168). -/
def inSignal (c : InStage) : Nat → Int → List Pixel → List Int × Int
  | _, held, [] => ([], held)
  | j, held, x :: xs =>
    match c.clamp with
    | none => let r := inSignal c (j + 1) held xs; ((if c.mode = 2 then x.vs - x.rs else x.vs) :: r.1, r.2)
    | some v =>
      let level := if c.mode = 1 then 0 else v
      let at_ := if c.mode = 2 then x.rs else x.vs
      let held := if c.clFirst ≤ j ∧ j < c.clFirst + c.clCount then level - at_ else held
      let r := inSignal c (j + 1) held xs
      ((if c.mode = 2 then x.vs - x.rs else x.vs + held) :: r.1, r.2)

/-- The pixel value p of R194 of a signal, with its over-range (R170, R183): POL, the offset DAC and the gain act on
it in this order. DIFF is signed about mid-scale; SE and CDS are unsigned, and give 0 below 0 V. -/
def codeOf (c : InStage) (marked : Bool) (clip : Bool) (signal : Int) : Mk :=
  let lo : Int := if c.mode = 1 then -32768 else 0
  let hi : Int := if c.mode = 1 then 32767 else 65535
  let p := clampInt lo hi (converted c.gain ((if c.pol then -signal else signal) + c.ofs))
  (p, marked || clip || p == lo || p == hi)
/-- The pixel values of a line's periods, and the voltage that the clamp then holds. -/
def lineCodes (c : InStage) (marked : Bool) (held : Int) (px : List Pixel) : List Mk × Int :=
  let r := inSignal c 0 held px
  (List.zipWith (fun x v => codeOf c marked (x.clipVs || (c.mode == 2 && x.clipRs)) v) px r.1, r.2)

/-- Fields of a correction entry (R195). -/
def entOfs (e : Word) : Int := sext 16 (fld e 15 0)
def entGain (e : Word) : Nat := fld e 29 16
def entDef (e : Word) : Bool := bit e 30

/-- Limits of the 18-bit range. -/
def sat18 (x : Int) : Int := clampInt (-131072) 131071 x
/-- Limits of the 16-bit range. -/
def sat16 (x : Int) : Int := clampInt (-32768) 32767 x

/-- The corrected value of R196. -/
def correct1 (e : Word) (p : Mk) : Mk :=
  let v := ((4 * p.1 - entOfs e) * (entGain e : Int) + 8192) / 16384
  (sat18 v, p.2 || sat18 v != v)

/-- The nearest of up to `reach` neighbours with DEF = 0, in the order given (R197). -/
def nearest (reach : Nat) (xs : List (Mk × Bool)) : Option Mk :=
  ((xs.take reach).find? (fun x => !x.2)).map (·.1)

/-- The value that replaces a defective pixel (R197), from its neighbours on the left (nearest first) and
on the right. -/
def replaced (reach : Nat) (left right : List (Mk × Bool)) : Mk :=
  match nearest reach left, nearest reach right with
  | some a, some b => ((a.1 + b.1 + 1) / 2, a.2 || b.2)
  | some a, none => a
  | none, some b => b
  | none, none => (0, false)

/-- Replace the defective pixels of a line, from left to right; `left` holds what was passed. -/
def replaceAll (reach : Nat) (left : List (Mk × Bool)) : List (Mk × Bool) → List Mk
  | [] => []
  | x :: xs => (if x.2 then replaced reach left xs else x.1) :: replaceAll reach (x :: left) xs

/-- The correction stage (R196, R197) over a line's window: entries and pixel values in window order. -/
def correctLine (defen : Bool) (reach : Nat) (es : List Word) (ps : List Mk) : List Mk :=
  replaceAll reach [] (List.zipWith (fun e p => (correct1 e p, defen && entDef e)) es ps)

/-- The line mean of R216 with 16 fraction bits, if any pixel of the reference window carries no mark. -/
def lineMean (first count : Nat) (xs : List Mk) : Option Int :=
  let r := (((xs.drop first).take count).filter (fun x => !x.2)).map (·.1)
  if r.isEmpty then none else some (roundDiv (r.foldl (· + ·) 0 * 65536) r.length)
/-- The update of R216. -/
def trackStep (b m : Int) (k : Nat) : Int := roundDiv (b * 2 ^ k + (m - b)) (2 ^ k)
/-- The tracker output of R217; the flag of the pair tells that it was limited. -/
def trackOut (bhat ped : Int) (x : Mk) : Mk :=
  let v := x.1 - bhat + ped
  (sat18 v, x.2 || sat18 v != v)

/-- The settings of the two paths in force for a line (R221–R232). -/
structure PathCfg where
  delta : Nat
  d : Nat
  phi : Nat
  edge : Bool
  shift : Nat
  fshift : Nat
  /-- coefficients of the response, and L′ of R228 -/
  coeffs : List Int
  lp : Nat
  sexcl : Bool
  eexcl : Bool
  deriving DecidableEq, Repr

/-- One output with its flags (R226, R228, R229). -/
structure OutW where
  y : Int
  orr : Bool
  settle : Bool
  edge : Bool
  deriving DecidableEq, Repr

/-- t_0 and the output count M of a line of `n` window pixels (R222). -/
def t0Of (c : PathCfg) : Nat := (c.phi + c.d - 1) % c.d
def outCount (c : PathCfg) (n : Nat) : Nat :=
  if n = 0 ∨ n + c.delta - 1 < t0Of c then 0 else (n + c.delta - 1 - t0Of c) / c.d + 1
/-- The flagged fine outputs S of R228. -/
def settleCount (c : PathCfg) (n : Nat) : Nat :=
  min (outCount c n) ((c.delta + c.lp - 1 - t0Of c + c.d - 1) / c.d)
/-- The settle-excluded pixels of R232; no pixel lies before a first group that is partial. -/
def settleExcl (c : PathCfg) (n : Nat) : Nat :=
  let m := outCount c n
  let k := settleCount c n
  if !c.sexcl || c.edge || n = 0 then 0
  else if k = m then n
  else t0Of c + k * c.d + 1 - (c.delta + c.d)

/-- The delayed sequence u_p of R221, at any integer position. -/
def delayed (c : PathCfg) (vs : List Mk) (p : Int) : Mk :=
  if p < c.delta then (if c.edge then vs.getD 0 (0, false) else (0, false))
  else vs.getD (p - c.delta).toNat (0, false)

/-- The fine output at instant t before sat16, with the marks of its span (R223, R226). -/
def fineRaw (c : PathCfg) (vs : List Mk) (t : Nat) : Mk :=
  let us := (List.range c.coeffs.length).map fun j => delayed c vs ((t : Int) - (j : Int))
  let acc := (List.zipWith (fun k u => k * u.1) c.coeffs us).foldl (· + ·) (0 : Int)
  ((acc + 2 ^ (16 + c.shift)) / 2 ^ (17 + c.shift), us.any (·.2))
/-- The fast output at instant t before sat16, with the marks of its group (R225, R226). -/
def fastRaw (c : PathCfg) (vs : List Mk) (t : Nat) : Mk :=
  let lo := t + 1 - c.d
  let us := (List.range (t + 1 - lo)).map fun (i : Nat) => delayed c vs ((lo + i : Nat) : Int)
  let sm := us.foldl (fun a u => a + u.1) (0 : Int)
  let r : Int := if c.fshift = 0 then 0 else 2 ^ (c.fshift - 1)
  ((sm + r) / 2 ^ c.fshift, us.any (·.2))

/-- A value limited by sat16 (R223, R225). -/
def limited (x : Mk) : Bool := sat16 x.1 != x.1
/-- The raw outputs of a line on a path. -/
def rawLine (f : PathCfg → List Mk → Nat → Mk) (c : PathCfg) (vs : List Mk) : List Mk :=
  (List.range (outCount c vs.length)).map fun m => f c vs (t0Of c + m * c.d)
/-- The fine outputs of a line with their flags (R222, R223, R228), from the raw ones. -/
def fineLine (c : PathCfg) (vs : List Mk) (raw : List Mk) : List OutW :=
  raw.mapIdx fun m x =>
    let o := (sat16 x.1, x.2 || limited x)
    let fl := decide (m < settleCount c vs.length)
    ⟨o.1, o.2, fl && !c.edge, fl && c.edge⟩
/-- The fast outputs of a line with their flags (R225, R229), from the raw ones. -/
def fastLine (c : PathCfg) (raw : List Mk) : List OutW :=
  raw.mapIdx fun m x =>
    let t := t0Of c + m * c.d
    let o := (sat16 x.1, x.2 || limited x)
    let part := decide (t < c.d - 1)
    let fill := decide (t < c.delta + c.d - 1)
    ⟨o.1, o.2, part || (fill && !c.edge), !part && fill && c.edge⟩

/-- An output is excluded from thresholds and zones (R231). -/
def excluded (c : PathCfg) (o : OutW) : Bool := (c.sexcl && o.settle) || (c.eexcl && o.edge)

/-! ## Threshold runs (R252–R254) -/

/-- A window's settings in force (WCFG, WLIM). -/
structure WinCfg where
  en : Bool
  fast : Bool
  hien : Bool
  loen : Bool
  hyst : Int
  orskip : Bool
  minlen : Nat
  gap : Nat
  lo : Int
  hi : Int
  deriving DecidableEq, Repr

/-- Hysteresis of HYST (R253). -/
def hystOf : Nat → Int
  | 0 => 0 | 1 => 16 | 2 => 128 | _ => 1024
/-- The window that WCFG and WLIM words set. -/
def winCfg (cfg lim : Word) : WinCfg :=
  ⟨bit cfg 0, bit cfg 1, bit cfg 2, bit cfg 3, hystOf (fld cfg 5 4), bit cfg 6, fld cfg 15 8, fld cfg 23 16,
   sext 16 (fld lim 15 0), sext 16 (fld lim 31 16)⟩

/-- A pending event: polarity, first and last in-state output, extremum, and the outputs examined since the last. -/
structure Pend where
  high : Bool
  start : Nat
  last : Nat
  ext : Int
  gone : Nat
  deriving DecidableEq, Repr
/-- A closed event with the output at which it closed. -/
structure Closed where
  at_ : Nat
  e : Pend
  deriving DecidableEq, Repr

/-- The state of an output given the run in progress (R253): `some true` high, `some false` low. -/
def runStep (w : WinCfg) (run : Option Bool) (o : OutW) : Option Bool :=
  if w.orskip && o.orr then none else
  let startHi := w.hien && decide (w.hi < o.y)
  let startLo := w.loen && decide (o.y < w.lo)
  match run with
  | some true => if w.hi - w.hyst < o.y then some true else if startLo then some false else none
  | some false => if o.y < w.lo + w.hyst then some false else if startHi then some true else none
  | none => if startHi then some true else if startLo then some false else none

/-- One examined output (R254): the run, the pending event, and the events closed so far. -/
def pendStep (w : WinCfg) (st : Option Bool × Option Pend × List Closed) (mo : Nat × OutW) :
    Option Bool × Option Pend × List Closed :=
  let (run, pend, done) := st
  let r := runStep w run mo.2
  match r with
  | some h =>
    match pend with
    | some e =>
      if e.high = h then
        (r, some { e with last := mo.1, gone := 0, ext := if h then max e.ext mo.2.y else min e.ext mo.2.y }, done)
      else (r, some ⟨h, mo.1, mo.1, mo.2.y, 0⟩, done ++ [⟨mo.1, e⟩])
    | none => (r, some ⟨h, mo.1, mo.1, mo.2.y, 0⟩, done)
  | none =>
    match pend with
    | some e => if w.gap ≤ e.gone then (r, none, done ++ [⟨mo.1, e⟩]) else (r, some { e with gone := e.gone + 1 }, done)
    | none => (r, none, done)

/-- The events a window reports on a line (R252–R254), in the order in which they close. -/
def winEvents (w : WinCfg) (c : PathCfg) (os : List OutW) : List Closed :=
  if !w.en then [] else
  let xs := (os.zipIdx.filter (fun o => !excluded c o.1)).map (fun o => (o.2, o.1))
  let r := xs.foldl (pendStep w) (none, none, [])
  let all := r.2.2 ++ (match r.2.1 with | some e => [⟨os.length - 1, e⟩] | none => [])
  all.filter fun x => decide (w.minlen ≤ x.e.last - x.e.start + 1)
/-- The first output that a window examines: f of R252. -/
def firstExamined (c : PathCfg) (os : List OutW) : Nat :=
  match os.zipIdx.find? (fun o => !excluded c o.1) with | some o => o.2 | none => os.length

/-- The record of a closed event of window `w` (R254, R262). -/
def evRec (t : LineTag) (w : Nat) (fast : Bool) (os : List OutW) (x : Closed) : EvRec :=
  let span := (os.drop x.e.start).take (x.e.last - x.e.start + 1)
  { tag := t, typ := if fast then 2 else 1, fast := fast, start := x.e.start, len := x.e.last - x.e.start + 1, ext := x.e.ext,
    w0 := w == 0, w1 := w == 1, hi := x.e.high, lo := !x.e.high,
    settle := span.any (·.settle), edge := span.any (·.edge), orr := span.any (·.orr), stitched := false }

/-- The words of an event-class record (R276). -/
def evWords (r : EvRec) : List Word :=
  let b (x : Bool) (i : Nat) : Nat := x.toNat * 2 ^ i
  [BitVec.ofNat 32 (r.typ + 16 * r.tag.head + 2048 * r.tag.epoch + 65536 * (r.tag.num % 65536)),
   BitVec.ofNat 32 (r.tag.num / 65536),
   BitVec.ofNat 32 (r.start % 65536 + 65536 * min 65535 r.len),
   BitVec.ofNat 32 ((r.ext % 65536).toNat + b r.w0 16 + b r.w1 17 + b r.hi 18 + b r.lo 19 + b r.settle 20 + b r.edge 21
     + b r.orr 22 + b r.tag.unsync 23 + b r.stitched 24)]

end Sys2Proof.Machine
end

