-- ==== Sys2Proof/Machine/Events.lean ====
section
/-! DEFINITION. The tile event collector, the device stitcher, the action rules and zone statistics
(R255–R274). -/

namespace Sys2Proof.Machine

/-- THR register. -/
def thk (n off : Nat) : RKey := ⟨.thr, n, off⟩
/-- TILE register of a channel's tile, at an offset per local position. -/
def tlk (n base : Nat) : RKey := ⟨.tile, n / 12, base + 4 * (n % 12)⟩
/-- The collector of a tile. -/
def coll (s : State) (t : Nat) : List (Nat × QItem) := vget s.coll t
/-- Replace a collector's contents. -/
def setColl (t : Nat) (l : List (Nat × QItem)) (s : State) : State := { s with coll := vset s.coll t l }
/-- Whether a collector item is a record. -/
def QItem.isRec : QItem → Bool
  | .ev _ => true
  | .mark _ => false
/-- Records in a tile's buffer. -/
def collFill (s : State) (t : Nat) : Nat := ((coll s t).filter (fun x => x.2.isRec)).length
/-- Records that a channel holds (R257). -/
def collHeld (s : State) (n : Nat) : Nat := ((coll s (n / 12)).filter (fun x => x.1 == n && x.2.isRec)).length
/-- The conditions of R258, burst mode aside. -/
def collRoom (s : State) (n : Nat) : Bool :=
  decide (collHeld s n < rf s (tlk n 0x100) 12 0) && decide (collFill s (n / 12) < 4096)
/-- Write a record into the buffer. -/
def collWrite (n : Nat) (r : EvRec) (s : State) : State :=
  let s := setColl (n / 12) (coll s (n / 12) ++ [(n, .ev r)]) s
  let s := setF ⟨.tile, n / 12, 0x140⟩ 28 16 (max (rf s ⟨.tile, n / 12, 0x140⟩ 28 16) (collFill s (n / 12))) s
  modChan n (fun c => { c with recs := c.recs + 1 }) s

/-- An event joins the line's burst (R258, R259). -/
def joinBurst (b : Option Burst) (r : EvRec) : Burst :=
  match b with
  | none => ⟨{ r with typ := 3 }, r.start + r.len - 1, 1⟩
  | some b => ⟨{ b.r with w0 := b.r.w0 || r.w0, w1 := b.r.w1 || r.w1, hi := b.r.hi || r.hi, lo := b.r.lo || r.lo,
                          settle := b.r.settle || r.settle, edge := b.r.edge || r.edge, orr := b.r.orr || r.orr },
      max b.last (r.start + r.len - 1), b.n + 1⟩
/-- The oldest event of a channel reaches its collector (R258, R260). -/
def eventArrives (n : Nat) (s : State) : State :=
  match (chan s n).evq with
  | .ev r :: q =>
    let s := modChan n (fun c => { c with evq := q }) s
    if (chan s n).burst.isNone && collRoom s n then ledAdd 2 n 1 1 (ledAdd 2 n 0 1 (collWrite n r s))
    else modChan n (fun c => { c with burst := some (joinBurst c.burst r) }) s
  | _ => s
/-- The record of a burst (R259). -/
def burstRec (b : Burst) : EvRec := { b.r with len := min 65535 (b.last + 1 - b.r.start), ext := min 65535 b.n }
/-- A channel's line-end marker reaches its collector (R259, R260). -/
def markerArrives (n : Nat) (s : State) : State :=
  match (chan s n).evq with
  | .mark t :: q =>
    let s := match (chan s n).burst with
      | none => s
      | some b =>
        let s := incR (thk n 0x28) s
        if collRoom s n then
          ledAdd 2 n 2 b.n (ledAdd 2 n 0 b.n (setB (thk n 0x20) 0 true (collWrite n (burstRec b) s)))
        else ledAdd 2 n 3 b.n (ledAdd 2 n 0 b.n (setB (thk n 0x20) 1 true (incR (thk n 0x2C) s)))
    let s := setF (thk n 0x24) 31 16 (min 65535 (chan s n).recs) s
    let s := modChan n (fun c => { c with evq := q, burst := none, recs := 0 }) s
    setColl (n / 12) (coll s (n / 12) ++ [(n, .mark t)]) s
  | _ => s

/-! ## The stitcher (R261–R265) -/

/-- PAIR0 and PAIR1 of a pair. -/
def pairK (k w : Nat) : RKey := ⟨.pair, k, 4 * w⟩
def pairEn (s : State) (k : Nat) : Bool := rb s (pairK k 0) 0
def pairL (s : State) (k : Nat) : Nat := rf s (pairK k 0) 14 8
def pairR (s : State) (k : Nat) : Nat := rf s (pairK k 0) 22 16
def pairShift (s : State) (k : Nat) : Int := sext 16 (rf s (pairK k 1) 15 0)
def pairEdge (s : State) (k : Nat) : Nat := rf s (pairK k 1) 23 16
def pairJoin (s : State) (k : Nat) : Nat := rf s (pairK k 1) 31 24
/-- A pair is active while the channels serving its heads have one owner (R263, R94). -/
def pairActive (s : State) (k : Nat) : Bool :=
  pairEn s k && match chanOf s (pairL s k), chanOf s (pairR s k) with
    | some a, some b => ownerOf s 0x02 a == ownerOf s 0x02 b
    | _, _ => false
/-- A pair that is enabled but inactive, its channels having two owners (R94, R263). -/
def pairSplit (s : State) (k : Nat) : Bool :=
  pairEn s k && match chanOf s (pairL s k), chanOf s (pairR s k) with
    | some a, some b => ownerOf s 0x02 a != ownerOf s 0x02 b
    | _, _ => false
/-- The active pairs that have a head on their left, or on their right. -/
def pairsL (s : State) (h : Nat) : List Nat := (List.range 96).filter fun k => pairActive s k && pairL s k == h
def pairsR (s : State) (h : Nat) : List Nat := (List.range 96).filter fun k => pairActive s k && pairR s k == h

/-- Output count and f of a record's path and window (R264). -/
def recM (r : EvRec) : Nat := if r.fast then r.tag.mf else r.tag.m
def recF (r : EvRec) : Nat := if r.w0 then r.tag.f0 else r.tag.f1
/-- A candidate can merge to the right through pair k, or to the left. -/
def leftCand (s : State) (k : Nat) (c : Cand) : Bool := decide ((c.rM : Int) - 1 - pairEdge s k ≤ c.rEnd)
def rightCand (s : State) (k : Nat) (c : Cand) : Bool := decide (c.r.start ≤ recF c.r + pairEdge s k)
/-- A record as it stands in the stitcher. -/
def candOf (r : EvRec) : Cand := ⟨r, r.tag.head, r.start + r.len - 1, recM r, 0, none, false⟩

/-- The marker of a head's line, or a later one, has passed. -/
def marked (s : State) (h num : Nat) : Bool := decide (num < nget 0 s.marks h)
/-- A neighbour could still join a candidate (R265). -/
def stillWaits (s : State) (c : Cand) : Bool :=
  (pairsL s c.rHead).any (fun k => leftCand s k c && !(marked s c.rHead c.r.tag.num && marked s (pairR s k) c.r.tag.num)) ||
  (pairsR s c.r.tag.head).any (fun k => rightCand s k c && !(marked s c.r.tag.head c.r.tag.num && marked s (pairL s k) c.r.tag.num))

/-- The stitched record of a left and a right candidate through pair k (R264). -/
def stitch (s : State) (k : Nat) (l r : Cand) : Cand :=
  let sh := l.rShift + pairShift s k
  let e := max ((l.r.start + l.r.len : Nat) : Int) (((r.r.start + r.r.len : Nat) : Int) + sh)
  ⟨{ l.r with tag := { l.r.tag with unsync := l.r.tag.unsync || r.r.tag.unsync }, typ := if l.r.fast then 5 else 4, stitched := true, len := min 65535 (e - l.r.start).toNat,
              ext := if l.r.hi then max l.r.ext r.r.ext else min l.r.ext r.r.ext, settle := l.r.settle || r.r.settle,
              edge := l.r.edge || r.r.edge, orr := l.r.orr || r.r.orr },
   r.rHead, r.rEnd, r.rM, sh + r.rShift, l.mark, false⟩
/-- The candidate of a list that is greatest by a measure; the first on a tie. -/
def bestBy (f : Cand → Int) : List Cand → Option Cand
  | [] => none
  | c :: cs => match bestBy f cs with
    | some d => if f c < f d then some d else some c
    | none => some c
/-- Merge one window and polarity of pair k on a line (R264). -/
def mergeOne (k num : Nat) (w1 hi : Bool) (s : State) : State :=
  let same (c : Cand) : Bool := !c.out && c.r.tag.num == num && c.r.w1 == w1 && c.r.hi == hi
  let l := bestBy (fun c => (c.rEnd : Int)) (s.hold.filter fun c => same c && c.rHead == pairL s k && leftCand s k c)
  let r := bestBy (fun c => -(c.r.start : Int)) (s.hold.filter fun c => same c && c.r.tag.head == pairR s k && rightCand s k c)
  match l, r with
  | some l, some r =>
    if (r.r.start : Int) + pairShift s k - l.rEnd - 1 ≤ pairJoin s k then
      { s with hold := (s.hold.erase r).map (fun c => if c = l then stitch s k l r else c) }
    else s
  | _, _ => s
/-- Merge pair k on a line, once both markers have passed. -/
def mergePair (k num : Nat) (s : State) : State :=
  if marked s (pairL s k) num && marked s (pairR s k) num then
    mergeOne k num true true (mergeOne k num true false (mergeOne k num false true (mergeOne k num false false s)))
  else s
/-- What leaves the hold store: a released entry, unless an earlier entry of its head is of another line. -/
def leave (before : List Cand) : List Cand → List Cand × List EvRec
  | [] => ([], [])
  | c :: cs =>
    if c.out && !before.any (fun d => d.r.tag.head == c.r.tag.head && d.r.tag.num != c.r.tag.num) then
      ((leave before cs).1, c.r :: (leave before cs).2)
    else (c :: (leave (c :: before) cs).1, (leave (c :: before) cs).2)
/-- Released entries leave, each head's in line order (R265); stitched records are counted. -/
def letGo (s : State) : State × List EvRec :=
  let x := leave [] s.hold
  (forEach (x.2.filter (·.stitched)) (fun _ s => incR ⟨.ruleG, 0, 8⟩ s) { s with hold := x.1 }, x.2)
/-- Candidates that nothing can join any more are released. -/
def releaseDone (s : State) : State × List EvRec :=
  letGo { s with hold := s.hold.map fun c => if stillWaits s c then c else { c with out := true } }
/-- A record that would be a candidate of an enabled pair whose channels have two owners: a refused path of
the owner of the record's channel (R94). -/
def pairRefusals (r : EvRec) (s : State) : State :=
  let c := candOf r
  if r.typ = 3 then s else
  forEach ((List.range 96).filter fun k => pairSplit s k && ((pairL s k == c.rHead && leftCand s k c) || (pairR s k == c.rHead && rightCand s k c)))
    (fun _ s => refuse (ownerOf s 0x02 ((chanOf s r.tag.head).getD 0)) 0x26 s) s
/-- A record enters the stitcher (R264, R265): held as a candidate, or passed. -/
def stitchRec (r : EvRec) (s : State) : State × List EvRec :=
  let s := pairRefusals r s
  let cand := r.typ != 3 && stillWaits s (candOf r)
  let full := decide (4096 ≤ (s.hold.filter (!·.out)).length)
  let s := if cand && full then incR ⟨.ruleG, 0, 4⟩ s else s
  letGo { s with hold := s.hold ++ [{ candOf r with out := !cand || full }] }
/-- A line-end marker reaches the stitcher. -/
def stitchMark (t : LineTag) (s : State) : State × List EvRec :=
  let s := { s with marks := nput 0 s.marks t.head (t.num + 1),
                    hold := s.hold.map fun c => if c.r.tag.head = t.head ∧ c.r.tag.num = t.num then { c with mark := some s.tb } else c }
  let s := forEach (pairsL s t.head ++ pairsR s t.head) (fun k s => mergePair k t.num s) s
  releaseDone s
/-- A candidate of a head whose line-end marker passed 20 µs ago. -/
def Cand.late (h now : Nat) (c : Cand) : Bool :=
  !c.out && c.r.tag.head == h && match c.mark with | some t => decide (t + 20000 ≤ now) | none => false
/-- 20 µs after its marker, a head's candidates are released unstitched (R265). -/
def stitchTimeouts (h : Nat) (s : State) : State × List EvRec :=
  letGo { wr ⟨.ruleG, 0, 0⟩ (rd s ⟨.ruleG, 0, 0⟩ + BitVec.ofNat 32 (s.hold.filter (Cand.late h s.tb)).length) s with
          hold := s.hold.map fun c => if c.late h s.tb then { c with out := true } else c }
/-- The stitcher takes one item from the collectors in round-robin (R261). -/
def stitcherTakes (s : State) : State × List EvRec :=
  match ((List.range 8).map fun i => (s.stRr + i) % 8).find? (fun t => !(coll s t).isEmpty) with
  | none => (s, [])
  | some t =>
    match coll s t with
    | [] => (s, [])
    | x :: xs =>
      let s := { setColl t xs s with stRr := (t + 1) % 8 }
      match x.2 with
      | .ev r => stitchRec r s
      | .mark m => stitchMark m s

/-! ## Action rules (R266–R268) -/

/-- RULE register. -/
def ruk (r off : Nat) : RKey := ⟨.rule, r, off⟩
/-- Zone register. -/
def zk (z off : Nat) : RKey := ⟨.zone, z, off⟩
/-- The conditions of R266 but for the ownership checks. -/
def ruleTest (s : State) (u : Nat) (r : EvRec) : Bool :=
  let ctl := rd s (ruk u 4)
  let z := fld ctl 25 16
  rb s (ruk u 0) 0 &&
  (if r.typ = 3 then bit ctl 2 else if 4 ≤ r.typ then bit ctl 3 else bit ctl 1) &&
  bit (rd s (ruk u (8 + 4 * (r.tag.head / 32)))) (r.tag.head % 32) &&
  ((r.w0 && bit ctl 4) || (r.w1 && bit ctl 5)) && ((r.hi && bit ctl 6) || (r.lo && bit ctl 7)) &&
  decide (rf s (ruk u 0x14) 15 0 ≤ r.len) &&
  (!bit ctl 8 || (rf s (zk z 4) 14 8 == r.tag.head && rb s (zk z 4) 0 == r.fast &&
    decide (r.start < rf s (zk z 8) 13 0 + rf s (zk z 8) 30 16) && decide (rf s (zk z 8) 13 0 < r.start + r.len))) &&
  !(bit ctl 10 && r.tag.unsync)
/-- The ownership checks of R266. -/
def ruleOwns (s : State) (u : Nat) (r : EvRec) : Bool :=
  let p := ownerOf s 0x0D u
  ownerOf s 0x03 r.tag.head == p && (!rb s (ruk u 4) 8 || ownerOf s 0x08 (rf s (ruk u 4) 25 16) == p) &&
    inUse s 0x06 (rf s (gk r.tag.gen 0) 2 0) p
/-- The insert that a match of rule u makes (R267, R268). -/
def ruleInsert (s : State) (u : Nat) (r : EvRec) : Insert :=
  let dist := BitVec.ofNat 48 ((rd s (ruk u 0x18)).toNat + 2 ^ 32 * rf s (ruk u 0x1C) 15 0)
  ⟨rf s (gk r.tag.gen 0) 2 0, r.tag.pos + dist, rd s (ruk u 0x20), rd s (ruk u 0x24), rd s (ruk u 0x28),
   rb s (ruk u 4) 9, ownerOf s 0x0D u, none⟩
/-- IBUF.PEAK follows the insert buffer. -/
def insPeak (s : State) : State := setF ⟨.paq, 0, 0x10⟩ 26 16 (max (rf s ⟨.paq, 0, 0x10⟩ 26 16) s.insBuf.length) s
/-- The insert buffer is full (R295). -/
def insFull (s : State) : Bool := decide (1024 ≤ s.insBuf.length)
/-- A record is tested against rules in the order given (R266, R268). A match that finds the insert buffer full waits
there: the rule is named, and the record goes on from it (R261, R295). -/
def ruleFrom (r : EvRec) : List Nat → State → Option Nat × State
  | [], s => (none, s)
  | u :: us, s =>
    if !ruleTest s u r then ruleFrom r us s
    else if !ruleOwns s u r then ruleFrom r us (refuse (ownerOf s 0x0D u) 0x26 s)
    else if insFull s then (some u, s)
    else ruleFrom r us (insPeak { incR (ruk u 0x2C) s with insBuf := s.insBuf ++ [ruleInsert s u r] })
/-- The records that wait at the action rules pass them, oldest first, as far as the insert buffer has room. -/
def rulesPass : List (EvRec × Nat) → State → State
  | [], s => { s with ruleQ := [] }
  | x :: q, s =>
    match ruleFrom x.1 ((List.range 64).drop x.2) s with
    | (none, s) => rulesPass q s
    | (some u, s) => { s with ruleQ := (x.1, u) :: q }
/-- The waiting records try again. -/
def rulesGoOn (s : State) : State := rulesPass s.ruleQ s
/-- A record comes to the action rules, behind those that wait (R266). -/
def matchRules (r : EvRec) (s : State) : State := rulesPass (s.ruleQ ++ [(r, 0)]) s

/-! ## Zone statistics (R270–R274) -/

/-- A zone's empty interval. -/
def zoneNew (z j h ep : Nat) : ZoneAcc := ⟨z, j, 0, [], 0, 0, 0, 0, 0, 0, 0, 0, 0, 0, false, false, false, h, ep⟩
/-- A zone's open interval. -/
def zoneAcc (s : State) (z : Nat) : Option ZoneAcc := s.zones.find? (fun a => a.z == z)
/-- Replace a zone's open interval. -/
def putZone (a : ZoneAcc) (s : State) : State := { s with zones := a :: s.zones.filter (fun x => x.z != a.z) }
/-- Discard a zone's open interval. -/
def dropZone (z : Nat) (s : State) : State := setB (zk z 0x14) 1 false { s with zones := s.zones.filter (fun x => x.z != z) }

/-- One output of a line into a zone (R271). -/
def zoneOut (orx : Bool) (ln : Nat) (a : ZoneAcc) (x : Nat × OutW × Bool) : ZoneAcc :=
  let o := x.2.1
  let a := { a with orr := a.orr || o.orr }
  if x.2.2 || (orx && o.orr) then { a with excl := a.excl + 1 }
  else
    let a := if a.count = 0 ∨ o.y < a.mn then { a with mn := o.y, mnln := ln, mnix := x.1 } else a
    let a := if a.count = 0 ∨ a.mx < o.y then { a with mx := o.y, mxln := ln, mxix := x.1 } else a
    { a with count := a.count + 1, sum := a.sum + o.y, sumsq := a.sumsq + o.y.natAbs * o.y.natAbs }
/-- A line of a head ends in a zone (R270, R271), unless it started before the open interval did; outputs of both
paths, with their exclusion. -/
def zoneLine (z : Nat) (ln : Line) (fine fast : List (OutW × Bool)) (s : State) : State :=
  match zoneAcc s z with
  | none => s
  | some a =>
    if ownerOf s 0x08 z != ownerOf s 0x03 ln.head then refuse (ownerOf s 0x08 z) 0x27 s else
    let n := max 1 (rf s (zk z 0xC) 15 0)
    if !a.prog.contains ln.num then s else
    let os := ((if rb s (zk z 4) 0 then fast else fine).zipIdx.map fun x => (x.2, x.1.1, x.1.2)).filter fun x =>
      decide (rf s (zk z 8) 13 0 ≤ x.1) && decide (x.1 < rf s (zk z 8) 13 0 + rf s (zk z 8) 30 16)
    let a := os.foldl (zoneOut (rb s (zk z 4) 1) (ln.num - a.j * n)) a
    putZone { a with lines := a.lines + 1, prog := a.prog.erase ln.num, unsync := a.unsync || ln.unsync,
                     epochChg := a.epochChg || (decide (a.lines ≠ 0) && a.epoch != ln.epoch), epoch := ln.epoch, head := ln.head } s
/-- The 12 words of a zone statistics record (R277). -/
def zoneWords (a : ZoneAcc) (fast snap : Bool) (n : Nat) : List Word :=
  let first := a.j * n
  let u48 := (a.sum % 2 ^ 48).toNat
  [BitVec.ofNat 32 (6 + 16 * a.head + 2048 * a.epoch + 32768 * fast.toNat + 65536 * a.z + 2 ^ 26 * a.unsync.toNat
     + 2 ^ 27 * a.orr.toNat + 2 ^ 28 * a.epochChg.toNat + 2 ^ 29 * snap.toNat),
   lo32 first, BitVec.ofNat 32 (first / 2 ^ 32 % 65536 + 65536 * (a.lines % 65536)), lo32 a.count, lo32 a.excl, lo32 u48,
   BitVec.ofNat 32 (u48 / 2 ^ 32), lo32 a.sumsq, hi32 a.sumsq,
   BitVec.ofNat 32 ((a.mn % 65536).toNat + 65536 * (a.mx % 65536).toNat),
   BitVec.ofNat 32 (a.mnln % 65536 + 65536 * (a.mxln % 65536)), BitVec.ofNat 32 (a.mnix % 65536 + 65536 * (a.mxix % 65536))]
/-- A zone's interval closes (R272); the words to stream, if any. LINES counts every line started in it (R271). -/
def zoneClose (a : ZoneAcc) (s : State) : State × List Word :=
  let z := a.z
  let page := rf s (zk z 0x10) 11 0
  let ws := zoneWords { a with lines := a.lines + a.prog.length } (rb s (zk z 4) 0) false (max 1 (rf s (zk z 0xC) 15 0))
  let s' := if ownerOf s 0x0E page != ownerOf s 0x08 z then refuse (ownerOf s 0x08 z) 0x27 s
    else incF (zk z 0x14) 31 16 (setF (zk z 0x14) 0 0 (a.j % 2)
      (putMemW (page * 4096 + 48 * (rf s (zk z 0x10) 22 16 + a.j % 2)) ws s))
  (s', if rb s (zk z 4) 2 then ws else [])
/-- The zones enabled on a head. -/
def zonesOf (s : State) (h : Nat) : List Nat := ((s.regs.filter fun e => decide (e.1.blk = .zone) && e.1.off == 0 && bit e.2 0).map (·.1.i)).filter fun z =>
  rf s (zk z 4) 14 8 == h
/-- A line starts in the open interval of a zone, if its number lies there and the zone's owner owns the head
(R270, R271). -/
def zoneStarts (z h num : Nat) (s : State) : State :=
  match zoneAcc s z with
  | none => s
  | some a =>
    if num / max 1 (rf s (zk z 0xC) 15 0) != a.j || ownerOf s 0x08 z != ownerOf s 0x03 h then s
    else putZone { a with prog := a.prog ++ [num] } s
/-- A line of a head starts (R270, R272, R273): intervals close and open. The records to stream follow. -/
def zonesStart (h num ep : Nat) (s : State) : State × List (List Word) :=
  (zonesOf s h).foldl (fun (sr : State × List (List Word)) z =>
    let (s, ws) := sr
    let j := num / max 1 (rf s (zk z 0xC) 15 0)
    match zoneAcc s z with
    | none => (zoneStarts z h num (setB (zk z 0x14) 1 true (putZone (zoneNew z j h ep) s)), ws)
    | some a =>
      if a.j < j then
        let r := zoneClose a s
        (zoneStarts z h num (setB (zk z 0x14) 1 true (putZone (zoneNew z j h ep) r.1)), if r.2.isEmpty then ws else ws ++ [r.2])
      else (zoneStarts z h num s, ws)) (s, [])
/-- A zone is disabled (R273). -/
def zoneOff (z : Nat) (s : State) : State := dropZone z (setB (zk z 0) 0 false s)
/-- The release state of a zone (R91, R273): disabled, both slots zero where the page is its former owner's. -/
def zoneRelease (z : Nat) (s : State) : State :=
  let page := rf s (zk z 0x10) 11 0
  let s' := if ownerOf s 0x0E page = ownerOf s 0x08 z
    then zeroMem (page * 4096 + 48 * rf s (zk z 0x10) 22 16) 96 s else s
  zoneOff z s'

end Sys2Proof.Machine
end

