-- ==== Sys2Proof/Machine/MoltOps.lean ====
section
/-! DEFINITION. Disarming, fences, bank swaps and Molt (R193, R198, R209–R211, R307–R318, R448). -/

namespace Sys2Proof.Machine

/-- VID, COR, FIL, HEAD registers of a channel. -/
def vk (n off : Nat) : RKey := ⟨.vid, n, off⟩
def ck (n off : Nat) : RKey := ⟨.cor, n, off⟩
def fk (n off : Nat) : RKey := ⟨.fil, n, off⟩
def hk (n off : Nat) : RKey := ⟨.head, n, off⟩
/-- HCFG of a head. -/
def hcK (h : Nat) : RKey := ⟨.hcfg, h, 0⟩

/-- A 48-bit value of a pair of registers. -/
def rd48 (s : State) (lo hi : RKey) : Nat := (rd s lo).toNat + 2 ^ 32 * rf s hi 15 0
/-- Write a 48-bit value to a pair of registers. -/
def wr48 (lo hi : RKey) (v : Nat) (s : State) : State := setF hi 15 0 (v / 2 ^ 32 % 65536) (wr lo (lo32 v) s)

/-! ## Bank swaps (R198, R210, R211) -/

/-- Flip the active bank; the former active bank is the shadow, and valid; no commit is pending in the channel (R210). -/
def swapBank (n line : Nat) (s : State) : State :=
  incR (ck n 0x60) (wr48 (ck n 0x58) (ck n 0x5C) line (setB (ck n 0) 1 true (setF (ck n 0) 6 4 0 (setF (ck n 0) 0 0 (1 - rf s (ck n 0) 0 0) s))))
/-- The CAL_COMMIT that a channel still waits for, if any. -/
def commitOf (s : State) (n : Nat) : Option LongOp :=
  s.ops.find? (fun o => match o.kind with | .calCommit left _ _ _ _ _ => left.contains n | _ => false)
/-- A channel of a CAL_COMMIT swaps: at line `line`, or late with L (R210, R211). -/
def commitSwap (n : Nat) (line : Option Nat) (s : State) : State :=
  match commitOf s n with
  | none => s
  | some o =>
    match o.kind with
    | .calCommit left all l dl late t =>
      let s := swapBank n (line.getD l) s
      let left' := left.filter (· != n)
      let late' := if line.isNone then late + 1 else late
      let t' := t.getD s.tb
      let s := setOp o.q o.tag (.calCommit left' all l dl late' (some t')) s
      if left'.isEmpty then complete o.q o.tag 0x00 [lo32 t', hi32 t', lo32 late'] s else s
    | _ => s

/-! ## Disarming (R193, R204) -/

/-- A channel named in a CAL_RUN that is collecting lines. -/
def calCollecting (s : State) (n : Nat) : Bool :=
  s.ops.any (fun o => match o.kind with | .calRun c => c.chans.contains n && decide (c.stage < 2) | _ => false)
/-- Disarm a channel (R193): a line in progress runs on. A commit it waits for swaps when the line has
ended, or now (R210); a calibration phase it is in has no data (R204). -/
def disarmChan (n : Nat) (s : State) : State :=
  if !armed s n then s else
  let s := setB (vk n 0x20) 0 false s
  let s := if calCollecting s n then modChan n (fun c => { c with calRes := if c.calRes = 0 then 4 else c.calRes }) s else s
  if (chan s n).line.isNone then commitSwap n none s else s

/-! ## Fences and the next line number (R311, R312, R448) -/

/-- A channel is fenced; its fence line. -/
def fenced (s : State) (n : Nat) : Bool := rb s (hk n 8) 8
def fenceLine (s : State) (n : Nat) : Nat := rd48 s (hk n 0xC) (hk n 0x10)
/-- Fence a channel at F, or at the lower of F and its present fence (R312). -/
def fenceAt (n f : Nat) (s : State) : State :=
  let f := if fenced s n then min f (fenceLine s n) else f
  wr48 (hk n 0xC) (hk n 0x10) f (setB (hk n 8) 8 true s)
/-- The count of the first token of a generator whose line start in a tile is still to come (R448). Points crossed
again in rewind lock make no token (R138), so the next token made is above the last one made. The first token of a generator that is disarmed comes after its next arming, and has
count 0 (R135, R191). -/
def nextCount (s : State) (g t : Nat) : Nat :=
  match (tile s t).toks.find? (fun k => k.gen == g) with
  | some k => k.count
  | none => match s.sw.tokQ.find? (fun x => x.2.gen == g) with
    | some x => x.2.count
    | none => match (gen s g).backlog with
      | k :: _ => k.count
      | [] => if rb s (gk g 0) 4 && !genAlone s g then (match (gen s g).lastCount with | some c => c + 1 | none => 0)
              else if !genArmed s g then 0
              else max (gen s g).next (gen s g).top
/-- The next line number of a channel (R448). -/
def nextLine (s : State) (n : Nat) : Nat :=
  match headOf s n with
  | none => 0
  | some h => nextCount s (rf s (hcK h) 3 0) (n / 12) - rf s (hcK h) 31 16
/-- A fence of a channel at its next line (R312, R407). -/
def fenceNow (n : Nat) (s : State) : State := fenceAt n (nextLine s n) s

/-! ## Molt (R309–R318) -/

/-- A channel is a spare: a valid Molt target (R310). -/
def isSpare (s : State) (n : Nat) : Bool :=
  rb s (hk n 0) 0 && (headOf s n).isNone && !fenced s n && !rb s (vk n 0x20) 1 && !armed s n
/-- An event-class record of a head's line of another epoch than `e`; a line-end marker is no record (R309). -/
def QItem.stale (h e : Nat) : QItem → Bool
  | .ev r => r.tag.head == h && r.tag.epoch != e
  | .mark _ => false
/-- Lines of a head's previous epoch are in flight (R309). -/
def oldInFlight (s : State) (h : Nat) : Bool :=
  let e := epochOf s h
  s.chans.toList.any (fun c => (match c.line with | some l => l.head == h && l.epoch != e | none => false) || c.evq.any (·.stale h e))
    || s.coll.toList.any (fun l => l.any (fun x => x.2.stale h e)) || s.hold.any (fun c => c.r.tag.head == h && c.r.tag.epoch != e)

/-- The bits of a register that commands write as settings. -/
def settingMask (k : RKey) : Word :=
  match fieldsOf k.blk k.off with
  | none => 0
  | some fs => fs.foldl (fun m f => if f.acc = .rw ∨ f.acc = .rwl then m ||| fldMask f.hi f.lo else m) 0
/-- Offsets of the registers of a block that hold settings. -/
def settingOffs (b : Blk) : List Nat :=
  ((rows b).flatMap fun r => (List.range r.n).map fun i => r.off + i * r.stride).filter fun o => settingMask ⟨b, 0, o⟩ != 0
/-- Rename the channel of a key. -/
def RKey.toChan (k : RKey) (n : Nat) : RKey := { k with i := n }
/-- Entries of a map for the channel sub-blocks VID, COR, FIL and THR of a channel. -/
def chanEntry (n : Nat) (k : RKey) : Bool := k.i == n && (k.blk == .vid || k.blk == .cor || k.blk == .fil || k.blk == .thr)
/-- Copy the settings of one channel to another (R315): writable fields, values in force, staged and held, with the
response in force that RINFO and RDLY describe (R235), and a pending SYNC. -/
def copySettings (o n : Nat) (s : State) : State :=
  let s := forEach [Blk.vid, .cor, .fil, .thr] (fun b s => forEach (settingOffs b) (fun off s =>
    let m := settingMask ⟨b, o, off⟩
    setAct ⟨b, n, off⟩ (act s ⟨b, o, off⟩) (wr ⟨b, n, off⟩ (blend (rd s ⟨b, n, off⟩) (rd s ⟨b, o, off⟩) m) s)) s) s
  let s := { s with due := (s.due.filter fun e => !chanEntry n e.1) ++ ((s.due.filter fun e => chanEntry o e.1).map fun e => (e.1.toChan n, e.2)) }
  let s := modChan n (fun c => { c with held := (chan s o).held.map (·.toChan n), freed := (chan s o).freed.map (·.toChan n), syncTrk := (chan s o).syncTrk }) s
  let s := setF (fk n 0x40) 4 4 (rf s (fk o 0x40) 4 4) (setF (fk n 0x40) 1 1 (rf s (fk o 0x40) 1 1) s)
  let s := wr (fk n 0x5C) (rd s (fk o 0x5C)) (wr (fk n 0x60) (rd s (fk o 0x60)) s)
  let s := wr (fk n 0x48) (rd s (fk o 0x48)) (wr (fk n 0x4C) (rd s (fk o 0x4C)) s)
  let s := setF (ck n 0) 1 0 (rf s (ck o 0) 1 0) s
  wr (hk n 4) (rd s (hk o 4)) (setF (hk n 0) 2 1 (rf s (hk o 0) 2 1) s)
/-- The entries of one bank of a channel that are not the identity, below `w`. -/
def corrBank (s : State) (n bank w : Nat) : List (Nat × Word) :=
  (s.corr.filter fun e => decide (n * 32768 + bank * 16384 ≤ e.1) && decide (e.1 < n * 32768 + bank * 16384 + w)).map
    fun e => (e.1 - n * 32768 - bank * 16384, e.2)
/-- Copy both correction banks below the window; higher entries are the identity (R315). -/
def copyBanks (o n : Nat) (s : State) : State :=
  let w := rf s (vk o 0x1C) 30 16
  forEach [0, 1] (fun b s => (corrBank s o b w).foldl (fun s e => corrPut n b e.1 e.2 s) (corrIdent n b 0 s)) s
/-- The tracker starts unprimed (R218). -/
def unprime (n : Nat) (s : State) : State :=
  setB (fk n 0x40) 0 false (wr (fk n 0x44) 0 (modChan n (fun c => { c with est := 0, upd := [] }) s))
/-- Calibration accumulators of a channel become invalid (R207). -/
def calInvalid (n : Nat) (s : State) : State :=
  setF (ck n 0) 3 2 0 (modChan n (fun c => { c with dk := ⟨0, []⟩, wt := ⟨0, []⟩ }) s)

/-- The operation of a MOLT, if a queue issued it. -/
def moltOp (s : State) (h : Nat) : Option LongOp :=
  s.ops.find? (fun o => match o.kind with | .molt x => x == h | _ => false)
/-- The MOLT of a head, if outstanding. -/
def moltOf (s : State) (h : Nat) : Option MoltSt := s.molts.find? (fun m => m.head == h)
/-- A MOLT ends. -/
def dropMolt (h : Nat) (s : State) : State := { s with molts := s.molts.filter (fun m => m.head != h) }
/-- A MOLT ends TOO_LATE (R315, R318). -/
def moltTooLate (m : MoltSt) (s : State) : State :=
  let s := dropMolt m.head s
  if m.auto then
    let s := match m.old with | some o => setF (hk o 8) 11 10 3 s | none => s
    raiseHw (0x100 + 16 * (m.head / 12) + 0xC) (some (m.head % 12)) (0x10 + m.head / 12) (ownerOf s 0x03 m.head) s
  else match moltOp s m.head with
    | some o => complete o.q o.tag 0x0B [detail 0xFF 0] s
    | none => s
/-- The switch of a head (R316), at line `line`, 0 for IMM = 1. HMAP of a parked head reads CH = 0, as in the chapter's
worked example. -/
def moltSwitch (m : MoltSt) (line : Nat) (s : State) : State :=
  let h := m.head
  let f := match m.old with | some o => if m.imm then nextLine s o else m.line | none => 0
  let s := match m.new, m.old with | some n, some o => copySettings o n s | _, _ => s
  let ep := (epochOf s h + 1) % 16
  let s := incF (hmapK h) 31 16 (setF (hmapK h) 11 8 ep s)
  let s := match m.new with
    | some n => setF (hmapK h) 4 0 (16 + n % 12) s
    | none => setF (hmapK h) 4 0 0 s
  let s := match m.old with
    | some o =>
      let s := calInvalid o (modChan o (fun c => { c with oldPort := c.line.isSome }) (disarmChan o s))
      if m.new.isSome then fenceAt o f s else s
    | none => s
  let s := match m.new with
    | some n =>
      let s := calInvalid n (unprime n (setB (hk n 0) 0 false s))
      let s := modChan n (fun c => { c with lastLine := none }) s
      let s := wr48 (hk n 0x18) (hk n 0x1C) line s
      if m.arm then setB (vk n 0x20) 0 true s else s
    | none => s
  let s := dropMolt h s
  if m.auto then
    let s := match m.old with | some o => setF (hk o 8) 11 10 1 s | none => s
    raiseHw (0x100 + 16 * (h / 12) + 0xB) (some (h % 12)) (0x10 + h / 12) (ownerOf s 0x03 h) s
  else match moltOp s h with
    | some o =>
      let ch (x : Option Nat) : Nat := x.getD 0x7F
      let ln := if m.new.isSome then line else 0
      complete o.q o.tag 0x00 [BitVec.ofNat 32 (ep + 256 * ch m.old + 65536 * ch m.new), lo32 s.tb, hi32 s.tb, lo32 ln, hi32 ln] s
    | none => s
/-- The copy of a MOLT is complete (R315); with IMM = 1 the switch is now. DESIGN CHOICE: while a line that the new
channel started for a former head still runs, the copy is not complete, for no line mixes old and new values (R180) and
the crossbar never switches during a line (R167). -/
def moltCopied (h : Nat) (s : State) : State :=
  match moltOf s h with
  | none => s
  | some m =>
    if m.copied || (match m.new with | some n => (chan s n).line.isSome | none => false) then s else
    let s := match m.new, m.old with
      | some n, some o => calInvalid n (copyBanks o n (copySettings o n s))
      | some n, none => s |> calInvalid n
      | _, _ => s
    if m.imm then moltSwitch m 0 s
    else { s with molts := s.molts.map fun x => if x.head = h then { x with copied := true } else x }
/-- At a line start of a head: a MOLT whose line is reached switches, or is too late (R315, R316). -/
def moltAtLine (h num : Nat) (s : State) : State :=
  match moltOf s h with
  | none => s
  | some m => if m.imm || decide (num < m.line) then s else if m.copied then moltSwitch m num s else moltTooLate m s

/-- The channels of a tile that auto-Molt may take for a head served by `n`, lowest first (R318). -/
def autoTargets (s : State) (n h : Nat) : List Nat :=
  ((List.range 12).map (12 * (n / 12) + ·)).filter fun c =>
    isSpare s c && ownerOf s 0x02 c == ownerOf s 0x03 h && ownerOf s 0x02 c == ownerOf s 0x02 n &&
      decide (rf s (vk n 0x1C) 30 16 ≤ rf s (tlk c 0x80) 14 0) && !busy s 0x02 c
/-- Auto-Molt after a lasting self-test fault of channel `n` (R318). -/
def autoMolt (n : Nat) (s : State) : State :=
  match headOf s n with
  | none => s
  | some h =>
    if !rb s (hk n 0) 1 then s else
    let f := nextLine s n
    let s := fenceAt n f s
    match (if busy s 0x03 h || oldInFlight s h then [] else autoTargets s n h) with
    | [] =>
      raiseHw (0x100 + 16 * (h / 12) + 0xC) (some (h % 12)) (0x10 + h / 12) (ownerOf s 0x03 h) (setF (hk n 8) 11 10 2 s)
    | c :: _ =>
      let follows := genArmed s (rf s (hcK h) 3 0) && rb s (hcK h) 4
      { s with molts := s.molts ++ [⟨h, some n, some c, !follows, rb s (hk n 0) 2, f + rf s (hk n 4) 15 0,
                                     s.tb + 1000000000, false, true⟩] }

end Sys2Proof.Machine
end

