-- ==== Sys2Proof/Machine/Firefly.lean ====
section
/-! DEFINITION. Firefly ports, load strobes, strobe generators, trip comparators and the urgent requests
they make (R319–R337, R343). -/

namespace Sys2Proof.Machine

/-- FF, CMPW and SGEN registers of a port, and TILE registers. -/
def ffk (n off : Nat) : RKey := ⟨.ff, n, off⟩
def cpk (n off : Nat) : RKey := ⟨.cmpw, n, off⟩
def sgk (n off : Nat) : RKey := ⟨.sgen, n, off⟩
def tk (t off : Nat) : RKey := ⟨.tile, t, off⟩
/-- SUPV.CONV register. -/
def cvk (t off : Nat) : RKey := ⟨.conv, t, off⟩
/-- A Firefly port. -/
def ffP (s : State) (n : Nat) : FfSt := vget s.ffs n
/-- Modify a Firefly port. -/
def modFf (n : Nat) (f : FfSt → FfSt) (s : State) : State := { s with ffs := vmod s.ffs n f }

/-- The reaction in force (FLT.STAT.REACT). -/
def react (s : State) : Nat := rf s ⟨.flt, 0, 4⟩ 3 1
/-- The power state in force (PWR.CUR). -/
def pwrCur (s : State) : Nat := rf s ⟨.dev, 0, 0x100⟩ 9 8
/-- Power state STANDBY. -/
def standby (s : State) : Bool := pwrCur s == 2

/-! ## Precedence (R321) -/

/-- The condition of rank 2 of R321; a power fail acts as one (R426). -/
def ffSafed (s : State) (n : Nat) : Bool := decide (3 ≤ react s) || standby s || s.pfail || !rb s (ffk n 0) 0
/-- The rank of R321 that applies to a port. -/
def ffRank (s : State) (n : Nat) : Nat :=
  if !s.rails.getLsbD (8 + n / 12) || s.por || !(ffP s n).driven then 1
  else if ffSafed s n then 2
  else if rb s (cpk n 8) 1 || rf s (tk (n / 12) 0x30C) 1 0 != 0 then 3
  else if (ffP s n).dark.isSome then 4 else 5
/-- Code, CODE.SRC and mode (current) that a port is to drive. -/
def ffTarget (s : State) (n : Nat) : Nat × Nat × Bool :=
  let nv := (rf s (ffk n 0x24) 13 0, 2, rb s (ffk n 0x24) 16)
  let base := ((ffP s n).base, (ffP s n).baseSrc, rb s (ffk n 4) 0)
  match ffRank s n with
  | 1 => nv
  | 2 => nv
  | 3 => if rb s (ffk n 4) 2 then nv else base
  | 4 => ((ffP s n).dark.getD 0, 3, rb s (ffk n 4) 0)
  | _ => base
/-! ## Short circuit and compliance (R330) -/

/-- SC or COMPL of a port begins or ends: bit of STAT, tile source k. -/
def ffFlag (n b k : Nat) (on : Bool) (s : State) : State :=
  let src := 0x100 + 16 * (n / 12) + k
  if on then causeOn src (some (n % 12)) (0x10 + n / 12) (ownerOf s 0x04 n) 0 (setB (ffk n 0xC) (b + 1) true (setB (ffk n 0xC) b true s))
  else causeOff src (some (n % 12)) (setB (ffk n 0xC) b false s)
/-- The output reaches its compliance limit: COMPL is set in current mode only (R330). -/
def ffCompl (n : Nat) (s : State) : State := if (ffP s n).cur then ffFlag n 3 8 true s else s

/-- The deglitcher holds a change of code (R327). -/
def degHolds (s : State) (n old new : Nat) : Bool :=
  rb s (ffk n 4) 3 && (decide (2 ^ (6 + rf s (ffk n 4) 6 4) ≤ max old new - min old new) || old / 1024 != new / 1024)
/-- Drive what R321 gives, through the deglitcher; COMPL ends with current mode. -/
def ffDrive (n : Nat) (s : State) : State :=
  let x := ffTarget s n
  let old := rf s (ffk n 0x14) 13 0
  let s' := setF (ffk n 0x14) 17 16 x.2.1 (setF (ffk n 0x14) 13 0 x.1 s)
  let s' := modFf n (fun f => { f with cur := x.2.2, held := if degHolds s n old x.1 then some (f.held.getD old) else if old = x.1 then f.held else none }) s'
  if !x.2.2 && rb s' (ffk n 0xC) 3 then ffFlag n 3 8 false s' else s'
/-- Rank 1 and 2 act at once (R321, R328). -/
def ffSettle (n : Nat) (s : State) : State := if ffRank s n ≤ 2 then ffDrive n s else s
/-- A gate that is held low stays low until the next START (R332). -/
def ffBlock (n : Nat) (s : State) : State := modFf n (fun f => { f with wait := true }) s
/-- The level driven on FF_GATE (R320, R331, R332). -/
def ffGate (s : State) (n : Nat) : Bool := ffRank s n == 5 && !(ffP s n).wait && (ffP s n).pulses.any (·.2)

/-! ## Playback (R323–R327) -/

/-- QSTAT of a port, with the peak it has reached. -/
def ffPeak (n : Nat) (s : State) : State :=
  setF (ffk n 0x10) 24 16 (max (rf s (ffk n 0x10) 24 16) (ffP s n).q.length) s
/-- One entry leaves the queue of a playing port, or an underrun is counted. -/
def ffPop (n : Nat) (s : State) : State :=
  match (ffP s n).q with
  | c :: q =>
    let s := modFf n (fun f => { f with q := q, base := c % 16384, baseSrc := 0 }) s
    if 16384 ≤ c then setB (ffk n 0xC) 0 false s else s
  | [] => incR (ffk n 0x18) (setB (ffk n 0xC) 5 true s)
/-- The IDLE code is taken at the first edge after enabling (R329). -/
def ffIdle (n : Nat) (s : State) : State := modFf n (fun f => { f with enable := false, base := rf s (ffk n 8) 13 0, baseSrc := 0 }) s
/-- A DAC action is taken at the edge (R294). -/
def ffTake (n : Nat) (s : State) : State :=
  match (ffP s n).dac with
  | some c => modFf n (fun f => { f with dac := none, base := c, baseSrc := 1 }) s
  | none => s
/-- A Firefly update edge at one port (R322–R324). A port that has just been enabled takes IDLE, and its first entry
with it where a firing has armed it at this edge (R326, R329). -/
def ffEdge (n : Nat) (s : State) : State :=
  if !rb s (ffk n 0) 0 then ffSettle n s else
  let s := if (ffP s n).dark.isSome then s else
    let s := if (ffP s n).enable then ffIdle n s
      else if !rb s (ffk n 0xC) 0 && !rb s (ffk n 4) 1 && !(ffP s n).q.isEmpty then setB (ffk n 0xC) 0 true s else s
    ffTake n (if rb s (ffk n 0xC) 0 then ffPop n s else s)
  ffDrive n s
/-- The tile's Firefly update clock runs (R322). -/
def ffClock (s : State) (t : Nat) : Bool := rb s (tk t 0) 16 && rb s (tk t 4) 0
/-- A firing of the tile load strobe at one port (R326). Rank 1 by itself exempts no port: the function in the core
continues without the supply of the pins (R441). DESIGN CHOICE: R94 asks that the port's owner set the mask bit itself,
while R98 and R326 arm a port whose bit is set; a bit that P0 set before it assigned the port arms it too, and nothing is
refused (log entry 128). -/
def ffFire (n : Nat) (s : State) : State :=
  if !rb s (tk (n / 12) 0x308) (n % 12) || !rb s (ffk n 4) 1 then s
  else if ffSafed s n || (ffP s n).dark.isSome then s
  else if rb s (ffk n 0xC) 0 then incR (ffk n 0x1C) s
  else if (ffP s n).q.isEmpty then incR (ffk n 0x18) s
  else setB (ffk n 0xC) 0 true s
/-- The ports of a tile. -/
def tilePorts (t : Nat) : List Nat := (List.range 12).map (12 * t + ·)
/-- The load strobe of a tile at the line-start edge of a token of generator g (R326); the update divider
restarts, so that an update edge falls there (R322). -/
def loadStrobe (t g : Nat) (s : State) : State :=
  if !rb s (tk t 0x304) 0 || rf s (tk t 0x304) 7 4 != g then s else
  forEach (tilePorts t) (fun n s => ffEdge n (ffFire n s)) (incR (tk t 0x314) s)

/-! ## Enabling and safe states (R328, R329) -/

/-- CTL.EN from 0 to 1 (R329). -/
def ffOn (n : Nat) (s : State) : State :=
  ffBlock n (modFf n (fun f => { f with enable := true }) (setB (ffk n 0xC) 0 false (setB (ffk n 0) 0 true s)))
/-- CTL.EN from 1 to 0 (R329). -/
def ffOff (n : Nat) (s : State) : State :=
  ffSettle n (ffBlock n (modFf n (fun f => { f with enable := false, dac := none }) (setB (ffk n 0xC) 0 false (setB (ffk n 0) 0 false s))))
/-- The queue of a port is emptied, its entries counted in QDISC. -/
def ffFlush (n : Nat) (s : State) : State :=
  let k := (ffP s n).q.length
  modFf n (fun f => { f with q := [] }) (setB (ffk n 0xC) 0 false (wr (ffk n 0x20) (rd s (ffk n 0x20) + BitVec.ofNat 32 k) s))
/-- The SAFE reaction at a port (R329). -/
def ffSafe (n : Nat) (s : State) : State := ffFlush n (ffOff n s)
/-- A port starts to follow DKCODE (R202), or stops. -/
def ffDark (n : Nat) (c : Option Nat) (s : State) : State :=
  let s := ffBlock n (modFf n (fun f => { f with dark := c, pulses := if c.isSome then [] else f.pulses, dac := none }) s)
  ffDrive n s
/-- The non-volatile values are read from NVM (R328, R431): a blank area gives code 0 in voltage mode. -/
def ffNvEntry (s : State) (n : Nat) : Nat := fld (nvmW s (0x4100 + 4 * (n / 2))) (16 * (n % 2) + 15) (16 * (n % 2))
/-- Give FF.NVV of a port an entry. -/
def setNvv (n e : Nat) (s : State) : State :=
  ffSettle n (setB (ffk n 0x24) 16 (e / 16384 % 2 == 1) (setF (ffk n 0x24) 13 0 (e % 16384) s))
/-- The port drives its non-volatile value for the first time (R328): from high impedance, so no change of code is
held (R327). -/
def ffPowerUp (n : Nat) (s : State) : State :=
  modFf n (fun f => { f with held := none }) (ffSettle n (modFf n (fun f => { f with driven := true }) s))

/-! ## Strobe generators (R331, R332) -/

/-- A pulse's START and EN, and WIDTH. -/
def pulseK (n i w : Nat) : RKey := sgk n (8 * i + 4 * w)
/-- The staged SGEN registers take effect and the line's pulses are fixed (R331, R332). -/
def pulsesStart (n : Nat) (s : State) : State :=
  let s := forEach (List.range 4) (fun i s => setAct (pulseK n i 1) (rd s (pulseK n i 1)) (setAct (pulseK n i 0) (rd s (pulseK n i 0)) s)) s
  let cut := ((ffP s n).pulses.filter fun p => !p.2).length
  let s := incR (sgk n 0x44) (wr (sgk n 0x48) (rd s (sgk n 0x48) + BitVec.ofNat 32 cut) s)
  let new := if (ffP s n).dark.isSome then [] else ((List.range 4).filter fun i => bit (act s (pulseK n i 0)) 31).map fun i => (i, false)
  modFf n (fun f => { f with pulses := f.pulses.filter (·.2) ++ new }) s
/-- Replace the first member of a list that meets a test. -/
def mapFirst {α : Type} (p : α → Bool) (f : α → α) : List α → List α
  | [] => []
  | x :: xs => if p x then f x :: xs else x :: mapFirst p f xs
/-- A pulse reaches its START (R331). -/
def pulseBegin (n k : Nat) (s : State) : State :=
  if (ffP s n).pulses.contains (k, false) then
    let open_ := ffRank s n == 5
    let was := ffGate s n
    let s := modFf n (fun f => { f with pulses := mapFirst (· == (k, false)) (fun _ => (k, true)) f.pulses, wait := f.wait && !open_ }) s
    let b := n / 12
    if ffGate s n && !was then
      pinRefusals 5 ((List.range 32).map (32 * b + ·) |>.filter fun p => 12 * b + p % 32 % 12 == n) 0x04 n s else s
  else s
/-- A pulse reaches START plus WIDTH (R331). -/
def pulseEnd (n k : Nat) (s : State) : State :=
  modFf n (fun f => { f with pulses := f.pulses.erase (k, true) }) s

/-! ## Urgent requests (R343) -/

/-- Local input l of converter t as a resource index (R338). -/
def supIdx (t l : Nat) : Nat := if l < 8 then 8 * t + l else 64 + 8 * t + (l - 8)
/-- Modify the supervisory converters. -/
def modSup (f : SupSt → SupSt) (s : State) : State := { s with sup := f s.sup }
/-- SUPV.IN register. -/
def ink (i off : Nat) : RKey := ⟨.supIn, i, off⟩
/-- A differential input, and the odd input of a pair, which has no conversions of its own (R339). -/
def supDiff (s : State) (i : Nat) : Bool := rb s (ink i 4) 0
def supOdd (s : State) (i : Nat) : Bool := decide (i < 64) && i % 2 == 1 && supDiff s (i - 1)
/-- Sequenced and urgent conversions in progress, as converters (R340, R344). -/
def supRunning (s : State) : List Nat :=
  match s.sup.urg, s.sup.slot with
  | some u, _ => (u.filter fun r => !supOdd s (supIdx r.conv r.loc)).map (·.conv)
  | none, some k => (List.range 8).filter fun t =>
      nget 0 s.sup.map (32 * t + k) != 0 && !supOdd s (supIdx t (nget 0 s.sup.map (32 * t + k) - 1))
  | none, none => []
/-- Conversions in progress are aborted (R112, R344). -/
def supAbortConv (s : State) : State := forEach (supRunning s) (fun t s => ledAdd 8 t 2 1 (ledAdd 8 t 0 1 s)) s
/-- Each converter serves at most one pending request in an urgent slot, in the order of R344. -/
def supPick (s : State) : List SupReq :=
  (List.range 8).filterMap fun t => (List.range 3).findSome? fun k => s.sup.pend.find? fun r => r.conv == t && r.src == k
/-- An urgent slot begins (R344 step 2). -/
def supUrgentSlot (s : State) : State :=
  let u := supPick s
  modSup (fun x => { x with urg := some u, slot := none, at_ := s.tb, pend := x.pend.filter fun r => !u.contains r }) s
/-- The converters may run (R342). -/
def supMay (s : State) : Bool :=
  rb s ⟨.supv, 0, 0⟩ 8 && !standby s && s.step1 && !s.por && !s.rstn && !s.pfail
/-- An urgent request becomes pending, or merges (R343, R344). A round is aborted unless it is protected and PROTECT
is 1 now. The odd input of a differential pair has no conversions, so a request of it is taken without effect (R339). -/
def supRequest (r : SupReq) (s : State) : State :=
  if r.src == 1 && supOdd s (supIdx r.conv r.loc) then s
  else if s.sup.pend.any (fun x => x.conv == r.conv && x.src == r.src) then incR (cvk r.conv 0x14) s else
  let s := modSup (fun x => { x with pend := x.pend ++ [r] }) s
  if s.sup.urg.isSome then s
  else if s.sup.slot.isSome then
    if s.sup.prot && rb s ⟨.supv, 0, 0⟩ 9 then s else
    let s := supAbortConv s
    let s := forEach (List.range 8) (fun t s => incR (cvk t 0xC) s) s
    supUrgentSlot (modSup (fun x => { x with guard := true }) s)
  else if supMay s || (!standby s && s.step1) then supUrgentSlot s else s

/-! ## Trip comparators (R333–R337) -/

/-- The raw output of a comparator (R333). -/
def rawOf (s : State) (n : Nat) : Bool := rb s (cpk n 8) 0
/-- Clear a comparator latch. -/
def latchClear (n : Nat) (s : State) : State :=
  if rb s (cpk n 8) 1 then
    causeOff (0x100 + 16 * (n / 12) + 9) (some (n % 12)) (ffBlock n (setB (cpk n 8) 1 false s)) else s
/-- The comparator latch is set (R334, R337), by the high threshold (1) or the low one (2). FOLLOW switches the shadow
input of the converter first, to the lowest local position of the ports that trip at one instant. -/
def compTrip (n c : Nat) (s : State) : State :=
  let t := n / 12
  if rb s (cpk n 8) 1 then s else
  let s := wr (cpk n 0x14) (hi32 s.tb) (wr (cpk n 0x10) (lo32 s.tb) (incR (cpk n 0xC) (setF (cpk n 8) 3 2 c (setB (cpk n 8) 1 true s))))
  let s := ffBlock n s
  let s := causeOn (0x100 + 16 * t + 9) (some (n % 12)) (0x10 + t) (ownerOf s 0x04 n) 0 s
  let first := (tile s t).tripAt != some s.tb || decide (n % 12 < rf s (tk t 0x310) 3 0)
  let s := if rb s (tk t 0x310) 4 && first then
    modTile t (fun x => { x with tripAt := some s.tb }) (setF (tk t 0x310) 3 0 (n % 12) s) else s
  if rb s (cpk n 0) 7 then
    if ownerOf s 0x04 n == ownerOf s 0x09 (supIdx t 14) then supRequest ⟨t, 0, 14, none, none, false, none⟩ s
    else refuse (ownerOf s 0x04 n) (0x10 + t) s
  else s
/-- The window comparator judges the level of FF_SNS (R333): each enabled threshold sets its output when the level
passes it, and ends it past the hysteresis. A threshold code stands for code × 500 units of 1/341 mV. The latch is set
as the raw output becomes active. -/
def compEval (n : Nat) (s : State) : State :=
  let x := ffP s n
  let h : Int := 341 * ([0, 4, 16, 48].getD (rf s (cpk n 0) 5 4) 0)
  let vhi : Int := 500 * rf s (cpk n 4) 25 16
  let vlo : Int := 500 * rf s (cpk n 4) 9 0
  let hi := rb s (cpk n 0) 0 && rb s (cpk n 0) 1 && (decide (vhi < x.sns) || (x.hi && decide (vhi - h ≤ x.sns)))
  let lo := rb s (cpk n 0) 0 && rb s (cpk n 0) 2 && (decide (x.sns < vlo) || (x.lo && decide (x.sns ≤ vlo + h)))
  let was := rawOf s n
  let s := setB (cpk n 8) 0 (hi || lo) (modFf n (fun f => { f with hi := hi, lo := lo }) s)
  if (hi || lo) && !was then compTrip n (if hi then 1 else 2) s else s
/-- FF_SNS of a port comes to a level. -/
def compLevel (n : Nat) (level : Int) (s : State) : State := compEval n (modFf n (fun f => { f with sns := level }) s)
/-- With LMODE = 1 the latch clears at the port's line start, if the raw output is inactive (R334). -/
def latchLine (n : Nat) (s : State) : State :=
  if rb s (cpk n 8) 1 && rb s (cpk n 0) 6 then
    if rawOf s n then s else latchClear n s
  else s
/-- A line start of the channel that serves head Hn reaches port n (R331, R334). -/
def portLine (n : Nat) (s : State) : State := pulsesStart n (latchLine n s)
/-- TRIP_N of a tile falls, or rises (R335, R337). -/
def tripLow (t : Nat) (s : State) : State :=
  let s := satF (tk t 0x30C) 31 16 (setF (tk t 0x30C) 1 0 3 s)
  let s := forEach (tilePorts t) ffBlock s
  causeOn (0x100 + 16 * t + 0xA) none (0x10 + t) 0 0 s
def tripHigh (t : Nat) (s : State) : State :=
  let s := setB (tk t 0x30C) 0 false s
  if rb s (tk t 0x30C) 1 then s else causeOff (0x100 + 16 * t + 0xA) none s
/-- FFTRIP.LATCH of a tile is cleared, where it is set (R336). -/
def tripClear (t : Nat) (s : State) : State :=
  if !rb s (tk t 0x30C) 1 then s else
  causeOff (0x100 + 16 * t + 0xA) none (forEach (tilePorts t) ffBlock (setB (tk t 0x30C) 1 false s))

/-! ## Release (R91, R329) -/

/-- The FF, CMPW and SGEN registers of a port at reset values but for its non-volatile value and its code,
its queue empty (R329); SC and COMPL stay what they are while the stage reports them (R330). -/
def ffRelease (n : Nat) (s : State) : State :=
  let s := latchClear n (ffFlush n (ffOff n s))
  let flags := rd s (ffk n 0xC) &&& 0xA
  let s := forEach [4, 8, 0xC, 0x10, 0x18, 0x1C, 0x20] (fun o s => rstR (ffk n o) s) s
  let s := wr (ffk n 0xC) flags s
  let s := forEach [0, 4, 8, 0xC, 0x10, 0x14] (fun o s => rstR (cpk n o) s) s
  let s := forEach [0, 4, 8, 0xC, 0x10, 0x14, 0x18, 0x1C, 0x44, 0x48] (fun o s => setAct (sgk n o) (rstVal (sgk n o)) (rstR (sgk n o) s)) s
  let s := modFf n (fun f => { f with base := 0, baseSrc := 0, pulses := [], wait := true, dark := none, hi := false, lo := false }) s
  setB (tk (n / 12) 0x308) (n % 12) false s

end Sys2Proof.Machine
end

