-- ==== Sys2Proof/Machine/Records.lean ====
section
/-! DEFINITION. Where records go: record rings (R282, R283), stream ports (R284–R290), hard taps
(R360–R362), and the stitcher's output to rings, streams, taps and rules. -/

namespace Sys2Proof.Machine

/-! ## Record rings -/

/-- RRING register. -/
def rrk (p off : Nat) : RKey := ⟨.rring, p, off⟩
/-- Slots of a ring. -/
def ringSlots (s : State) (p : Nat) : Nat := 256 * rf s (rrk p 0) 28 20
/-- A page of a ring is not the partition's any more (R283). -/
def ringLost (s : State) (p : Nat) : Bool :=
  (List.range (rf s (rrk p 0) 28 20)).any fun i => ownerOf s 0x0E (rf s (rrk p 0) 19 8 + i) != p
/-- Write one 16-byte record to a partition's ring (R282, R283). -/
def ringWrite (p unit : Nat) (ws : List Word) (s : State) : State :=
  if !rb s (rrk p 0) 0 then s else
  let w := rf s (rrk p 4) 19 0
  if (w + 1) % max 1 (ringSlots s p) = rf s (rrk p 8) 19 0 then incR (rrk p 0xC) s else
  let page := rf s (rrk p 0) 19 8 + w / 256
  if ringLost s p then refuse p unit (setB (rrk p 0) 0 false s)
  else setF (rrk p 4) 19 0 ((w + 1) % max 1 (ringSlots s p)) (putMemW (page * 4096 + 16 * (w % 256)) ws s)

/-! ## Stream ports -/

/-- Stream port register. -/
def stk (k off : Nat) : RKey := ⟨.strm, k, off⟩
/-- A stream port. -/
def strm (s : State) (k : Nat) : Strm := vget s.strms k
/-- Modify a stream port. -/
def modStrm (k : Nat) (f : Strm → Strm) (s : State) : State := { s with strms := vmod s.strms k f }
/-- A port transmits: role STREAM and SCFG.EN. -/
def strmOn (s : State) (k : Nat) : Bool := roleOf s k == 2 && rb s (stk k 0) 0
/-- Bytes of line blocks and of records held (R288). -/
def lbBytes (x : Strm) : Nat := (x.lbs.map fun b => b.size - 4 * b.sent).sum
def recBytes (x : Strm) : Nat := (x.recs.map fun r => 4 * r.2.length).sum
/-- BUF.PEAKK follows the fill. -/
def strmPeak (k : Nat) (s : State) : State :=
  setF (stk k 0x20) 31 18 (max (rf s (stk k 0x20) 31 18) ((lbBytes (strm s k) + recBytes (strm s k)) / 1024)) s
/-- A record for a port, of frame kind 2 REC or 3 STAT (R289). -/
def strmRec (k kind : Nat) (ws : List Word) (s : State) : State :=
  if recBytes (strm s k) + 4 * ws.length ≤ 32768 then
    strmPeak k (modStrm k (fun x => { x with recs := x.recs ++ [(kind, ws)] }) s)
  else incR (stk k (if kind = 3 then 0x34 else 0x30)) s
/-- The transmitting port with bit `i` of SCFG set, or with head `h` in a head set. -/
def portWith (s : State) (i : Nat) : Option Nat := (List.range 8).find? fun k => strmOn s k && rb s (stk k 0) i
def portOfHead (s : State) (base h : Nat) : Option Nat :=
  (List.range 8).find? fun k => strmOn s k && rb s (stk k (base + 4 * (h / 32))) (h % 32)
/-- Zone records with STRM = 1 go to the port with ZSTRM (R290). -/
def strmZone (ws : List Word) (s : State) : State :=
  match portWith s 6 with | some k => strmRec k 3 ws s | none => s

/-- The bytes of a line block (R279). -/
def blockBytes (ormap : Bool) (m : Nat) : Nat := 16 + (2 * m + 15) / 16 * 16 + (if ormap then (m + 127) / 128 * 16 else 0)
/-- The paths a port sends. -/
def portPaths (s : State) (k : Nat) : List Bool := (if rb s (stk k 0) 3 then [false] else []) ++ (if rb s (stk k 0) 4 then [true] else [])
/-- Admission of a line's blocks at its start (R288): whether the line is dropped, and where its blocks are held. -/
def strmAdmit (h num m : Nat) (s : State) : (Bool × Option (Nat × Nat)) × State :=
  match portOfHead s 8 h with
  | none => ((false, none), s)
  | some k =>
    let ps := portPaths s k
    let sz := blockBytes (rb s (stk k 0) 5) m
    let id := (strm s k).lines
    if ps.isEmpty then ((false, none), s)
    else if lbBytes (strm s k) + sz * ps.length ≤ 229376 then
      ((false, some (k, id)), strmPeak k (modStrm k (fun x =>
        { x with lines := id + 1, lbs := x.lbs ++ ps.map fun f => ⟨h, num, f, sz, rb s (stk k 0) 5, none, 0, id⟩ }) s))
    else ((true, none), incR (stk k 0x2C) (setB (stk k 4) 1 true s))

/-- Two 16-bit output words to a word, in order. -/
def pairWords : List Nat → List Word
  | [] => []
  | [a] => [BitVec.ofNat 32 a]
  | a :: b :: r => BitVec.ofNat 32 (a + 65536 * b) :: pairWords r
/-- 32 flags to a word, in order. -/
def flagWords : Nat → List Bool → List Word
  | 0, _ => []
  | n + 1, l => BitVec.ofNat 32 (((l.take 32).zipIdx.map fun x => x.1.toNat * 2 ^ x.2).sum) :: flagWords n (l.drop 32)
/-- Fill words up to a multiple of four. -/
def fill4 (ws : List Word) : List Word := ws ++ List.replicate ((4 - ws.length % 4) % 4) 0
/-- The words of a line block (R279); `obin` for offset binary (FMT). -/
def blockWords (l : Line) (fast ormap obin : Bool) (os : List OutW) : List Word :=
  let m := os.length
  let orc := (os.filter (·.orr)).length
  let code (y : Int) : Nat := ((if obin then y + 32768 else y) % 65536).toNat
  let hdr := [BitVec.ofNat 32 (8 + 16 * l.head + 2048 * l.epoch + 32768 * fast.toNat + 65536 * (l.num % 65536)),
    BitVec.ofNat 32 (l.num / 65536),
    BitVec.ofNat 32 (m + 32768 * obin.toNat + 65536 * (os.filter (·.settle)).length),
    BitVec.ofNat 32 ((os.filter (·.edge)).length + 32768 * ormap.toNat + 65536 * l.unsync.toNat + 131072 * orc)]
  hdr ++ fill4 (pairWords (os.map fun o => code o.y)) ++
    (if ormap then flagWords ((m + 127) / 128 * 4) (os.map (·.orr)) else [])
/-- The blocks of a line take their words as the line ends (R286). -/
def strmFill (l : Line) (obin : Bool) (fine fast : List OutW) (s : State) : State :=
  match l.lb with
  | none => s
  | some p => modStrm p.1 (fun x => { x with lbs := x.lbs.map fun b =>
      if b.id == p.2 && b.words.isNone then
        { b with words := some (blockWords l b.fast b.ormap obin (if b.fast then fast else fine)) } else b }) s

/-- The words of a frame (R285): header, payload, CRC-32 over the six header bytes and the payload. -/
def frameWords (kind : Nat) (first last : Bool) (seq : BitVec 32) (pay : List Word) : List Word :=
  let w0 := BitVec.ofNat 32 (kind + 16 * first.toNat + 32 * last.toNat + 256 * (pay.length / 4) + 65536 * (seq.toNat % 65536))
  let w1 := BitVec.ofNat 32 (seq.toNat / 65536)
  w0 :: w1 :: pay ++ [crc32 (wordBytes w0 ++ (wordBytes w1).take 2 ++ pay.flatMap wordBytes)]
/-- Whole records of one kind from the front of a list, up to 128 words. -/
def takeRecs (kind : Nat) : Nat → List (Nat × List Word) → List Word
  | _, [] => []
  | room, r :: rs => if r.1 = kind && decide (r.2.length ≤ room) then r.2 ++ takeRecs kind (room - r.2.length) rs else []
/-- How many records `takeRecs` takes. -/
def takeCount (kind : Nat) : Nat → List (Nat × List Word) → Nat
  | _, [] => 0
  | room, r :: rs => if r.1 = kind && decide (r.2.length ≤ room) then takeCount kind (room - r.2.length) rs + 1 else 0
/-- A frame goes out, ended by two idle blocks or more (R285): it spends a credit (R110, R287). -/
def frameOut (k kind : Nat) (first last : Bool) (pay : List Word) (s : State) : State :=
  let s := emit (.frame k (frameWords kind first last (strm s k).seq pay)) s
  let r := takeFree s
  let s := emit (.idle k (2 + r.1.toNat)) r.2
  let s := modStrm k (fun x => { x with seq := x.seq + 1, spent := x.spent + 1 }) s
  ledSub 6 k 2 1 (ledAdd 6 k 1 1 (incR (stk k 0x3C) s))
/-- The oldest line block whose line has ended and whose head has no older block left (R286); `hs` holds the heads of
the blocks before. -/
def lbReady (hs : List Nat) : List LBlock → Option LBlock
  | [] => none
  | b :: bs => if b.words.isSome && !hs.contains b.head then some b else lbReady (b.head :: hs) bs
/-- A port starts its next frame, if one is whole and a credit is available (R285, R286): records first, in
the order they reached the port, then the oldest line block that may leave. Between two credit blocks at most 65,535
credits are spent (R287). -/
def frameSend (k : Nat) (s : State) : State :=
  if !strmOn s k || !rb s (stk k 4) 0 || ledGet s 6 k 2 = 0 || 65535 ≤ (strm s k).spent then s else
  match (strm s k).recs with
  | (kind, _) :: _ =>
    let rs := (strm s k).recs
    let pay := takeRecs kind 128 rs
    frameOut k kind true true pay (modStrm k (fun x => { x with recs := x.recs.drop (takeCount kind 128 rs) }) s)
  | [] =>
    match ((strm s k).lbs.find? fun b => b.sent != 0), lbReady [] (strm s k).lbs with
    | some b, _ => lbFrame k b s
    | none, some b => lbFrame k b s
    | none, none => s
where
  /-- The next LINE frame of a block. -/
  lbFrame (k : Nat) (b : LBlock) (s : State) : State :=
    let ws := b.words.getD []
    let pay := (ws.drop b.sent).take 128
    let done := decide (ws.length ≤ b.sent + 128)
    let same (c : LBlock) : Bool := c.id == b.id && c.fast == b.fast
    let s := modStrm k (fun x =>
      let rest := if done then x.lbs.filter (fun c => !same c)
        else x.lbs.map (fun c => if same c then { c with sent := c.sent + 128 } else c)
      { x with lbs := rest }) s
    frameOut k 1 (b.sent == 0) done pay (if done then incR (stk k 0x28) s else s)

/-- A credit block on the reverse lane (R287): the total G, and its CRC-16 over the four bytes of G. -/
def creditBlock (k : Nat) (w0 w1 : Word) (s : State) : State :=
  if roleOf s k != 2 then s
  else if crc16 (wordBytes w0) != w1.extractLsb' 0 16 then incR (stk k 0x38) s
  else
    let x := strm s k
    let n := if x.lost then 0 else (w0 - x.gLast).toNat
    let s := modStrm k (fun x => { x with lost := false, gLast := w0, spent := 0 }) s
    ledAdd 6 k 2 n (ledAdd 6 k 0 n (setB (stk k 4) 0 true s))
/-- The reverse lane is lost (R284, R287). -/
def strmDown (k : Nat) (s : State) : State :=
  if roleOf s k != 2 then s else setB (stk k 4) 0 false (modStrm k (fun x => { x with lost := true }) s)

/-! ## Hard taps (R360–R362) -/

/-- FAB register. -/
def fbk (r off : Nat) : RKey := ⟨.fab, r, off⟩
/-- STATE of a region (R354). -/
def regionState (s : State) (r : Nat) : Nat := rf s (fbk r 0) 2 0
/-- Depth of a tap in words. -/
def tapDepth : Nat → Nat
  | 0 => 32768 | 1 => 1024 | _ => 768
/-- A tap word: its tag and 32 bits (R361). -/
def tapWord (tag : Nat) (w : Word) : BitVec 36 := BitVec.ofNat 36 (tag * 2 ^ 32 + w.toNat)
/-- Offer a unit to a tap. What a running design has read by now is its own matter: that many words are open;
a stopped region has read nothing. The source is refused where its owner is not the region's (R94). -/
def tapOffer (r t drop : Nat) (own : Bool) (ws : List (BitVec 36)) (s : State) : State :=
  if regionState s r != 3 && regionState s r != 4 then s
  else if !own then refuse (ownerOf s 0x0B r) (0x38 + r) s
  else
    let fr := takeFree s
    let held := nget 0 s.taps (4 * r + t)
    let held := if regionState s r = 3 then fr.1.toNat % (held + 1) else held
    let s := if regionState s r = 3 then fr.2 else s
    if tapDepth t < held + ws.length then incR (fbk r drop) { s with taps := nput 0 s.taps (4 * r + t) held }
    else emit (.tap r t ws) { s with taps := nput 0 s.taps (4 * r + t) (held + ws.length) }
/-- A record leaves the stitcher towards its tile's record tap. -/
def tapRecord (r : EvRec) (s : State) : State :=
  let g := r.tag.head / 12
  if rb s (fbk g 0x80) 12 then tapOffer g 1 0xC0 (ownerOf s 0x03 r.tag.head == ownerOf s 0x0B g) ((evWords r).map (tapWord 4)) s else s
/-- A token reaches the token tap of a tile's region. -/
def tapToken (t : Nat) (k : Token) (s : State) : State :=
  if rb s (fbk t 0x80) (16 + k.gen) then
    tapOffer t 2 0xC4 (ownerOf s 0x07 k.gen == ownerOf s 0x0B t)
      [tapWord 5 (BitVec.ofNat 32 (k.gen + 16 * (k.count % 2 ^ 28))), tapWord 6 (BitVec.ofNat 32 (k.count / 2 ^ 28)),
       tapWord 6 (BitVec.ofNat 32 k.pos.toNat)] s
  else s

/-- The source code that a net selects (R357): by SEL, or with SELFAB = 1 by the design, which is open. -/
def netSource (r i : Nat) (s : State) : Nat × State :=
  let w := rd s (fbk r (0x10 + 4 * i))
  let src (j : Nat) : Nat := fld w (5 * j + 4) (5 * j)
  if bit w 22 then let f := takeFree s; (src (f.1.toNat % 4), f.2) else (src (fld w 21 20), s)
/-- CLKSTOP has stopped the nets of a region, but for those still high (R371). -/
def stopping (s : State) (r : Nat) : Bool := s.clkstop.any fun x => x.1 == r
/-- The nets of a region run (R354). -/
def netsRun (s : State) (r : Nat) : Bool := regionState s r == 2 || (regionState s r == 3 && !stopping s r)
/-- A source code gives a region nothing (R357): none, or one whose condition fails. -/
def srcDead (s : State) (r c : Nat) : Bool :=
  c == 0 || ((c == 3 || c == 4) && (ownerOf s 0x0A (32 * r + 16 * (c - 3)) != ownerOf s 0x0B r || rf s (pinK (32 * r + 16 * (c - 3))) 3 0 != 1)) ||
    (decide (0x10 ≤ c) && ownerOf s 0x07 (c - 0x10) != ownerOf s 0x0B r)
/-- The nets that are held low for want of a source: with SELFAB = 1 those that none of their four can drive. -/
def deadNets (s : State) (r : Nat) : BitVec 8 :=
  (List.range 8).foldl (fun m i =>
    let w := rd s (fbk r (0x10 + 4 * i))
    let js := if bit w 22 then [0, 1, 2, 3] else [fld w 21 20]
    if js.all (fun j => srcDead s r (fld w (5 * j + 4) (5 * j))) then m ||| BitVec.ofNat 8 (2 ^ i) else m) 0
/-- A token pulse at the nets of its tile's region (R357). A net that runs and selects the pulse of a generator
that the region's owner does not own is held low, and refused (R94). -/
def netToken (t : Nat) (k : Token) (s : State) : State :=
  forEach (List.range 8) (fun i s =>
    if !netsRun s t then s else
    let x := netSource t i s
    if x.1 == 0x10 + k.gen && ownerOf s 0x07 k.gen != ownerOf s 0x0B t then refuse (ownerOf s 0x0B t) (0x38 + t) x.2
    else x.2) s
/-- A net that runs and selects a pin which the region's owner does not own, or which is not set to function 1, is
held low and refused (R94, R357). Such a source has no edge of its own in the model: it is judged as the nets begin to
run and as CLKNET is written; DESIGN CHOICE, log entry 113. -/
def netPin (r i : Nat) (s : State) : State :=
  if !netsRun s r then s else
  let x := netSource r i s
  let p := 32 * r + 16 * (x.1 - 3)
  if (x.1 == 3 || x.1 == 4) && (ownerOf s 0x0A p != ownerOf s 0x0B r || rf s (pinK p) 3 0 != 1) then
    refuse (ownerOf s 0x0B r) (0x38 + r) x.2
  else x.2
/-- A pin set to fabric I/O whose region another partition owns does not drive, and is refused each time the design
would drive it (R94, R396). That the design does is open, at each nanosecond; DESIGN CHOICE, log entry 113. -/
def fabPin (p : Nat) (s : State) : State :=
  let r := p / 32
  let m := rf s (pinK p) 3 0
  if (m == 1 || decide (8 ≤ m)) && (regionState s r == 3 || regionState s r == 4) && ownerOf s 0x0A p != ownerOf s 0x0B r then
    let f := takeFree s
    if f.1.getLsbD 0 then refuse (ownerOf s 0x0B r) (0x38 + r) f.2 else f.2
  else s

/-! ## The stitcher's output -/

/-- A record leaves the stitcher: to its owner's ring, a stream port, the record tap and the rules
(R262, R266, R282, R286). -/
def recordOut (r : EvRec) (s : State) : State :=
  let ws := evWords r
  let s := ringWrite (ownerOf s 0x03 r.tag.head) 0x26 ws s
  let s := match portOfHead s 0x14 r.tag.head with | some k => strmRec k 2 ws s | none => s
  matchRules r (tapRecord r s)
/-- Every record that an operation of the stitcher lets go. -/
def recordsOut (x : State × List EvRec) : State := forEach x.2 recordOut x.1

end Sys2Proof.Machine
end

