-- ==== Sys2Proof/Machine/Paq.lean ====
section
/-! DEFINITION. The position action queue (R292–R306). -/

namespace Sys2Proof.Machine

/-- PAQ register. -/
def pqk (off : Nat) : RKey := ⟨.paq, 0, off⟩
/-- Entries of a partition that are pending. -/
def pendingOf (s : State) (p : Nat) : Nat := (s.paq.filter fun e => e.owner == p).length
/-- The position of an axis as the queue observes it (R297). -/
def obsPos (s : State) (a : Nat) : BitVec 48 := vget s.obs a
/-- How far a key lies ahead of the observed position (R125, R296). -/
def ahead (s : State) (a : Nat) (key : BitVec 48) : Int := sdiff key (obsPos s a)

/-- Reserved encodings of the action words (R293): a TYPE or TARGET not listed, a PULSE of no width, a RECORD
to nowhere. Reserved bits do not matter (R19). -/
def actBad (a0 a1 : Word) : Bool :=
  let g := fld a0 14 8
  match fld a0 3 0 with
  | 1 => decide (31 < g) || fld a1 15 0 == 0
  | 2 => g != 0 || fld a1 1 0 == 0
  | 3 => decide (7 < g)
  | 4 => decide (95 < g)
  | 5 => decide (15 < g)
  | _ => true

/-- The resource that an action names, by class and index (R305). -/
def actTarget (a0 : Word) : Option (Nat × Nat) :=
  match fld a0 3 0 with
  | 3 => some (0x0B, fld a0 14 8)
  | 4 => some (0x04, fld a0 14 8)
  | 5 => some (0x07, fld a0 14 8)
  | _ => none

/-- PULSE: marker line `k` goes active for its entry's owner, whose pins show it while they select it: the later end of
two (R294, R397). A pin of another owner that selects the line now is refused; DEDUCED, log entry 126. -/
def doPulse (o k width : Nat) (s : State) : State :=
  let i := 32 * o + k % 32
  let s := { s with markers := nput 0 s.markers i (max (nget 0 s.markers i) (s.tb + 10 * width)) }
  forEach ((List.range 8).map (32 * · + k % 32)) (fun p s =>
    if pinCarries s p 3 && ownerOf s 0x0A p != o then refuse o 0x24 s else s) s
/-- A pulse of trigger output `g` of a given width in units of 10 ns (R294, R391). -/
def doTrigger (g width : Nat) (s : State) : State :=
  let e := s.tb + 10 * width
  let s := modGen g (fun x => { x with pulseEnd := some (match x.pulseEnd with | some o => max o e | none => e) }) s
  pinRefusals 2 ((List.range 256).filter fun p => p % 32 % 16 == g) 0x07 g s
/-- DAC: the port takes the code at its next update edge, unless a higher rank of R321 drops it. -/
def doDac (n code : Nat) (s : State) : State :=
  if ffSafed s n || (ffP s n).dark.isSome then s else modFf n (fun f => { f with dac := some code }) s
/-- The words of an action record (R280). -/
def actWords (s : State) (e : Entry) (late : Bool) : List Word :=
  [BitVec.ofNat 32 (0xA + 16 * e.owner + 65536 * fld e.act0 31 16), BitVec.ofNat 32 e.key.toNat,
   BitVec.ofNat 32 (e.key.toNat / 2 ^ 32 + 65536 * e.axis + 524288 * late.toNat), lo32 s.tb]
/-- RECORD: to the owner's ring, and to the stream port with ACTREC (R294). -/
def doRecord (e : Entry) (late : Bool) (s : State) : State :=
  let ws := actWords s e late
  let s := if bit e.act1 0 then ringWrite e.owner 0x24 ws s else s
  if bit e.act1 1 then match portWith s 7 with | some k => strmRec k 2 ws s | none => s else s
/-- FABRIC: EVENT, TAG and key to the action tap of region `r` (R294, R361). -/
def doFabric (e : Entry) (r : Nat) (s : State) : State :=
  if rb s (fbk r 0x80) 13 then
    tapOffer r 3 0xC8 true [tapWord 0xA e.act1, tapWord 0xB (BitVec.ofNat 32 (fld e.act0 31 16 + 65536 * e.axis)),
      tapWord 0xC (BitVec.ofNat 32 (e.key.toNat / 65536))] s
  else s
/-- The effect of an entry, where its owner owns the target (R94, R294). A rule's template of a reserved
encoding drives nothing. -/
def actEffect (e : Entry) (late : Bool) (s : State) : State :=
  let g := fld e.act0 14 8
  if actBad e.act0 e.act1 then s else
  match fld e.act0 3 0 with
  | 1 => doPulse e.owner g (fld e.act1 15 0) s
  | 2 => doRecord e late s
  | 3 => if ownerOf s 0x0B g == e.owner then doFabric e g s else refuse e.owner 0x24 s
  | 4 => if ownerOf s 0x04 g == e.owner then doDac g (fld e.act1 13 0) s else refuse e.owner 0x24 s
  | _ => if ownerOf s 0x07 g == e.owner then
           doTrigger g (if fld e.act1 7 0 = 0 then rf s (gk g 0x2C) 15 8 else fld e.act1 7 0) s
         else refuse e.owner 0x24 s
/-- An entry executes: it leaves the queue, counts as executed or late, and has its effect (R294, R299, R301). -/
def execEntry (e : Entry) (s : State) : State :=
  let s := { s with paq := s.paq.erase e }
  actEffect e e.late (ledSub 3 e.owner 6 1 (ledAdd 3 e.owner (if e.late then 2 else 1) 1 s))

/-- Insertion of an entry into a list kept in ascending distance, equal ones in order (R299). -/
def insByKey (d : Entry → Int) (e : Entry) : List Entry → List Entry
  | [] => [e]
  | x :: xs => if d e < d x then e :: x :: xs else x :: insByKey d e xs
/-- Entries in execution order: execute-late ones first, then ascending key, then insertion order. -/
def execOrder (s : State) (es : List Entry) : List Entry :=
  es.filter (·.late) ++ (es.filter fun e => !e.late).foldl (fun l e => insByKey (fun x => ahead s x.axis x.key) e l) []
/-- The entries of an axis that are due at the observed position. -/
def dueOn (s : State) (a : Nat) : List Entry := s.paq.filter fun e => e.axis == a && (e.late || decide (ahead s a e.key ≤ 0))
/-- The observed position of an axis comes to its position; after a forward change what is due executes
(R297, R300). In a pause nothing executes (R302). -/
def observe (a : Nat) (s : State) : State :=
  let fwd := decide (0 < sdiff (axis s a).pos (obsPos s a))
  let s := { s with obs := vset s.obs a (axis s a).pos }
  if fwd && !s.paused then forEach (execOrder s (dueOn s a)) execEntry s else s

/-- An insert is refused as it leaves the buffer (R108, R296). -/
def insRefused (i : Insert) (reg st code : Nat) (s : State) : State :=
  let s := ledAdd 3 i.owner 7 1 (incR (pqk reg) s)
  match i.cmd with
  | some w => { firstReply w.q st w.tag w.notify [detail (if st = 0x0B then 1 else 0) code] s with insWait := s.insWait.erase w }
  | none => s
/-- A waiting ACT_INSERT is told that its entry is accepted (R305). -/
def insReply (i : Insert) (done : Bool) (s : State) : State :=
  match i.cmd with
  | some w => { firstReply w.q 0 w.tag w.notify [BitVec.ofNat 32 done.toNat] s with insWait := s.insWait.erase w }
  | none => s
/-- An entry is accepted and counts as inserted (R296). -/
def insAccept (i : Insert) (late : Bool) (s : State) : State :=
  let e : Entry := ⟨i.axis, i.key, i.act0, i.act1, i.act2, i.owner, i.execLate, late, s.paused⟩
  let s := ledAdd 3 i.owner 6 1 (ledAdd 3 i.owner 0 1 { s with paq := s.paq ++ [e] })
  let s := setF (pqk 0xC) 17 0 (max (rf s (pqk 0xC) 17 0) s.paq.length) s
  if late && !rb s (ak i.axis 0x10) 4 && !s.paused then insReply i true (execEntry e s) else insReply i false s
/-- The fate of an insert as it leaves the buffer (R296). -/
def insertFate (i : Insert) (s : State) : State :=
    if rf s ⟨.part, 0, 0x200 + 4 * i.owner⟩ 17 0 ≤ pendingOf s i.owner then insRefused i 0x18 0x0C 0x80 s
    else if 131072 ≤ s.paq.length then insRefused i 0x1C 0x0C 0x81 (setB (pqk 4) 3 true s)
    else if ahead s i.axis i.key ≤ 0 then
      if i.execLate then insAccept i true s else insRefused i 0x20 0x0B 0 s
    else insAccept i false s
/-- The queue takes one insert from the buffer (R296), and an action rule that waits for its place goes on (R295). -/
def insertTake (s : State) : State :=
  match s.insBuf with
  | [] => s
  | i :: is => rulesGoOn (insertFate i { s with insBuf := is })

/-- Entries are removed, counted in a term of their owners. -/
def removeEntries (p : Entry → Bool) (term : Nat) (s : State) : State :=
  let gone := s.paq.filter p
  forEach gone (fun e s => ledSub 3 e.owner 6 1 (ledAdd 3 e.owner term 1 s)) { s with paq := s.paq.filter fun e => !p e }
/-- The queue pauses (R302). -/
def paqPause (s : State) : State := { s with paused := true }
/-- The entries whose keys the position has reached, in ascending key and insertion order (R299, R302). -/
def reached (s : State) : List Entry :=
  (s.paq.filter fun e => decide (ahead s e.axis e.key ≤ 0)).foldl (fun l e => insByKey (fun x => ahead s x.axis x.key) e l) []
/-- The queue leaves its pause, and PAUSEPOL handles what is reached (R302): executed, or removed but for late entries
accepted in the pause. DEDUCED: a late entry whose key reverse motion has left unreached again is not handled then;
it waits for the next forward change (R301). -/
def paqResume (s : State) : State :=
  if !s.paused then s else
  let due := reached s
  let gone (e : Entry) : Bool := rb s (pqk 0) 0 && !(e.late && e.fresh)
  let cut := due.filter gone
  let s := { s with paused := false, paq := s.paq.filter fun e => !cut.contains e }
  let s := forEach cut (fun e s => ledSub 3 e.owner 6 1 (ledAdd 3 e.owner 3 1 s)) s
  let s := wr (pqk 0x28) (rd s (pqk 0x28) + BitVec.ofNat 32 cut.length) s
  let go := due.filter fun e => !gone e
  let s := if rb s (pqk 0) 0 then s else wr (pqk 0x24) (rd s (pqk 0x24) + BitVec.ofNat 32 go.length) s
  let s := forEach go execEntry s
  { s with paq := s.paq.map fun e => { e with fresh := false } }

/-- The selector of ACT_CANCEL and ACT_QUERY (R306). -/
def selects (w : Nat → Word) (e : Entry) : Bool :=
  let lo := BitVec.ofNat 48 ((w 2).toNat + 2 ^ 32 * fld (w 3) 15 0)
  let hi := BitVec.ofNat 48 ((w 4).toNat + 2 ^ 32 * fld (w 5) 15 0)
  e.owner == fld (w 0) 4 0 && ((fld e.act0 31 16 ^^^ fld (w 0) 31 16) &&& fld (w 1) 15 0) == 0 &&
  (bit (w 0) 8 || e.axis == fld (w 0) 7 5) && (!bit (w 0) 9 || decide ((e.key - lo).toNat ≤ (hi - lo).toNat))
/-- The entry of a list nearest execution, and farthest from it; the earliest on a tie. -/
def nearestE (s : State) : List Entry → Option Entry
  | [] => none
  | e :: es => match nearestE s es with
    | some x => if ahead s x.axis x.key < ahead s e.axis e.key then some x else some e
    | none => some e
def farthestE (s : State) : List Entry → Option Entry
  | [] => none
  | e :: es => match farthestE s es with
    | some x => if ahead s e.axis e.key < ahead s x.axis x.key then some x else some e
    | none => some e

/-- PART_RESET and RESET_N at the queue (R304): entries lost, buffered inserts refused at insert. -/
def paqLose (p : Nat → Bool) (s : State) : State :=
  let gone := s.insBuf.filter fun i => p i.owner
  let s := forEach gone (fun i s => ledAdd 3 i.owner 7 1 s) { s with insBuf := s.insBuf.filter fun i => !p i.owner }
  rulesGoOn (removeEntries (fun e => p e.owner) 5 s)

end Sys2Proof.Machine
end

