-- ==== Sys2Proof/Machine/Supervisory.lean ====
section
/-! DEFINITION. Supervisory converters (R338–R351): rounds, urgent slots, accumulators, path tests. -/

namespace Sys2Proof.Machine

/-- The converter and local input of a resource index (R338). -/
def supConv (i : Nat) : Nat := if i < 64 then i / 8 else (i - 64) / 8
def supLoc (i : Nat) : Nat := if i < 64 then i % 8 else 8 + (i - 64) % 8
/-- The input that converter t has in slot k (R340, R341). -/
def supSlotOf (s : State) (t k : Nat) : Option Nat := (List.range 16).find? fun l => rb s (ink (supIdx t l) 0) k && !supOdd s (supIdx t l)
/-- A round starts: LEN and SLOTS are read (R341). One that restarts an aborted round is protected where PROTECT is 1
then (R344). -/
def supRound (s : State) : State :=
  let len := rf s ⟨.supv, 0, 0⟩ 5 0
  let m := (List.range 8).flatMap fun t => (List.range 32).filterMap fun k =>
    if k < len then (supSlotOf s t k).map fun l => (32 * t + k, l + 1) else none
  let pr := rb s ⟨.supv, 0, 0⟩ 9
  modSup (fun x => { x with slot := some 0, urg := none, at_ := s.tb, len := len, map := m, prot := x.guard && pr, guard := false, ending := false }) s
/-- Rounds or urgent slots begin where the converters may run and none is in progress (R342). -/
def supKick (s : State) : State :=
  if s.sup.slot.isSome || s.sup.urg.isSome then s
  else if !s.sup.pend.isEmpty && !standby s && s.step1 then supUrgentSlot s
  else if supMay s then supRound s else s
/-- The empty accumulator. -/
def accNew : SupAcc := ⟨0, 0, 0, 0⟩
/-- An input's accumulator. -/
def accOf (s : State) (i : Nat) : SupAcc := spGet (fun _ => accNew) s.sup.accs i
/-- Give an input an accumulator. -/
def putAcc (i : Nat) (a : SupAcc) (s : State) : State := modSup (fun x => { x with accs := spPut id (fun _ => accNew) x.accs i a }) s
/-- Restart an accumulator (R347, R91). -/
def accRestart (i : Nat) (s : State) : State := setB (ink i 8) 0 false (putAcc i accNew s)
/-- The code of a conversion, within its range (R338, R339). -/
def supCode (s : State) (i : Nat) (v : Int) : Int := if supDiff s i then clampInt (-32768) 32767 v else clampInt 0 65535 v
/-- A conversion enters its input's accumulator (R346). -/
def accTake (i : Nat) (v : Int) (s : State) : State :=
  let a := accOf s i
  let c := supCode s i v
  if a.count = 2 ^ 32 - 1 then s else
  let a' : SupAcc := ⟨a.sum + c, a.count + 1, if a.count = 0 then c else min a.mn c, if a.count = 0 then c else max a.mx c⟩
  let s := putAcc i a' s
  if a'.count = 2 ^ 32 - 1 then setB (ink i 8) 0 true s else s
/-- A conversion of converter t is complete (R112). -/
def supDone (t : Nat) (s : State) : State := ledAdd 8 t 1 1 (ledAdd 8 t 0 1 s)

/-- The test DAC has settled for 5 µs: the path test makes its urgent request (R349 step 2). -/
def supSettle (s : State) : State :=
  match s.sup.dac with
  | some (t, r) => if t ≤ s.tb then supRequest r (modSup (fun x => { x with dac := none }) s) else s
  | none => s
/-- A request goes back among the pending ones; a later one of its source and converter merges with it (R343). -/
def supPutBack (r : SupReq) (s : State) : State :=
  let merges (x : SupReq) : Bool := x.conv == r.conv && x.src == r.src
  let s := if s.sup.pend.any merges then incR (cvk r.conv 0x14) s else s
  modSup (fun x => { x with pend := r :: x.pend.filter fun y => !merges y }) s
/-- SUP_URGENT's reply (R349, R350). -/
def supReply (r : SupReq) (t0 : Nat) (extra : List Word) (s : State) : State :=
  match r.cmd with
  | some w => { firstReply w.q 0 w.tag w.notify ([lo32 t0, hi32 t0] ++ extra) s with insWait := s.insWait.erase w }
  | none => s
/-- An attempt of a path test ends (R349). -/
def pathAttempt (r : SupReq) (d : Nat) (v : Int) (t : Nat) (s : State) : State :=
  let i := supIdx r.conv r.loc
  let dev := clampInt 0 65535 v - 64 * d
  let ok := decide (dev.natAbs ≤ 16)
  let t0 := r.t0.getD t
  let word (o : Nat) : List Word := [BitVec.ofNat 32 (o + 256 * ((clampInt (-127) 127 dev) % 256).toNat)]
  if !ok && !r.second then modSup (fun x => { x with pend := { r with second := true, t0 := some t0 } :: x.pend }) s
  else if ok && !r.second then
    supReply r t0 (word 1) (causeOff (0x0D8 + r.conv) (some r.loc) (setB (ink i 8) 1 false s))
  else if ok then
    supReply r t0 (word 2) (raiseHw (0x0D0 + r.conv) (some r.loc) (0x30 + r.conv) (ownerOf s 0x09 i) (satF (ink i 0xC) 15 0 s))
  else
    supReply r t0 (word 3) (causeOn (0x0D8 + r.conv) (some r.loc) (0x30 + r.conv) (ownerOf s 0x09 i) 0
      (setB (ink i 8) 1 true (satF (ink i 0xC) 31 16 s)))
/-- D of the path test of a converter that is under way: its test DAC holds D from the command to the outcome (R349). -/
def testCode (s : State) (t : Nat) : Option Nat :=
  ((s.sup.dac.toList.map (·.2)) ++ s.sup.pend ++ s.sup.urg.getD []).findSome? fun r => if r.conv == t then r.test else none
/-- The code of the voltage at an internal input that the device itself drives: speed sensor (R43), FF_SNS shadow and
test DAC (R338), which a path test takes from TDAC.D (R349); 0 for the others. -/
def supDrive (s : State) (t l : Nat) : Int :=
  match l with
  | 13 => min 31457 (roundDiv (256 * rf s (tk t 0x10) 15 0) 100)
  | 14 => roundDiv (65536 * (ffP s (12 * t + rf s (tk t 0x310) 3 0)).sns) 852500
  | 15 => 64 * (testCode s t).getD (rf s (cvk t 4) 9 0)
  | _ => 0
/-- The result of a conversion: `codes` brings the code of each converter's input, and for an input that the device
drives the deviation of the conversion from the voltage driven. -/
def supResult (s : State) (codes : List Int) (t l : Nat) : Int := supDrive s t l + codes.getD t 0
/-- What a conversion of an input finds: the pins of a tile without VDDA33 read 0 (R441). -/
def supSeen (s : State) (codes : List Int) (t l : Nat) : Int :=
  if decide (l < 8) && !s.rails.getLsbD t then 0 else supResult s codes t l
/-- An urgent conversion ends (R344). One whose input has become the odd one of a pair counts as none (R339); that of a
path test enters no accumulator, also where a processor restart has aborted its command (R346). -/
def urgentEnd (codes : List Int) (r : SupReq) (s : State) : State :=
  if supOdd s (supIdx r.conv r.loc) then supReply r (s.sup.at_ + 150) (if r.test.isSome then [0] else []) s else
  let v := if r.test.isSome then supResult s codes r.conv r.loc else supSeen s codes r.conv r.loc
  let s' := incR (cvk r.conv 0x10) (supDone r.conv s)
  let t := s.sup.at_ + 150
  match r.test with
  | some d => if r.cmd.isSome then pathAttempt r d v t s' else s'
  | none => supReply r t [] (accTake (supIdx r.conv r.loc) v s')
/-- The results of slot `k` of a round are taken. -/
def slotTakes (codes : List Int) (k : Nat) (s : State) : State :=
  forEach (List.range 8) (fun t s =>
    let l := nget 0 s.sup.map (32 * t + k)
    if l = 0 || supOdd s (supIdx t (l - 1)) then s else accTake (supIdx t (l - 1)) (supSeen s codes t (l - 1)) (supDone t s)) s
/-- Every slot of a round has completed: ROUNDS of each converter counts it (R342, R345). -/
def roundDone (s : State) : State := forEach (List.range 8) (fun t s => incR (cvk t 8) s) s
/-- The converters stop (R342, R423): the slot in progress is aborted, and no further one begins. A slot that begins at
this instant has not begun; one that ends at this instant completes. No command brings the codes of such a slot then:
they are free values. -/
def supStop (s : State) : State :=
  let idle := modSup (fun x => { x with slot := none, urg := none, prot := false, guard := false, ending := false })
  let back (s : State) : State := forEach (s.sup.urg.getD []) supPutBack (idle s)
  if s.sup.at_ = s.tb then back s
  else if s.sup.at_ + 500 ≤ s.tb then
    let codes := (List.range 8).map fun i => sext 17 (Config.freeValue (s.free + i)).toNat
    let s := { s with free := s.free + 8 }
    match s.sup.urg, s.sup.slot with
    | some u, _ => forEach u (urgentEnd codes) (idle s)
    | none, some k => idle (onlyIf (decide (s.sup.len ≤ k + 1)) roundDone (slotTakes codes k s))
    | none, none => idle s
  else back (supAbortConv s)
/-- A slot ends (R340, R342, R344); the codes are those of converters 0–7. The round goes on to its next slot unless it
was the last, the converters may not run, or RUN was cleared during the slot, if only for a while. -/
def slotEnd (codes : List Int) (s : State) : State :=
  match s.sup.urg, s.sup.slot with
  | some u, _ =>
    let s := modSup (fun x => { x with urg := none }) (forEach u (urgentEnd codes) s)
    supKick s
  | none, some k =>
    let s := slotTakes codes k s
    if decide (k + 1 < s.sup.len) && supMay s && !s.sup.ending then modSup (fun x => { x with slot := some (k + 1), at_ := s.tb }) s
    else
      let s := onlyIf (decide (s.sup.len ≤ k + 1)) roundDone s
      supKick (modSup (fun x => { x with slot := none, prot := false, ending := false }) s)
  | none, none => s
/-- SUPV.CFG is written: RUN going to 0 ends the round in progress at its next slot end (R342). -/
def supvWrite (v : Word) (s : State) : State :=
  let ends := rb s ⟨.supv, 0, 0⟩ 8 && !bit v 8 && s.sup.slot.isSome
  supKick (modSup (fun x => { x with ending := x.ending || ends }) (wr ⟨.supv, 0, 0⟩ v s))
/-- The state of R91 for a supervisory input: out of sequences, DIFF cleared, accumulator restarted; a pair
whose other half changes hands ends too (R339). -/
def supRelease (i : Nat) (s : State) : State :=
  let s := accRestart i (rstR (ink i 4) (wr (ink i 0) 0 s))
  if i < 64 then
    let e := i - i % 2
    if supDiff s e then accRestart e (setB (ink e 4) 0 false s) else s
  else s

/-- One input's block of SUP_SNAP (R347, R348). -/
def snapBlock (s : State) (left : Bool) (i : Nat) : List Word :=
  let a := accOf s i
  let u := (a.sum % 2 ^ 48).toNat
  let al (v : Int) : Word := if left then BitVec.ofNat 32 (65536 * (v % 65536).toNat) else intW v
  [lo32 u, BitVec.ofNat 32 (u / 2 ^ 32 + 65536 * (rb s (ink i 8) 0).toNat + 131072 * (supDiff s i).toNat + 262144 * (rb s (ink i 8) 1).toNat),
   lo32 a.count, al a.mn, al a.mx]
/-- Command body of SUP_SNAP (R347, R348). An input that a PART_RESET holds is BUSY when its accumulator is to be
restarted (R73, R101). -/
def bodySupSnap (c : Cmd) (s : State) : Ans :=
  let w := pw c 0
  let first := fld w 6 0
  let n := fld w 13 8
  if n = 0 || decide (32 < n) || decide (128 < first + n) then Ans.fail s 0x06 0 0xB0 []
  else if (List.range n).any fun i => ownerOf s 0x09 (first + i) != c.part then Ans.deny c s 0 []
  else if bit w 17 == false && (List.range n).any fun i => busy s 0x09 (first + i) then Ans.fail s 0x02 0 0 []
  else
    let pay := [lo32 s.tb, hi32 s.tb] ++ (List.range n).flatMap fun i => snapBlock s (bit w 16) (first + i)
    Ans.ok (if bit w 17 then s else forEach ((List.range n).map (first + ·)) accRestart s) pay
/-- Command body of SUP_URGENT (R343, R349, R350); `test` for TEST = 1. In STANDBY the converters are off and
no conversion can end, so the command finds them held. -/
def bodySupUrgent (test : Bool) (c : Cmd) (s : State) : Ans :=
  let w := pw c 0
  let i := fld w 6 0
  let d := fld w 25 16
  if supOdd s i then Ans.fail s 0x06 0 0xB2 []
  else if test && (decide (64 ≤ i) || supDiff s i || decide (d < 16) || decide (1000 < d)) then Ans.fail s 0x06 0 0xB3 []
  else if ownerOf s 0x09 i != c.part then Ans.deny c s 0 []
  else if busy s 0x09 i then Ans.fail s 0x02 0 0 []
  else if standby s then Ans.fail s 0x02 0xFF 0 []
  else
    let r : SupReq := ⟨supConv i, 2, supLoc i, some ⟨c.q, c.tag, c.notify, c.part⟩, if test then some d else none, false, none⟩
    ⟨if test then modSup (fun x => { x with dac := some (s.tb + 5000, r) }) s else supRequest r s, 0, [], true⟩

end Sys2Proof.Machine
end

