-- ==== Sys2Proof/Machine/Dma.lean ====
section
/-! DEFINITION. The DMA engine (R373–R393). -/

namespace Sys2Proof.Machine

/-- DMA.CH register. -/
def dmk (c off : Nat) : RKey := ⟨.dma, c, off⟩
/-- A DMA channel. -/
def dch (s : State) (c : Nat) : DmaCh := vget s.dma c
/-- Modify a DMA channel. -/
def modDma (c : Nat) (f : DmaCh → DmaCh) (s : State) : State := { s with dma := vmod s.dma c f }
/-- CTL.STATE. -/
def dmaState (s : State) (c : Nat) : Nat := rf s (dmk c 0) 4 2
def setDmaState (c v : Nat) (s : State) : State := setF (dmk c 0) 4 2 v s
/-- CTL.PAUSE. -/
def dmaPaused (s : State) (c : Nat) : Bool := rb s (dmk c 0) 0
/-- PTR. -/
def dmaPtr (s : State) (c : Nat) : Nat := (rd s (dmk c 0x10)).toNat + 2 ^ 32 * (rd s (dmk c 0x14)).toNat
def setPtr (c p : Nat) (s : State) : State := wr (dmk c 0x14) (hi32 p) (wr (dmk c 0x10) (lo32 p) s)
/-- Owner of a channel. -/
def dmaOwner (s : State) (c : Nat) : Nat := ownerOf s 0x0C c

/-! ## Descriptor fields (R377) -/

def dW (d : List Word) (i : Nat) : Word := d.getD i 0
/-- A 64-bit field. -/
def d64 (d : List Word) (i : Nat) : Nat := (dW d i).toNat + 2 ^ 32 * (dW d (i + 1)).toNat
def dMode (d : List Word) : Nat := fld (dW d 0) 3 2
def dX (d : List Word) : Bool := bit (dW d 0) 17
/-- Bytes of a width code. -/
def widthOf (c : Nat) : Nat := 2 ^ c
def dSw (d : List Word) : Nat := widthOf (fld (dW d 0) 10 8)
def dDw (d : List Word) : Nat := widthOf (fld (dW d 0) 13 11)
/-- Bytes of the swap group. -/
def swapG : Nat → Nat
  | 1 => 2 | 2 => 4 | 3 => 8 | 4 => 4 | 5 => 8 | _ => 1
def dSwap (d : List Word) : Nat := fld (dW d 0) 16 14
def dEsize (d : List Word) : Nat := fld (dW d 0) 31 18
def dCount (d : List Word) : Nat := (dW d 7).toNat
/-- The format errors of a descriptor (R378, R380). What its reserved fields hold does not count (R19): in MODE 0 ESIZE
and AUX, in MODE 2 ESIZE and the address of the listed side, in a link entry all but SRC. -/
def badFormat (d : List Word) : Bool :=
  let w := dW d 0
  if bit w 1 then d64 d 1 % 32 != 0
  else
    let m := dMode d
    let g := swapG (dSwap d)
    let side := if dX d then dDw d else dSw d
    let len := if m = 0 then dCount d else dCount d * dEsize d
    m == 3 || decide (4 < fld w 10 8) || decide (4 < fld w 13 11) || decide (5 < dSwap d) || dCount d == 0 ||
    (m == 1 && dEsize d == 0) ||
    (!(m == 2 && !dX d) && d64 d 1 % dSw d != 0) || (!(m == 2 && dX d) && d64 d 3 % dDw d != 0) ||
    (m != 2 && (len % dSw d != 0 || len % dDw d != 0 || len % g != 0)) || (m == 1 && dEsize d % side != 0)

/-! ## Access checks (R375, R376) -/

/-- The byte of an internal address, in record memory or a correction table. -/
def intByte (s : State) (a : Nat) : Byte :=
  match locate a with
  | .mem o => memRd memDflt s.mem o
  | .corr n b i => (corrGet s n b i).extractLsb' (8 * (a % 4)) 8
  | _ => 0
/-- A partition may read, or write, bytes at an internal address. -/
def intMay (s : State) (p : Nat) (wr : Bool) (a n : Nat) : Bool :=
  decide (a + n ≤ 2 ^ 32) && (if n = 0 then true else
  match locate a, locate (a + n - 1) with
  | .mem o, .mem e => (List.range (e / 4096 + 1 - o / 4096)).all fun k => ownerOf s 0x0E (o / 4096 + k) == p
  | .corr m _ _, .corr m' _ _ => !wr && (List.range (m' + 1 - m)).all fun k => ownerOf s 0x02 (m + k) == p
  | _, _ => false)
/-- Host accesses through a port are permitted to a partition (R376). -/
def hostMay (s : State) (p k : Nat) : Bool :=
  roleOf s k == 1 && (List.range 8).any (fun j => bound s (8 * k + j) && partOf s (8 * k + j) == p) &&
    mayMaster s k
/-- The port of a channel. -/
def dmaPort (s : State) (c : Nat) : Nat := rf s (dmk c 4) 2 0

/-! ## Movers (R373) -/

/-- A mover serves the channel. -/
def onMover (s : State) (c : Nat) : Bool := s.movers.toList.contains (some c)
/-- The channel leaves its mover. -/
def offMover (c : Nat) (s : State) : State := { s with movers := s.movers.map fun m => if m = some c then none else m }
/-- A channel waits for a mover. -/
def dmaWaits (s : State) (c : Nat) : Bool :=
  dmaState s c == 2 && (dch s c).desc.isSome && !(dch s c).done && (dch s c).stop.isNone && !dmaPaused s c && !onMover s c
/-- The next waiting channel in turn of a priority. -/
def nextWaiting (s : State) (pri : Bool) (rr : Nat) : Option Nat :=
  ((List.range 64).map fun i => (rr + i) % 64).find? fun c => rb s (dmk c 4) 4 == pri && dmaWaits s c
/-- A free mover takes the next waiting channel. -/
def schedule1 (s : State) : State :=
  match s.movers.toList.findIdx? (·.isNone) with
  | none => s
  | some m =>
    match nextWaiting s true s.dmaRr1, nextWaiting s false s.dmaRr0 with
    | some c, _ => { s with movers := vset s.movers m (some c), dmaRr1 := (c + 1) % 64 }
    | none, some c => { s with movers := vset s.movers m (some c), dmaRr0 := (c + 1) % 64 }
    | none, none => s
/-- Free movers take waiting channels. -/
def schedule (s : State) : State := schedule1 (schedule1 (schedule1 (schedule1 s)))

/-! ## States (R387–R389) -/

/-- A channel that has nothing to do becomes IDLE, or reads PTR once more (R387). -/
def goIdle (c : Nat) (s : State) : State :=
  if rb s (dmk c 0) 1 then setDmaState c 2 (modDma c (fun d => { d with fetch := true }) (setB (dmk c 0) 1 false s))
  else setDmaState c 1 s
/-- A start event (R387). -/
def dmaStart (c : Nat) (s : State) : State :=
  match dmaState s c with
  | 1 => setDmaState c (if dmaPaused s c then 3 else 2) (modDma c (fun d => { d with fetch := true }) s)
  | 0 => incR (dmk c 0x2C) s
  | 5 => incR (dmk c 0x2C) s
  | _ => if rb s (dmk c 0) 1 then incR (dmk c 0x28) s else setB (dmk c 0) 1 true s
/-- PAUSE is set (R388). -/
def dmaPause (c : Nat) (s : State) : State :=
  let s := setB (dmk c 0) 0 true s
  if dmaState s c = 1 ∨ dmaState s c = 2 then setDmaState c 3 s else s
/-- A channel runs on from what it holds. -/
def dmaRun (c : Nat) (s : State) : State :=
  if (dch s c).desc.isSome || (dch s c).fetch || (dch s c).stop.isSome then schedule (setDmaState c 2 s) else goIdle c s
/-- PAUSE is cleared (R388); in PAUSING the drain ends first. -/
def dmaResume (c : Nat) (s : State) : State :=
  let s := setB (dmk c 0) 0 false s
  if dmaState s c = 4 then dmaRun c s else s
/-- A channel stops with a cause (R389); it enters STOPPED when the drain has ended. -/
def dmaStop (c cause : Nat) (s : State) : State :=
  let p := dmaOwner s c
  let s := offMover c (modDma c (fun d => { d with stop := some cause, fetch := false }) s)
  let s := match cause with
    | 1 => raiseHw 0x0B8 none 0x25 p s
    | 2 => refuse p 0x25 s
    | 5 => setB (dmk c 0) 0 false s
    | _ => raiseHw (0x0C0 + dmaPort s c) none 0x25 p s
  schedule s
/-- The drain of a stop ends (R389). -/
def dmaStopped (c : Nat) (s : State) : State :=
  match (dch s c).stop with
  | none => s
  | some k => setF (dmk c 0) 11 8 k (setDmaState c 5 (modDma c (fun d => { d with stop := none, outq := [], done := false }) s))
/-- A channel without work. -/
def dmaEmpty : DmaCh := ⟨none, 0, false, false, false, [], none, [], false, none, 0, 0, [], []⟩
/-- DISABLED, with nothing held (R390, R393). -/
def dmaOff (c : Nat) (s : State) : State :=
  schedule (offMover c (wr (dmk c 0x24) 0 (setF (dmk c 0) 11 8 0 (setDmaState c 0 (setF (dmk c 0) 1 0 0 (modDma c (fun _ => dmaEmpty) s))))))

/-! ## Host reads and overlaps (R374, R392) -/

/-- The greatest read request of a port, in bytes (R374). PRESUMED: bits [14:12] of the device control word, log entry
37. -/
def readMax (s : State) (k : Nat) : Nat := 128 * 2 ^ min 5 ((vget s.links k).devCtl.extractLsb' 12 3).toNat
/-- A read of host memory as the requests that it takes: none above the maximum, none across a block of 4 KiB. -/
def hostReads (k : Nat) : Nat → Nat → Nat → State → State
  | 0, _, _, s => s
  | f + 1, a, n, s =>
    if n = 0 then s else
    let m := min n (min (readMax s k) (4096 - a % 4096))
    hostReads k f (a + m) (n - m) (emit (.hostRd k a m) s)
/-- `n` bytes whose values the spec does not state. -/
def freeBytes (n : Nat) (s : State) : List Byte × State :=
  let r := freeWords ((n + 3) / 4) s
  ((r.1.flatMap wordBytes).take n, r.2)
/-- Two ranges of one space share a byte. -/
def meets (x y : Nat × Nat × Nat) : Bool :=
  x.1 == y.1 && decide (x.2.1 < y.2.1 + y.2.2) && decide (y.2.1 < x.2.1 + x.2.2)
/-- Record a range; one that goes on where the last one ends lengthens it. -/
def addRange (x : Nat × Nat × Nat) : List (Nat × Nat × Nat) → List (Nat × Nat × Nat)
  | y :: ys => if y.1 = x.1 ∧ y.2.1 + y.2.2 = x.2.1 then (y.1, y.2.1, y.2.2 + x.2.2) :: ys else x :: y :: ys
  | [] => [x]
/-- The space of a channel's access: 0 internal, 1 + port in host memory. -/
def dmaSpace (s : State) (c : Nat) (host : Bool) : Nat := if host then 1 + dmaPort s c else 0
/-- What a channel reads there is unpredictable (R392): its descriptor has written there. -/
def readOpen (s : State) (c : Nat) (x : Nat × Nat × Nat) : Bool := (dch s c).wrR.any (meets x)
/-- What a channel leaves there is unpredictable (R392): its descriptor has read there, as data, table, list or the
descriptor itself, or another channel of its owner writes there. -/
def writeOpen (s : State) (c : Nat) (x : Nat × Nat × Nat) : Bool :=
  (dch s c).rdR.any (meets x) || (List.range 64).any fun k =>
    k != c && dmaOwner s k == dmaOwner s c && (dch s k).desc.isSome && (dch s k).wrR.any (meets x)

/-! ## The ring (R379, R380) -/

/-- The engine reads the descriptor at PTR (R378, R379); `host` holds the bytes of a host read. -/
def descRead (c : Nat) (host : HostBytes) (s : State) : State :=
  let x := dch s c
  if dmaState s c != 2 || !x.fetch || x.desc.isSome || x.stop.isSome || dmaPaused s c then s else
  let p := dmaPtr s c
  if x.sp && !hostMay s (dmaOwner s c) (dmaPort s c) then dmaStop c 3 s
  else if !x.sp && !intMay s (dmaOwner s c) false p 32 then dmaStop c 2 s
  else
    let d := bytesWords 8 (if x.sp then host else (List.range 32).map fun i => intByte s (p + i))
    let r := (dmaSpace s c x.sp, p, 32)
    let s := if x.sp then hostReads (dmaPort s c) 32 p 32 s else s
    if !bit (dW d 0) 0 then goIdle c (modDma c (fun y => { y with fetch := false }) s)
    else
      let s := ledAdd 5 c 2 1 (ledAdd 5 c 0 1 s)
      let s := modDma c (fun _ => { dmaEmpty with desc := some d, at_ := p, atHost := x.sp, sp := x.sp, done := bit (dW d 0) 1, rdR := [r] }) s
      let s := wr (dmk c 0x20) 0 (wr (dmk c 0x1C) 0 (wr (dmk c 0x18) 0 s))
      if badFormat d then dmaStop c 1 s
      else if bit (dW d 0) 1 then setPtr c (d64 d 1) (modDma c (fun y => { y with sp := bit (dW d 0) 4 }) s)
      else schedule s
/-- The completion pulse of a descriptor with EVT = 1 (R391). -/
def dmaPulse (c : Nat) (s : State) : State :=
  let k := rf s (dmk c 4) 9 8
  let n := rf s (dmk c 4) 22 16
  let p := dmaOwner s c
  match k with
  | 1 => if ownerOf s 0x0B (n / 16 % 8) == p then emit (.pulse (n / 16 % 8) (n % 16)) s else refuse p 0x25 s
  | 2 => if ownerOf s 0x07 (n % 16) == p then doTrigger (n % 16) (rf s (gk (n % 16) 0x2C) 15 8) s else refuse p 0x25 s
  | 3 => if ownerOf s 0x0C (n % 64) == p then dmaStart (n % 64) s else refuse p 0x25 s
  | _ => s
/-- Ownership of a descriptor is returned (R381). -/
def descDone (c : Nat) (s : State) : State :=
  let x := dch s c
  match x.desc with
  | none => s
  | some d =>
    if !x.done || x.stop.isSome then s
    else if x.atHost && !hostMay s (dmaOwner s c) (dmaPort s c) then dmaStop c 3 s
    else if !x.atHost && !intMay s (dmaOwner s c) true x.at_ 4 then dmaStop c 2 s
    else
      let w := setBit (dW d 0) 0 false
      let s := if x.atHost then emit (.hostWr (dmaPort s c) x.at_ (wordBytes w)) s
        else match locate x.at_ with | .mem o => putMemW o [w] s | _ => s
      let s := ledSub 5 c 2 1 (ledAdd 5 c 1 1 s)
      let s := if bit w 1 then s else setPtr c (x.at_ + 32) s
      let s := modDma c (fun y => { y with desc := none, done := false, fetch := true }) s
      if bit w 7 && !bit w 1 then dmaPulse c s else s

/-! ## Moving data (R382–R386) -/

/-- One swap group (R386). -/
def swapGroup (k : Nat) (g : List Byte) : List Byte :=
  match k with
  | 0 => g
  | 4 => g.drop 2 ++ g.take 2
  | 5 => g.drop 6 ++ (g.drop 4).take 2 ++ (g.drop 2).take 2 ++ g.take 2
  | _ => g.reverse
/-- Whole groups of a stream, rearranged. -/
def swapAll (k : Nat) : Nat → List Byte → List Byte
  | 0, _ => []
  | n + 1, bs => swapGroup k (bs.take (swapG k)) ++ swapAll k n (bs.drop (swapG k))

/-- Progress of one quantum: the state, host bytes not yet used, stream bytes still allowed, and whether to
stop and why. -/
structure Mv where
  s : State
  host : List Byte
  room : Nat
  stop : Option Nat
  deriving DecidableEq, Repr

/-- Read `n` bytes for a channel in a space, checked (R376). Host bytes that the row does not bring are open, and so is
what overlaps a write of the descriptor (R392). -/
def mvRead (c : Nat) (host : Bool) (a n : Nat) (m : Mv) : List Byte × Mv :=
  let x := (dmaSpace m.s c host, a, n)
  let note := modDma c (fun y => { y with rdR := addRange x y.rdR })
  if host then
    if hostMay m.s (dmaOwner m.s c) (dmaPort m.s c) then
      let pad := freeBytes (n - m.host.length) (note (hostReads (dmaPort m.s c) n a n m.s))
      (m.host.take n ++ pad.1, { m with s := pad.2, host := m.host.drop n })
    else ([], { m with stop := some 3 })
  else if intMay m.s (dmaOwner m.s c) false a n then
    if readOpen m.s c x then let r := freeBytes n (note m.s); (r.1, { m with s := r.2 })
    else ((List.range n).map fun i => intByte m.s (a + i), { m with s := note m.s })
  else ([], { m with stop := some 2 })
/-- Write bytes for a channel in a space, checked (R376); where R392 makes the result unpredictable, they are open. -/
def mvWrite (c : Nat) (host : Bool) (a : Nat) (bs : List Byte) (m : Mv) : Mv :=
  let x := (dmaSpace m.s c host, a, bs.length)
  let note := modDma c (fun y => { y with wrR := addRange x y.wrR })
  let r := if writeOpen m.s c x then freeBytes bs.length m.s else (bs, m.s)
  if host then
    if hostMay m.s (dmaOwner m.s c) (dmaPort m.s c) then { m with s := emit (.hostWr (dmaPort m.s c) a r.1) (note r.2) } else { m with stop := some 3 }
  else if intMay m.s (dmaOwner m.s c) true a bs.length then
    match locate a with | .mem o => { m with s := putMem o r.1 (note r.2) } | _ => m
  else { m with stop := some 2 }

/-- The next entry of the index table or of the list is read (R383, R384): an address and a length of its side. One
that does not fit the width of its side stops the channel with FORMAT; of an index, DEDUCED (log entry 125). -/
def pieceRead (c : Nat) (d : List Word) (m : Mv) : Option (Nat × Nat) × Mv :=
  let e := (rd m.s (dmk c 0x20)).toNat
  if dCount d ≤ e then (none, m) else
  let n := if dMode d = 1 then 4 else 16
  let r := mvRead c (bit (dW d 0) 6) (d64 d 5 + n * e) n m
  if r.2.stop.isSome then (none, r.2) else
  let ws := bytesWords 4 r.1
  let p := if dMode d = 1 then ((if dX d then d64 d 3 else d64 d 1) + (dW ws 0).toNat, dEsize d) else (d64 ws 0, (dW ws 2).toNat)
  let m' := { r.2 with s := wr (dmk c 0x20) (BitVec.ofNat 32 (e + 1)) r.2.s }
  let side := if dX d then dDw d else dSw d
  if p.1 % side != 0 || p.2 % side != 0 || p.2 == 0 then (none, { m' with stop := some 1 }) else (some p, m')
/-- The table or list applies to the destination. -/
def dScatter (d : List Word) : Bool := dMode d != 0 && dX d
/-- Bytes that the destination pieces read ahead still ask of the source. -/
def mvNeed (s : State) (c : Nat) : Nat := ((dch s c).outq.map (·.2)).sum - (dch s c).held.length
/-- Destination pieces are read until they ask for a whole source unit (R385), or there is no further one. -/
def mvAhead (c : Nat) (d : List Word) : Nat → Mv → Mv
  | 0, m => m
  | f + 1, m =>
    if dSw d ≤ mvNeed m.s c then m else
    match pieceRead c d m with
    | (some p, m') => mvAhead c d f { m' with s := modDma c (fun x => { x with outq := x.outq ++ [p] }) m'.s }
    | (none, m') => m'
/-- The next stretch of a stream (R382–R385): source address, bytes to read, whole source units in one block of 4 KiB so
that each access is checked by itself (R376), and how many of them belong to the stream. A piece that stops a scatter
leaves the pieces before it to be filled: the last source unit is read for the part that they ask for. -/
def mvNext (c : Nat) (d : List Word) (m : Mv) : Option (Nat × Nat × Nat) × Mv :=
  let pos := (dch m.s c).rdN
  let cap (src n : Nat) : Nat := min m.room (min n (4096 - src % 4096))
  if dMode d = 0 then
    let k := cap (d64 d 1 + pos) (dCount d - pos)
    (if pos < dCount d then some (d64 d 1 + pos, k, k) else none, m)
  else if dX d then
    let m := mvAhead c d 17 m
    let n := mvNeed m.s c
    if dSw d ≤ n then
      let k := cap (d64 d 1 + pos) (n / dSw d * dSw d)
      (some (d64 d 1 + pos, k, k), m)
    else if n != 0 && m.stop.isSome then (some (d64 d 1 + pos, dSw d, n), m)
    else (none, m)
  else
    match (match (dch m.s c).piece with | some p => (some p, m) | none => pieceRead c d m) with
    | (some (a, n), m') =>
      let k := cap a n
      (some (a, k, k), { m' with s := modDma c (fun x => { x with piece := if k = n then none else some (a + k, n - k) }) m'.s })
    | (none, m') => (none, m')

/-- The maximum payload of a port's writes, in bytes: 128, 256 or 512 (R54, R374). PRESUMED: bits [7:5] of the device
control word, log entry 37. -/
def payloadMax (s : State) (k : Nat) : Nat := 128 * 2 ^ min 2 ((vget s.links k).devCtl.extractLsb' 5 3).toNat
/-- The destination of the next stream byte: the first piece of a scatter, or DST plus the bytes written. -/
def mvDest (c : Nat) (d : List Word) (n : Nat) (s : State) : Option (Nat × Nat) :=
  if dScatter d then (dch s c).outq.head? else some (d64 d 3 + (dch s c).wrN, n)
/-- Write the bytes `bs` of the stream where they belong, no access across a block of 4 KiB, and no posted write above
the maximum payload. -/
def mvOut (c : Nat) (d : List Word) : Nat → List Byte → Mv → Mv
  | 0, _, m => m
  | f + 1, bs, m =>
    if bs.isEmpty || m.stop.isSome then m else
    match mvDest c d bs.length m.s with
    | none => m
    | some (a, n) =>
      let host := bit (dW d 0) 5
      let k := min (min n bs.length) (min (4096 - a % 4096) (if host then payloadMax m.s (dmaPort m.s c) else 4096))
      let m := mvWrite c host a (bs.take k) m
      if m.stop.isSome then m else
      let q := (dch m.s c).outq.tail
      let s := modDma c (fun x => { x with wrN := x.wrN + k, outq := if dScatter d then (if k = n then q else (a + k, n - k) :: q) else x.outq }) m.s
      mvOut c d f (bs.drop k) { m with s := wr (dmk c 0x1C) (BitVec.ofNat 32 (dch s c).wrN) s }
/-- Empty the holding register as far as whole destination units and swap groups allow (R385, R386). -/
def mvFlush (c : Nat) (d : List Word) (m : Mv) : Mv :=
  let bs := (dch m.s c).held
  let u := max (dDw d) (swapG (dSwap d))
  let n := bs.length / max 1 u * u
  let out := swapAll (dSwap d) (n / max 1 (swapG (dSwap d))) (bs.take n)
  mvOut c d (n + 1) out { m with s := modDma c (fun x => { x with held := bs.drop n }) m.s }
/-- A stream whose length shows only at its end (MODE 2) is no multiple of SW, of DW or of the swap group
(R378). -/
def mvRagged (s : State) (c : Nat) (d : List Word) : Bool :=
  !(dch s c).held.isEmpty || (dch s c).rdN % dSw d != 0 || (dScatter d && !(dch s c).outq.isEmpty)
/-- Read a stretch, keep the bytes of the stream, and write what whole units allow. -/
def mvStep (c : Nat) (d : List Word) (src n keep : Nat) (m : Mv) : Mv :=
  let r := mvRead c (bit (dW d 0) 4) src n m
  if r.2.stop.isSome then r.2 else
  let s := modDma c (fun x => { x with rdN := x.rdN + keep, held := x.held ++ r.1.take keep }) r.2.s
  mvFlush c d { r.2 with s := wr (dmk c 0x18) (BitVec.ofNat 32 (dch s c).rdN) s, room := m.room - keep }
/-- Move stretches until the quantum is used, the descriptor ends, or an access is refused. -/
def mvLoop (c : Nat) (d : List Word) : Nat → Mv → Mv
  | 0, m => m
  | f + 1, m =>
    if m.room = 0 || m.stop.isSome then m else
    match mvNext c d m with
    | (none, m) => if m.stop.isSome then m else if mvRagged m.s c d then { m with stop := some 1 } else
      { m with s := modDma c (fun x => { x with done := true }) m.s }
    | (some (src, n, keep), m') =>
      let x := mvStep c d src n keep { m' with stop := none }
      mvLoop c d f { x with stop := x.stop.orElse fun _ => m'.stop }
/-- Whether the stream has ended: nothing is left to read. -/
def mvEnded (s : State) (c : Nat) (d : List Word) : Bool :=
  match dMode d with
  | 0 => decide (dCount d ≤ (dch s c).rdN)
  | 1 => decide (dCount d * dEsize d ≤ (dch s c).rdN)
  | _ => (if dX d then (dch s c).outq.isEmpty else (dch s c).piece.isNone) && decide (dCount d ≤ (rd s (dmk c 0x20)).toNat)
/-- The mover of a channel has read source units: PEAK takes the highest count of reads outstanding (R374 and the MOVER
table), which is open but for its bounds, 1 to 512. -/
def moverPeak (c : Nat) (s : State) : State :=
  match s.movers.toList.findIdx? (· == some c) with
  | none => s
  | some m => let r := takeFree s; setF ⟨.mover, m, 0⟩ 25 16 (max (rf s ⟨.mover, m, 0⟩ 25 16) (r.1.toNat % 512 + 1)) r.2
/-- Move up to `n` bytes of a channel's stream. -/
def dmaMove (c n : Nat) (host : HostBytes) (s : State) : State :=
  match (dch s c).desc with
  | none => s
  | some d =>
    let m := mvLoop c d (n + 1) ⟨s, host, n, none⟩
    let s := setF (dmk c 0x24) 4 0 (dch m.s c).held.length m.s
    let s := if m.room < n then moverPeak c s else s
    match m.stop with
    | some k => dmaStop c k s
    | none => if mvEnded s c d && !mvRagged s c d then modDma c (fun x => { x with done := true }) s else s
/-- A quantum ends (R373): its bytes have moved, and the channel rejoins the scheduler. -/
def quantumEnd (c : Nat) (host : HostBytes) (s : State) : State :=
  if !onMover s c || dmaState s c != 2 || (dch s c).stop.isSome then s else
  schedule (offMover c (dmaMove c 4096 host s))
/-- The drain after a pause ends (R388). How much had been read or issued is open; `host` holds what the host reads
issued by then have brought. -/
def pauseDrained (c : Nat) (host : HostBytes) (s : State) : State :=
  if dmaState s c != 3 then s else
  let s := match (dch s c).desc with
    | some d =>
      if onMover s c && !(dch s c).done && (dch s c).stop.isNone then
        let r := takeFree s
        dmaMove c (r.1.toNat % 4097 / dSw d * dSw d) host r.2
      else s
    | none => s
  let s := descDone c (offMover c s)
  schedule (if dmaPaused s c then setDmaState c 4 s else dmaRun c s)
/-- A descriptor reads host memory: its source, or its table or list (R377). -/
def dReadsHost (d : List Word) : Bool :=
  let w := dW d 0
  bit w 4 || (bit w 6 && (dMode d == 1 || dMode d == 2))
/-- A host read that has been issued fails (R389), also while a pause drains (R388). -/
def hostReadError (c : Nat) (s : State) : State :=
  let reads := match (dch s c).desc with | some d => dReadsHost d | none => false
  let busy := (onMover s c && reads && (dmaState s c == 2 || dmaState s c == 3)) || ((dch s c).fetch && (dch s c).sp && dmaState s c == 2)
  if busy && (dch s c).stop.isNone then dmaStop c 4 s else s

/-! ## DMA_CTL (R393) -/

/-- The operations of DMA_CTL, each with the states it is permitted from. -/
def dmaCtl (op c : Nat) (s : State) : Option State :=
  let st := dmaState s c
  match op with
  | 0 => some (dmaStart c s)
  | 1 => if 1 ≤ st ∧ st ≤ 4 then some (dmaPause c s) else none
  | 2 => if st = 3 ∨ st = 4 then some (dmaResume c s) else none
  | 3 => if 2 ≤ st ∧ st ≤ 4 then some (dmaStop c 5 s) else none
  | 4 =>
    if st = 0 then
      let p := (rd s (dmk c 8)).toNat + 2 ^ 32 * (rd s (dmk c 0xC)).toNat
      let s := setPtr c p (modDma c (fun _ => { dmaEmpty with sp := rb s (dmk c 4) 3 }) s)
      let s := forEach [0x18, 0x1C, 0x20, 0x24] (fun o s => wr (dmk c o) 0 s) s
      some (setDmaState c 1 (setB (dmk c 0) 1 false s))
    else none
  | _ => if st = 1 ∨ st = 4 ∨ st = 5 then some (dmaOff c s) else none
/-- Command body of DMA_CTL with one OP (R393). -/
def bodyDmaCtl (op : Nat) (c : Cmd) (s : State) : Ans :=
  let w := pw c 0
  let ch := fld w 5 0
  let ring := (rd s (dmk ch 8)).toNat
  if dmaOwner s ch != c.part then Ans.deny c s 0 []
  else if busy s 0x0C ch then Ans.fail s 0x02 0 0 []
  else if op = 4 ∧ dmaState s ch = 0 ∧ (ring % 32 ≠ 0 ∨ (rb s (dmk ch 4) 3 = true ∧
      (roleOf s (dmaPort s ch) ≠ 1 ∨ !((List.range 8).any fun j => bound s (8 * dmaPort s ch + j) && partOf s (8 * dmaPort s ch + j) == c.part)))) then
    Ans.fail s 0x06 0 0xE2 []
  else match dmaCtl op ch s with
    | none => Ans.fail s 0x06 0 0xE1 []
    | some s => Ans.ok s [BitVec.ofNat 32 (dmaState s ch + 256 * rf s (dmk ch 0) 11 8)]

end Sys2Proof.Machine
end

