-- ==== Sys2Proof/Machine/Fabric.lean ====
section
/-! DEFINITION. The logic fabric: region states, load sessions, REGION_CTL, READBACK, requests
(R352–R372). -/

namespace Sys2Proof.Machine

/-- Owner of a region. -/
def regOwner (s : State) (r : Nat) : Nat := ownerOf s 0x0B r
/-- The user side of a region. -/
def fabOf (s : State) (r : Nat) : Fab := vget s.fabs r
/-- Change it. -/
def modFab (r : Nat) (f : Fab → Fab) (s : State) : State := { s with fabs := vmod s.fabs r f }
/-- A region goes inactive: the lines that its fast tap carries go no further, and its flip-flops and memory blocks are
held in reset (R354). A request latched while it ran is held until it is taken (R363); which are is open. -/
def regionOut (r : Nat) (s : State) : State :=
  let f := takeFree s
  let ran := decide (3 ≤ regionState s r)
  let q := (fabOf s r).req ||| (if ran then f.1.setWidth 16 else 0)
  let s := if ran then f.2 else s
  let s := forEach (List.range 12) (fun c s =>
    modChan (12 * r + c) (fun x => { x with line := x.line.map fun l => { l with tap := false } }) s) s
  modFab r (fun _ => { Fab.reset with req := q }) s
/-- Put a region into a state of R354. -/
def setRegion (r v : Nat) (s : State) : State :=
  let s := if v == 3 || v == 4 then s else regionOut r s
  setF (fbk r 0) 2 0 v s
/-- Bytes of a region's configuration. -/
def cfgOf (s : State) (r : Nat) : List Byte := spGet (fun _ => []) s.fabCfg r
/-- Give a region a configuration. -/
def setCfg (r : Nat) (bs : List Byte) (s : State) : State := { s with fabCfg := spPut id (fun _ => []) s.fabCfg r bs }
/-- A region is cleared to EMPTY (R354, R371). -/
def regionClear (r : Nat) (s : State) : State := wr (fbk r 4) 0 (wr (fbk r 8) 0 (setCfg r [] (setRegion r 0 s)))

/-! ## The user side (R352–R359) -/

/-- Words held. -/
def Fifo.count (f : Fifo) : Nat := f.wr - f.rd
/-- A clock of the write side, with a write or without: a write is ignored when the queue is full (R359). -/
def Fifo.writeClock (access : Bool) (f : Fifo) : Fifo :=
  let f := { f with rdSeen := f.rd :: f.rdSeen.take 2 }
  if !access then f else if f.depth ≤ f.count then { f with wrIgn := true } else { f with wr := f.wr + 1 }
/-- A clock of the read side, with a read or without: a read is ignored when the queue is empty. -/
def Fifo.readClock (access : Bool) (f : Fifo) : Fifo :=
  let f := { f with wrSeen := f.wr :: f.wrSeen.take 2 }
  if !access then f else if f.count = 0 then { f with rdIgn := true } else { f with rd := f.rd + 1 }
/-- ALMOST_FULL and ALMOST_EMPTY. -/
def Fifo.almostFull (f : Fifo) : Bool := decide (f.af ≤ f.count)
def Fifo.almostEmpty (f : Fifo) : Bool := decide (f.count ≤ f.ae)
/-- The occupancy as its write side and its read side show it: exact for what the side itself does, and `lag` of its own
clocks behind, at most three, for what the other does. -/
def Fifo.shownWr (f : Fifo) (lag : Nat) : Nat := f.wr - (f.rd :: f.rdSeen).getD (min lag 3) 0
def Fifo.shownRd (f : Fifo) (lag : Nat) : Nat := (f.wr :: f.wrSeen).getD (min lag 3) 0 - f.rd
/-- What a running design does at the queue of block `m` in `n` clock edges: open. A side whose net has had no edge does
nothing. -/
def fifoRun (seed r m : Nat) (wr rd : Bool) : Nat → Fifo → Fifo
  | 0, f => f
  | n + 1, f =>
    let f := fifoRun seed r m wr rd n f
    let op := (Config.fabricQueueOp seed r m n).toNat
    if op < 2 then (if wr then f.writeClock (op == 1) else f) else (if rd then f.readClock (op == 3) else f)
/-- The flip-flops of a configuration on nets of a set: each takes its clock from one of the two nets of its cluster (R352). -/
def flopsOn (c : List Byte) (nets : BitVec 8) : BitVec 3072 :=
  (List.range 192).foldl (fun m k =>
    let n := Config.fabricClusterNets c k
    let second := (Config.fabricSecond c).extractLsb' (16 * k) 16
    let on := (if nets.getLsbD n.1 then ~~~second else 0) ||| (if nets.getLsbD n.2 then second else 0)
    m ||| (on.setWidth 3072 <<< (16 * k))) 0
/-- What the design of a region in RUN has done since it was last looked at is open, but for what R355, R357 and R359 keep:
a net without a source is low and has no edge, flip-flops, memory blocks and queues on nets without an edge hold, and the
queue controllers have their rules. -/
def fabricRun (r : Nat) (s : State) : State :=
  if regionState s r != 3 || stopping s r then s else
  let i := s.free
  let c := cfgOf s r
  let live := ~~~(deadNets s r)
  let nets := (Config.fabricNets i r).1 &&& live
  let edges := (Config.fabricNets i r).2 &&& live
  let on := flopsOn c edges
  let port (m : Nat) : Bool × Bool := (edges.getLsbD (Config.fabricBlockNets c m).1, edges.getLsbD (Config.fabricBlockNets c m).2)
  modFab r (fun f => { f with
    nets := nets
    gate := Config.fabricGate i r
    ff := (f.ff &&& ~~~on) ||| (Config.fabricFlops i r &&& on)
    mem := (List.range 12).flatMap fun m =>
      if (port m).1 || (port m).2 then (List.range 4608).map fun j => Config.fabricByte i r (4608 * m + j)
      else (f.mem.drop (4608 * m)).take 4608
    fifos := f.fifos.map fun q =>
      let g := Config.fabricQueueRun i r q.1
      (q.1, fifoRun i r q.1 (port q.1).1 (port q.1).2 g.2.2 { q.2 with af := g.1, ae := g.2.1 }) }) { s with free := i + 1 }
/-- What regions have done so far, before a resource changes hands that may be the source of a net of theirs, or before
they do (R357). -/
def fabLook (cls i : Nat) (s : State) : State :=
  match cls with
  | 0x07 => forEach (List.range 8) fabricRun s
  | 0x0A => if i % 16 = 0 then fabricRun (i / 32) s else s
  | 0x0B => fabricRun i s
  | _ => s
/-- The nets of a region are low, and what it holds stays (R354, R371). What its design has read from the hard taps by
then is open (R360). -/
def fabricStopped (r : Nat) (s : State) : State :=
  let s := modFab r (fun f => { f with nets := 0 }) s
  let s := forEach [0, 1, 2, 3] (fun t s =>
    let f := takeFree s
    { f.2 with taps := nput 0 f.2.taps (4 * r + t) (f.1.toNat % (nget 0 s.taps (4 * r + t) + 1)) }) s
  setRegion r 4 s
/-- The nets of a region stop. -/
def fabricStop (r : Nat) (s : State) : State := fabricStopped r (fabricRun r s)
/-- Two adjacent regions pass signals through their gateway (R353). -/
def gatewayOpen (s : State) (r q : Nat) : Bool :=
  (r + 1 == q || q + 1 == r) && decide (r < 8) && decide (q < 8) && regOwner s r == regOwner s q &&
    regionState s r == 3 && regionState s q == 3
/-- The gateway inputs of region `r` from region `q`: what `q` puts to that side, or 0 (R353). -/
def gatewayIn (s : State) (r q : Nat) : BitVec 64 :=
  if gatewayOpen s r q then (fabOf s q).gate.extractLsb' (if q < r then 64 else 0) 64 else 0
/-- The user side as region start leaves it (R355): initial values from the configuration, queues empty. -/
def fabInit (s : State) (r : Nat) : Fab :=
  let c := cfgOf s r
  let q := (List.range 12).filterMap fun m => (Config.fabricQueue c m).map fun x => (m, (⟨1024 * 2 ^ x.1.val, 0, 0, x.2.1, x.2.2, false, false, [], []⟩ : Fifo))
  ⟨Config.fabricInit c, (c.drop 614400).take 55296, q, 0, 0, (fabOf s r).req⟩
/-- Region start (R355): queues empty, RUN. -/
def regionStart (r : Nat) (s : State) : State :=
  let s := forEach [0, 1, 2, 3] (fun t s => { s with taps := nput 0 s.taps (4 * r + t) 0 }) s
  let f := fabInit s r
  let s := setRegion r 3 (modFab r (fun _ => f) { s with free := s.free + 1 })
  forEach (List.range 8) (netPin r) s
/-- The regions of a mask. -/
def regionsOf (w : Word) : List Nat := bitsOf w 8

/-! ## Load sessions (R364–R369) -/

/-- The session with a number. -/
def sessionOf (s : State) (sr : Nat) : Option Session := s.sessions.find? fun x => x.sr == sr
/-- The regions of a session. -/
def Session.regions (x : Session) : List Nat := regionsOf (dW x.hdr 2)
/-- A session holds a region (R366). -/
def sessionHolds (s : State) (r : Nat) : Bool := s.sessions.any fun x => x.regions.contains r
/-- A region is held by a session or by READBACK (R371). -/
def regionHeld (s : State) (r : Nat) : Bool := sessionHolds s r || busy s 0x0B r
/-- Change a session. -/
def putSession (x : Session) (s : State) : State := { s with sessions := s.sessions.map fun y => if y.sr == x.sr then x else y }
/-- A session is gone, and STAT.SESSION of its regions clears. -/
def dropSession (x : Session) (s : State) : State :=
  forEach x.regions (fun r s => setB (fbk r 0) 3 false s) { s with sessions := s.sessions.filter fun y => y.sr != x.sr }
/-- A load fails with a code (R368): the regions that were being written are EMPTY. -/
def loadFail (x : Session) (code : Nat) (s : State) : State :=
  let s := dropSession x s
  forEach x.regions (fun r s =>
    let s := if x.data.isEmpty then s else setF (fbk r 0) 15 8 code (regionClear r s)
    raiseHw (0x0E8 + r) none (0x38 + r) (regOwner s r) s) s
/-- The bytes that the final CRC covers (R365). -/
def streamBytes (x : Session) : List Byte := x.hdr.flatMap wordBytes ++ x.data
/-- The CMAC key, and whether one has been written. -/
def cmacKey (s : State) : List Byte := (List.range 16).map fun i => memRd nvmDflt s.nvm (0x4200 + i)
def keySet (s : State) : Bool := rb s ⟨.nvm, 0, 0⟩ 4
/-- The final check of a stream (R368). -/
def loadOk (s : State) (x : Session) (crc : Word) (tag : List Word) : Bool :=
  crc32 (streamBytes x) == crc &&
  (!bit (dW x.hdr 2) 8 || cmac (cmacKey s) (streamBytes x ++ wordBytes crc) == tag.flatMap wordBytes)
/-- BIT_END's outcome (R368). -/
def loadEnd (x : Session) (crc : Word) (tag : List Word) (s : State) : Nat × State :=
  if x.frame < (dW x.hdr 3).toNat then (0x0D, loadFail x 0x0D s)
  else if !loadOk s x crc tag then (0x0F, loadFail x 0x0F s)
  else
    let s := dropSession x s
    (0x00, forEach (x.regions.zipIdx) (fun ri s =>
      let r := ri.1
      let s := setCfg r ((x.data.drop (671744 * ri.2)).take 671744) s
      let s := wr (fbk r 4) (dW x.hdr 4) (wr (fbk r 8) (dW x.hdr 5) (setF (fbk r 0) 15 8 0 (setRegion r 2 s)))
      if x.hold then s else regionStart r s) s)

/-- Command body of BIT_BEGIN (R366). -/
def bodyBitBegin (c : Cmd) (s : State) : Ans :=
  let h := c.pay.drop 1
  let regs := regionsOf (dW h 2)
  if dW h 0 != 0x46514254 || fld (dW h 1) 31 24 != 1 || regs.isEmpty || (dW h 3).toNat != 164 * regs.length then
    Ans.fail s 0x06 (if dW h 0 != 0x46514254 then 1 else if fld (dW h 1) 31 24 != 1 then 2 else if regs.isEmpty then 3 else 4) 0xC0 []
  else if regs.any fun r => regOwner s r != c.part then Ans.deny c s 3 []
  else if fld (dW h 1) 15 0 != 0x7196 || fld (dW h 1) 23 16 != 0x60 then Ans.fail s 0x0E 2 0 []
  else if (s.fabAuth && !bit (dW h 2) 8) || (bit (dW h 2) 8 && !keySet s) then Ans.fail s 0x0F 3 0 []
  else if regs.any (regionHeld s) then Ans.fail s 0x02 3 0xC2 []
  else
    let sr := regs.headD 0
    let x : Session := ⟨sr, c.part, bit (pw c 0) 0, h, 0, 0, [], [], false, 1000000000, none⟩
    Ans.ok (forEach regs (fun r s => setB (fbk r 0) 3 true s) { s with sessions := s.sessions ++ [x] }) [BitVec.ofNat 32 sr]
/-- The last chunk of a frame has come, with the CRC given for it (R367): 0, or the code of a first or a second failure
of the frame. A first failure counts and raises in the region that the frame belongs to. -/
def frameIn (x : Session) (buf : List Byte) (fcrc : Word) (s : State) : Nat × State :=
  if crc32 buf == fcrc then
    let s := if x.data.isEmpty then forEach x.regions (fun r s => setRegion r 1 (regionClear r s)) s else s
    (0, putSession { x with buf := [], chunk := 0, frame := x.frame + 1, data := x.data ++ buf, failed := false, rem := 1000000000 } s)
  else if !x.failed then
    let s := putSession { x with buf := [], chunk := 0, failed := true, rem := 1000000000 } s
    let r := x.regions.getD (x.frame / 164) 0
    (0xC4, raiseHw (0x0E0 + r) none (0x38 + r) (regOwner s r) (incR (fbk r 0xD0) s))
  else (0xC5, loadFail x 0x0D s)
/-- Command body of BIT_DATA (R367). -/
def bodyBitData (c : Cmd) (s : State) : Ans :=
  let w := pw c 0
  let sr := fld w 2 0
  let ch := fld w 10 8
  match sessionOf s sr with
    | none => Ans.fail s 0x06 0 0xC1 []
    | some x =>
      if x.part != c.part || x.fin.isSome then Ans.fail s 0x06 0 0xC1 []
      else if ch != x.chunk || fld w 26 16 != x.frame || decide ((dW x.hdr 3).toNat ≤ x.frame) then
        Ans.fail (putSession { x with rem := 1000000000 } s) 0x06 0 0xC3 []
      else
        let buf := x.buf ++ ((c.pay.drop 1).take 128).flatMap wordBytes
        if ch < 7 then Ans.ok (putSession { x with buf := buf, chunk := ch + 1, rem := 1000000000 } s) []
        else
          let r := frameIn x buf (pw c 129) s
          if r.1 = 0 then Ans.ok r.2 [] else Ans.fail r.2 0x06 0 r.1 []
/-- Command body of BIT_END (R368). -/
def bodyBitEnd (c : Cmd) (s : State) : Ans :=
  let sr := fld (pw c 0) 2 0
  match sessionOf s sr with
    | none => Ans.fail s 0x06 0 0xC1 []
    | some x =>
      if x.part != c.part || x.fin.isSome then Ans.fail s 0x06 0 0xC1 []
      else if c.pay.length != (if bit (dW x.hdr 2) 8 then 6 else 2) then Ans.fail s 0x05 0xFF 0 []
      else if opsFull s c.q then Ans.fail s 0x02 0xFF 0 []
      else Ans.long c (.bitEnd sr) (putSession { x with fin := some (pw c 1, c.pay.drop 2) } s)
/-- The final check of a session is made (R368). -/
def bitEndDone (sr : Nat) (s : State) : State :=
  match sessionOf s sr, s.ops.find? (fun o => o.kind == .bitEnd sr) with
  | some x, some o =>
    match x.fin with
    | none => s
    | some (crc, tag) =>
      let r := loadEnd x crc tag s
      complete o.q o.tag r.1 [] r.2
  | _, _ => s
/-- A session has received no BIT_DATA for 1 s (R369). -/
def sessionTimeout (sr : Nat) (s : State) : State :=
  match sessionOf s sr with
  | some x => if x.fin.isNone && x.rem == 0 then loadFail x 0x0D s else s
  | none => s

/-! ## REGION_CTL and READBACK (R371, R372) -/

/-- Whether an OP of REGION_CTL is permitted from a state. -/
def regOpMay (op st : Nat) : Bool :=
  match op with
  | 0 => st == 3 || st == 4 || st == 2
  | 1 => st == 2
  | 2 => st == 3
  | 3 => st == 4
  | _ => st == 2 || st == 4 || st == 3
/-- The effect of an OP of REGION_CTL. -/
def regOp (op r : Nat) (s : State) : State :=
  match op with
  | 0 => setRegion r 2 s
  | 1 => regionStart r s
  | 2 => fabricStop r s
  | 3 => forEach (List.range 8) (netPin r) (setRegion r 3 s)
  | _ => regionClear r s
/-- CLKSTOP (R371). A net that is low stops at once and one that is high at its next falling edge; which are still high
10 µs later is open. The reply follows when all nets are low: now, or as CLKSTOP_FORCE forces them. -/
def clkStop (r : Nat) (c : Cmd) (s : State) : Ans :=
  let s := fabricRun r s
  let f := takeFree s
  let high := (fabOf s r).nets &&& f.1.setWidth 8
  if high = 0 then Ans.ok (fabricStopped r f.2) []
  else ⟨{ modFab r (fun x => { x with nets := high }) f.2 with clkstop := some (r, ⟨c.q, c.tag, c.notify, c.part⟩) }, 0, [], true⟩
/-- Command body of REGION_CTL with one OP. -/
def bodyRegion (op : Nat) (c : Cmd) (s : State) : Ans :=
  let w := pw c 0
  let r := fld w 2 0
  if regOwner s r != c.part then Ans.deny c s 0 []
  else if regionHeld s r then Ans.fail s 0x02 0 0 []
  else if !regOpMay op (regionState s r) then Ans.fail s 0x06 0 0xC6 []
  else if op = 2 then clkStop r c s
  else Ans.ok (regOp op r s) []
/-- The nets still high 10 µs after CLKSTOP are forced low, and the command that waits is replied to (R371). A region that
a reaction or STANDBY has taken from RUN by then is left where it is. -/
def clkForce (r : Nat) (s : State) : State :=
  match s.clkstop with
  | some (q, w) =>
    if q != r then s else
    let s := if regionState s r == 3 then setB (fbk r 0) 5 true (fabricStopped r s) else s
    { firstReply w.q 0 w.tag w.notify [] s with insWait := s.insWait.erase w, clkstop := none }
  | none => s
/-- Bytes of a READBACK image. -/
def imageBytes (mem : Bool) : Nat := if mem then 55680 else 384
/-- Command body of READBACK (R372). -/
def bodyReadback (c : Cmd) (s : State) : Ans :=
  let r := fld (pw c 0) 2 0
  let m := bit (pw c 0) 8
  let d := (pw c 1).toNat
  let n := imageBytes m
  let o := d - 0x30000000
  if d % 16 ≠ 0 then Ans.fail s 0x06 1 0 []
  else if d < 0x30000000 ∨ 0x31000000 < d + n then
    (if regOwner s r != c.part then Ans.deny c s 0 [] else Ans.fail s 0x06 1 0xC7 [])
  else if regOwner s r != c.part then Ans.deny c s 0 []
  else if (List.range ((o + n - 1) / 4096 + 1 - o / 4096)).any fun k => ownerOf s 0x0E (o / 4096 + k) != c.part then Ans.deny c s 1 []
  else if regionState s r < 2 then Ans.fail s 0x06 0 0xC6 []
  else if regionHeld s r then Ans.fail s 0x02 0 0 []
  else if opsFull s c.q then Ans.fail s 0x02 0xFF 0 []
  else Ans.long c (.readback r o m (regionState s r == 4)) s
/-- The READBACK of a region. -/
def readbackOp (s : State) (r : Nat) : Option LongOp :=
  s.ops.find? fun o => match o.kind with | .readback x _ _ _ => x == r | _ => false
/-- The words of a READBACK image (R372): flip-flops, then memory blocks. In RESET the spec does not say what they are
held at, and the words are open. -/
def fabImage (s : State) (r n : Nat) : List Word :=
  let f := fabOf s r
  let w (bs : List Byte) (i : Nat) : Word := bytesWord ((bs.drop (4 * i)).take 4)
  (List.range (n / 4)).map fun i =>
    if regionState s r = 2 then Config.fabricImage s.free r i
    else if i < 96 then f.ff.extractLsb' (32 * i) 32 else w f.mem (i - 96)
/-- The image is complete (R372). Of a region that is not STOPPED it shows what its design held at some moment. -/
def readbackDone (r : Nat) (s : State) : State :=
  match readbackOp s r with
  | none => s
  | some o =>
    match o.kind with
    | .readback _ dest m coh =>
      let n := imageBytes m
      let s := fabricRun r s
      let img := fabImage s r n
      let coh := coh && regionState s r == 4
      complete o.q o.tag 0 [BitVec.ofNat 32 (n + 2 ^ 31 * coh.toNat)] (putMemW dest img { s with free := s.free + 1 })
    | _ => s

/-! ## Requests (R363) -/

/-- A latched request of a region is taken; `merged` further edges fell while it was held. A request that was latched
in RUN stays held until it is taken, whatever the region's state then (R39, R354). -/
def fabRequest (r k merged : Nat) (s : State) : State :=
  if regionState s r != 3 && regionState s r != 4 && !(fabOf s r).req.getLsbD k then s else
  let s := modFab r (fun f => { f with req := f.req &&& ~~~(BitVec.ofNat 16 (2 ^ k)) }) s
  let s := wr (fbk r 0xCC) (rd s (fbk r 0xCC) + BitVec.ofNat 32 merged) s
  let m := rd s (fbk r (0x40 + 4 * k))
  let p := regOwner s r
  match fld m 1 0 with
  | 1 =>
    let l := rf s (cvk r 0) 3 0
    if !rb s (cvk r 0) 4 then s
    else if ownerOf s 0x09 (supIdx r l) == p then supRequest ⟨r, 1, l, none, none, false, none⟩ s
    else refuse p (0x38 + r) s
  | 2 =>
    let c := fld m 13 8
    if dmaOwner s c == p then dmaStart c s else refuse p (0x38 + r) s
  | _ => s

/-- The states that a HALT reaction, and STANDBY, give a region (R354). -/
def regionHalt (r : Nat) (s : State) : State :=
  if regionState s r = 3 ∨ regionState s r = 4 then setRegion r 2 s else s
def regionStandby (r : Nat) (s : State) : State := if regionState s r = 3 then fabricStop r s else s
/-- RELEASE and PART_RESET clear a region, and its registers (R354, R91). -/
def regionRelease (r : Nat) (s : State) : State :=
  let s := regionClear r s
  forEach ([0, 4, 8, 0xC, 0x80, 0xC0, 0xC4, 0xC8, 0xCC, 0xD0] ++ (List.range 8).map (0x10 + 4 * ·) ++
    (List.range 16).map (0x40 + 4 * ·) ++ (List.range 12).map (0x90 + 4 * ·)) (fun o s => rstR (fbk r o) s) s
/-- A region's fabric PLL locks (R356). -/
def fabPllLock (r : Nat) (s : State) : State := if rb s (fbk r 0xC) 16 then setB (fbk r 0) 4 true s else s
/-- The frames of a bit-stream as they are read from flash, until the session ends (R367, R370). -/
def flashFrames (sr : Nat) : List (List Byte × Word) → State → State
  | [], s => s
  | f :: fs, s =>
    match sessionOf s sr with
    | some x => if (dW x.hdr 3).toNat ≤ x.frame then s else flashFrames sr fs (frameIn x f.1 f.2 s).2
    | none => s
/-- The checks of R364 to R368 on a bit-stream from flash, on behalf of P0, and its load where they pass: 0 or RESULT.
RESULT of a header that names another device or other regions is not stated: open (log entry 45). -/
def bootCheck (hold : Bool) (regs : List Nat) (f : FlashStream) (s : State) : Nat × State :=
  let h := f.hdr
  if dW h 0 != 0x46514254 || dW h 1 != 0x01607196 || regs.isEmpty || regionsOf (dW h 2) != regs || (dW h 3).toNat != 164 * regs.length then
    let a := takeFree s
    (if a.1.getLsbD 0 then 0x0D else 0x0F, a.2)
  else if (s.fabAuth && !bit (dW h 2) 8) || (bit (dW h 2) 8 && !keySet s) then (0x0F, s)
  else
    let sr := regs.headD 0
    let s := flashFrames sr f.reads { s with sessions := s.sessions ++ [⟨sr, 0, hold, h, 0, 0, [], [], false, 0, none⟩] }
    match sessionOf s sr with
    | some x => loadEnd x f.crc f.tag s
    | none => (0x0D, s)
/-- A load from flash ends (R370): one that fails leaves its regions EMPTY with their RESULT, and raises their source at
NOTIFY in place of its default. -/
def bootLoad (hold : Bool) (regs : List Nat) (f : FlashStream) (s : State) : State :=
  let r := bootCheck hold regs f s
  if r.1 = 0 then r.2 else
  forEach regs (fun i s => report { hwReport (0x0E8 + i) none (0x38 + i) (regOwner s i) with sev := some 1 } (setF (fbk i 0) 15 8 r.1 (regionClear i s)))
    { r.2 with rep := r.2.rep.filter fun x => x.src / 8 != 0x1D }

end Sys2Proof.Machine
end

