-- ==== Sys2Proof/Machine/Rom.lean ====
section
/-! DEFINITION. The response library (R240–R251): the index map, the design rules of each family worked
in fixed point with 128 fraction bits, the published figures and the descriptor words. -/

namespace Sys2Proof.Machine

/-! ## Fixed-point functions with 128 fraction bits -/

/-- One. -/
def fxOne : Nat := 2 ^ 128
/-- The number π. -/
def fxPi : Nat := 1069028584064966747859680373161870783300
/-- Product of two fixed-point numbers. -/
def fxMul (a b : Nat) : Nat := a * b / fxOne
/-- Terms of the sine series: the term in hand, θ², the step, the sum so far and the sign. -/
def sinTerms : Nat → Nat → Nat → Nat → Int → Bool → Int
  | 0, _, _, _, acc, _ => acc
  | f + 1, t, q, k, acc, neg =>
    sinTerms f (fxMul t q / ((2 * k + 2) * (2 * k + 3))) q (k + 1) (if neg then acc - t else acc + t) (!neg)
/-- sin(π n / d). -/
def sinPi (n d : Nat) : Int :=
  let m := n % (2 * d)
  let r := m % d
  let r := if d < 2 * r then d - r else r
  let th := fxPi * r / d
  let v := sinTerms 40 th (fxMul th th) 0 0 false
  if d ≤ m then -v else v
/-- sinc(n / d). -/
def fxSinc (n d : Nat) : Int := if n = 0 then fxOne else sinPi n d * d * fxOne / (fxPi * n : Nat)
/-- The series of the Bessel function I0 in y = (x/2)². -/
def besselTerms : Nat → Nat → Nat → Nat → Nat → Nat
  | 0, _, _, _, acc => acc
  | f + 1, t, y, k, acc => besselTerms f (fxMul t y / ((k + 1) * (k + 1))) y (k + 1) (acc + t)
/-- I0(β √(1 − (n/d)²)) from β². -/
def kaiser (beta2 n d : Nat) : Nat := besselTerms 100 fxOne (beta2 * (d * d - n * n) / (4 * d * d)) 0 0
/-- The exponential series. -/
def expTerms : Nat → Nat → Nat → Nat → Nat → Nat
  | 0, _, _, _, acc => acc
  | f + 1, t, n, k, acc => expTerms f (fxMul t n / (k + 1)) n (k + 1) (acc + t)
/-- exp(−n / d). -/
def expNeg (n d : Nat) : Nat := fxOne * fxOne / expTerms 120 fxOne (fxOne * n / d) 0 0
/-- Bits of a fifth root, from bit `b` − 1 down. -/
def root5Bits : Nat → Nat → Nat → Nat
  | 0, _, r => r
  | b + 1, n, r => root5Bits b n (if (r + 2 ^ b) ^ 5 ≤ n then r + 2 ^ b else r)
/-- x^0.4 of an integer. -/
def pow04 (x : Nat) : Nat := root5Bits 140 (x * x * fxOne ^ 5) 0

/-! ## Families (R240, R243, R246, R247) -/

/-- FAM of a response. -/
def romFam (i : Nat) : Nat :=
  if i = 0 then 0 else if i ≤ 162 then 1 else if i ≤ 324 then 2 else if i ≤ 369 then 3 else if i ≤ 440 then 4 else 5
/-- The class list of R243. -/
def romClasses : List Nat :=
  [2, 3, 4, 5, 6, 8, 10, 12, 16, 20, 24, 32, 40, 48, 64, 80, 96, 128, 160, 192, 256, 320, 384, 512, 640, 768, 1024]
/-- Variants of R243: length factor, band edges in 1/100, attenuation. -/
def romVariant : Nat → Nat × Nat × Nat × Nat
  | 0 => (4, 20, 80, 40) | 1 => (6, 25, 75, 50) | 2 => (8, 25, 75, 64) | 3 => (12, 25, 75, 90) | 4 => (16, 35, 65, 75)
  | _ => (24, 40, 60, 75)
/-- Class position × 6 + variant of a low-pass response. -/
def romPv (i : Nat) : Nat := if i ≤ 162 then i - 1 else i - 163
/-- Decimation class of a low-pass response. -/
def romD (i : Nat) : Nat := romClasses.getD (romPv i / 6) 2
/-- Length of a linear-phase response of class and variant. -/
def romLinLen (i : Nat) : Nat := min 256 ((romVariant (romPv i % 6)).1 * romD i + 1)
/-- Length step and fraction of a fractional-delay response. -/
def romFracL (i : Nat) : Nat := match (i - 325) / 15 with | 0 => 8 | 1 => 32 | _ => 64
def romFracF (i : Nat) : Nat := (i - 325) % 15 + 1
/-- Width step of a Gaussian or edge response; σ is (k + 2)/4. -/
def romK (i : Nat) : Nat := if i ≤ 440 then i - 370 else i - 441
/-- Length of a response. -/
def romLen (i : Nat) : Nat :=
  match romFam i with
  | 0 => 1
  | 1 => romLinLen i
  | 2 => min 256 (8 * ((romLinLen i + 7) / 8))
  | 3 => romFracL i
  | _ => 2 * (romK i + 2) + 1

/-! ## Coefficients (R241–R247) -/

/-- β² of an attenuation (R244). -/
def betaSq (a : Nat) : Nat :=
  if 50 < a then fxOne * (1102 * (10 * a - 87)) ^ 2 / 10 ^ 10
  else
    let b := 5842 * pow04 (a - 21) / 10000 + fxOne * 7886 * (a - 21) / 100000
    fxMul b b
/-- Round design values whose sum is scaled to 1, and add the residue to a tap (R242). -/
def quantise (h : List Int) (tap : Nat) : List Int :=
  let c := h.map fun x => roundDiv (131072 * x) (h.foldl (· + ·) 0).toNat
  let res := 131072 - c.foldl (· + ·) 0
  c.mapIdx fun j x => if j = tap then x + res else x
/-- A linear-phase response (R244). -/
def linCoeffs (len d a : Nat) : List Int :=
  let b2 := betaSq a
  quantise ((List.range len).map fun j =>
    let x := (2 * (j : Int) - (len : Int) + 1).natAbs
    fxSinc x (2 * d) * kaiser b2 x (len - 1) / fxOne) ((len - 1) / 2)
/-- A fractional-delay response (R246), in units of 1/16 sample. -/
def fracCoeffs (len f : Nat) : List Int :=
  let b2 := 36 * fxOne
  quantise ((List.range len).map fun j =>
    let x := (16 * (j : Int) - (8 * len - 16 + f : Nat)).natAbs
    fxSinc x 16 * kaiser b2 x (8 * len) / fxOne) (if f ≤ 8 then len / 2 - 1 else len / 2)
/-- Values exp(−(j − c)² ÷ 2σ²) of R247. -/
def gaussVals (k : Nat) : List Nat :=
  (List.range (2 * (k + 2) + 1)).map fun j =>
    let x := ((j : Int) - (k + 2 : Nat)).natAbs
    expNeg (8 * x * x) ((k + 2) * (k + 2))
/-- A Gaussian response (R247). -/
def gaussCoeffs (k : Nat) : List Int := quantise ((gaussVals k).map fun v => (v : Int)) (k + 2)
/-- An edge response (R247). -/
def edgeCoeffs (k : Nat) : List Int :=
  let g := (gaussVals k).mapIdx fun j v => (((k + 2 : Nat) : Int) - j) * v
  let m := (g.mapIdx fun j v => (((k + 2 : Nat) : Int) - j) * v).foldl (· + ·) 0
  g.map fun v => roundDiv (131072 * v) m.toNat
/-- The shortest prefix whose energy times 1,000 reaches `need`. -/
def prefixLen (need : Nat) : List Int → Nat → Nat → Nat
  | [], _, n => n
  | c :: cs, acc, n => if need ≤ 1000 * (acc + c.natAbs * c.natAbs) then n + 1 else prefixLen need cs (acc + c.natAbs * c.natAbs) (n + 1)
/-- Effective length E of coefficients (R248). -/
def effLen (cs : List Int) : Nat := prefixLen (999 * (cs.map fun c => c.natAbs * c.natAbs).sum) cs 0 0
/-- Index of the largest magnitude, the lowest on a tie. -/
def peakIdx (cs : List Int) : Nat :=
  (cs.zipIdx.foldl (fun (b : Nat × Nat) c => if b.1 < c.1.natAbs then (c.1.natAbs, c.2) else b) (0, 0)).2
/-- The DC delay of coefficients in units of 1/16 sample (R248). -/
def dcDelay (cs : List Int) : Nat :=
  (roundDiv (16 * (cs.mapIdx fun j c => (j : Int) * c).foldl (· + ·) 0) (cs.foldl (· + ·) 0).toNat).toNat
/-- What R241, R242 and R245 say of the coefficients of minimum-phase response `i`, and the chapter's worked example of
response 202: their number, their range, their sum, a delay shorter than that of the linear-phase counterpart, and for
202 its E, TAU and PEAK. -/
def minPhaseOk (i : Nat) (cs : List Int) : Bool :=
  cs.length == romLen i && cs.all (fun c => decide (c.natAbs ≤ 131071)) && cs.foldl (· + ·) 0 == 131072 &&
    decide (dcDelay cs < 8 * (romLinLen i - 1)) && (i != 202 || (effLen cs == 40 && dcDelay cs == 294 && peakIdx cs == 14))
/-- Coefficients that meet it, so that the free ones below always do. -/
def minPhaseSome (i : Nat) : List Int :=
  (List.range (romLen i)).map fun j =>
    if i = 202 then (match j with | 14 => 100000 | 20 => 4064 | 21 => 7008 | 39 => 20000 | _ => 0)
    else if j < 2 then 65536 else 0
/-- A minimum-phase response: the ROM is authoritative (R245), so that its design values are open, within what the spec
states of the coefficients to which R242 rounds them, the residue going to the peak tap. The spectral factor of R245 is no
single sequence: its prototype changes sign in the stopband; log entry 62. -/
def minPhase (i : Nat) : List Int :=
  let h := (List.range (romLen i)).map (Config.minPhaseDesign i)
  let cs := quantise h (peakIdx h)
  if minPhaseOk i cs then cs else minPhaseSome i
/-- The coefficients of a response (R240–R247). -/
def romCoeffs (i : Nat) : List Int :=
  match romFam i with
  | 0 => [131072]
  | 1 => linCoeffs (romLen i) (romD i) (romVariant (romPv i % 6)).2.2.2
  | 2 => minPhase i
  | 3 => fracCoeffs (romFracL i) (romFracF i)
  | 4 => gaussCoeffs (romK i)
  | _ => edgeCoeffs (romK i)

/-! ## Published figures (R245, R248) -/

/-- Effective length E. -/
def romE (i : Nat) : Nat := effLen (romCoeffs i)
/-- Delay τ in units of 1/16 sample. -/
def romTau (i : Nat) : Nat :=
  match romFam i with
  | 0 => 0
  | 2 => dcDelay (romCoeffs i)
  | 3 => 8 * romFracL i - 16 + romFracF i
  | _ => 8 * (romLen i - 1)
/-- PEAK: of minimum-phase responses only. -/
def romPeak (i : Nat) : Nat := if romFam i != 2 then 0 else peakIdx (romCoeffs i)
/-- A fraction n/d times 2^32, rounded to nearest. -/
def frac32 (n d : Nat) : Word := BitVec.ofNat 32 ((2 * n * 2 ^ 32 + d) / (2 * d))
/-- Passband edge of a response, and its stopband edge. -/
def romPass (i : Nat) : Word :=
  match romFam i with
  | 1 => frac32 (romVariant (romPv i % 6)).2.1 (100 * romD i)
  | 2 => frac32 (romVariant (romPv i % 6)).2.1 (100 * romD i)
  | 3 => frac32 (match romFracL i with | 8 => 20 | 32 => 40 | _ => 45) 100
  | 4 => frac32 (4 * 1325) (10000 * (romK i + 2))
  | _ => 0
def romStop (i : Nat) : Word :=
  match romFam i with
  | 1 => frac32 (romVariant (romPv i % 6)).2.2.1 (100 * romD i)
  | 2 => frac32 (romVariant (romPv i % 6)).2.2.1 (100 * romD i)
  | 4 => if 10000 * (romK i + 2) < 2 * 4 * 5916 then 0 else frac32 (4 * 5916) (10000 * (romK i + 2))
  | _ => 0
/-- The gain at half the input rate, times 2^17. -/
def nyquist (cs : List Int) : Nat := ((cs.mapIdx fun j c => if j % 2 = 0 then c else -c).foldl (· + ·) 0).natAbs
/-- Whole decibels of attenuation of a gain g/2^17, rounded down; `fuel` bounds them. -/
def wholeDb : Nat → Nat → Nat
  | 0, _ => 0
  | a + 1, g => if 10 ^ (a + 1) * g ^ 20 ≤ 131072 ^ 20 then a + 1 else wholeDb a g
/-- The squared gain of coefficients at frequency n/d of the input rate, times 2^34, whole: the sum of C_j e^(−2πi jn/d)
by rotation in fixed point. -/
def respPower (cs : List Int) (n d : Nat) : Nat :=
  let c := sinPi (d + 4 * n) (2 * d)
  let v := sinPi (2 * n) d
  let one : Int := fxOne
  let r := cs.foldl (fun (a : Int × Int × Int × Int) k =>
    (a.1 + k * a.2.2.1, a.2.1 + k * a.2.2.2, (a.2.2.1 * c - a.2.2.2 * v) / one, (a.2.2.1 * v + a.2.2.2 * c) / one)) (0, 0, one, 0)
  (r.1 * r.1 + r.2.1 * r.2.1).toNat / (fxOne * fxOne / 2 ^ 64)
/-- Squared gains, times 2^98, from one frequency to another: at both ends and at every 1/32,768 of the input rate
between. DEDUCED, log entry 119: an extremum over the range, within 0.002 dB. -/
def respBand (cs : List Int) (n d hiN hiD : Nat) : List Nat :=
  let lo := n * 32768 / d + 1
  let hi := (hiN * 32768 + hiD - 1) / hiD
  respPower cs n d :: respPower cs hiN hiD :: (List.range (hi - lo)).map fun m => respPower cs (lo + m) 32768
/-- Whole decibels of attenuation of a squared gain times 2^98, rounded down; `fuel` bounds them. -/
def powerDb : Nat → Nat → Nat
  | 0, _ => 0
  | a + 1, p => if 10 ^ (a + 1) * p ^ 10 ≤ (2 ^ 98) ^ 10 then a + 1 else powerDb a p
/-- Thousandths of a decibel, whole, between two squared gains, up to 255: steps of 10^(1/10,000) in fixed point. -/
def rippleSteps : Nat → Nat → Nat → Nat → Nat
  | 0, n, _, _ => n
  | f + 1, n, lo, hi =>
    let lo := lo * 340360728852891147911149889095731833153 / fxOne
    if lo ≤ hi then rippleSteps f (n + 1) lo hi else n
/-- Band edges of a low-pass or Gaussian response as fractions (R243, R247): its passband, its stopband. -/
def romEdges (i : Nat) : (Nat × Nat) × (Nat × Nat) :=
  if romFam i = 4 then ((4 * 1325, 10000 * (romK i + 2)), (4 * 5916, 10000 * (romK i + 2)))
  else if romFam i = 3 then ((match romFracL i with | 8 => 20 | 32 => 40 | _ => 45, 100), (0, 1))
  else (((romVariant (romPv i % 6)).2.1, 100 * romD i), ((romVariant (romPv i % 6)).2.2.1, 100 * romD i))
/-- ATTEN (R248, R250): the least attenuation from the stopband edge to 0.5, and without a stopband that at 0.5. Of an
edge response, whose DC gain is 0, and where the gain is 0, the spec states none. The worked example prints 90 for
response 40, which the rounded coefficients of R242 do not reach; the rule stands, log entry 119. -/
def romAtten (i : Nat) : Nat :=
  let cs := romCoeffs i
  if romFam i = 5 then (Config.romAtten i).toNat
  else if romStop i = 0 then
    (let g := nyquist cs; if g = 0 then (Config.romAtten i).toNat else wholeDb 255 g)
  else
    let e := (romEdges i).2
    powerDb 255 ((respBand cs e.1 e.2 1 2).foldl max 0)
/-- RIPPLE (R250): peak to peak from 0 to the passband edge, in whole thousandths of a decibel, rounded down (log entry
119). A response without a passband has none. -/
def romRipple (i : Nat) : Nat :=
  if romPass i = 0 then 0
  else
    let e := (romEdges i).1
    let ps := respBand (romCoeffs i) 0 1 e.1 e.2
    rippleSteps 255 0 ((ps.foldl min (ps.headD 0)) * 2 ^ 64) ((ps.foldl max 0) * 2 ^ 64)
/-- PARAM of a response. -/
def romParam (i : Nat) : Nat :=
  match romFam i with
  | 0 => 0 | 3 => romFracF i | 4 => 4 * (romK i + 2) | 5 => 4 * (romK i + 2) | _ => romPv i % 6
/-- Word `w` of the descriptor of response i (R250). -/
def romDesc (i w : Nat) : Word :=
  match w with
  | 0 => BitVec.ofNat 32 (romLen i + 65536 * romE i + 2 ^ 28 * romFam i)
  | 1 => BitVec.ofNat 32 ((if romFam i = 1 ∨ romFam i = 2 then romD i else 1) + 65536 * romTau i)
  | 2 => romPass i
  | 3 => romStop i
  | 4 => BitVec.ofNat 32 (romAtten i + 256 * romRipple i + 65536 * romPeak i)
  | 5 => if romFam i = 5 then 0 else intW ((romCoeffs i).foldl (· + ·) 0)
  | 6 => BitVec.ofNat 32 (romParam i)
  | _ => 0
/-- Coefficient j of response i in the coefficient window (R251). -/
def romCoefW (i j : Nat) : Word := intW ((romCoeffs i).getD j 0)

end Sys2Proof.Machine
end

