-- ==== Sys2Proof/Machine/Correction.lean ====
section
/-! DEFINITION. Calibration and self-test: collection, the compute stage and its checks, CORR_LOAD,
CAL_COMMIT (R200–R212), SELFTEST (R185–R189), the tile sample PLL and the speed sensor (R43, R44, R172,
R173), ARM and DISARM (R190–R193). -/

namespace Sys2Proof.Machine

/-! ## Summary figures -/

/-- Bits of a square root, from bit `b` − 1 down. -/
def sqrtBits : Nat → Nat → Nat → Nat
  | 0, _, r => r
  | b + 1, n, r => sqrtBits b n (if (r + 2 ^ b) * (r + 2 ^ b) ≤ n then r + 2 ^ b else r)
/-- A quotient held in a register; where it falls between two values, which one is open. -/
def figure (num : Int) (den : Nat) : Int :=
  if num % (den : Int) = 0 then num / den else num / den + (Config.figureRoundUp num.natAbs).toNat
/-- A square root of a quotient held in a register, likewise. -/
def figureRoot (num den : Nat) : Nat :=
  let r := sqrtBits 32 (num / den) 0
  if r * r * den = num then r else r + (Config.figureRoundUp num).toNat

/-! ## Collected lines (R200, R201) -/

/-- Accumulator entry of a pixel. -/
def accPx (a : AccSt) (i : Nat) : Int × Nat × Bool := a.px.getD i (0, 0, false)
/-- A line enters an accumulator. -/
def accLine (a : AccSt) (ps : List Mk) : AccSt :=
  ⟨a.n + 1, ps.mapIdx fun i p =>
    let x := accPx a i
    (x.1 + p.1, x.2.1 + p.1.natAbs * p.1.natAbs, x.2.2 || p.2)⟩
/-- The CAL_RUN that names a channel, if outstanding. -/
def calOf (s : State) (n : Nat) : Option (LongOp × CalSt) :=
  s.ops.findSome? fun o => match o.kind with | .calRun c => if c.chans.contains n then some (o, c) else none | _ => none
/-- A channel has collected what its phase asks, or has failed. -/
def calDone (s : State) (n : Nat) : Bool := (chan s n).calLeft == 0 || (chan s n).calRes != 0

/-- CAL_RUN's outcome (R206). -/
def calFinish (q tag : Nat) (c : CalSt) (s : State) : State :=
  let s := forEach c.chans (fun n s =>
    let r := (chan s n).calRes
    let s := setF (ck n 0) 6 4 0 s
    if !c.compute then s else
      let s := setF (ck n 0) 15 8 r s
      if r = 0 then s else setB (ck n 0) 1 false s) s
  let bad := c.chans.filter fun n => (chan s n).calRes != 0
  match bad with
  | [] => complete q tag 0x00 [BitVec.ofNat 32 c.chans.length] s
  | n :: _ => complete q tag 0x0A [detail (1 + n / 32) (chan s n).calRes,
      BitVec.ofNat 32 (n + 256 * bad.length + 65536 * (c.chans.length - bad.length))] s
/-- A stage of CAL_RUN begins (R201): 0 dark, 1 white, 2 compute. A line that started before it belongs to no phase. -/
def calStage (q tag : Nat) (c : CalSt) (s : State) : State :=
  let s := setOp q tag (.calRun c) s
  if c.stage = 2 then
    if c.compute then forEach c.chans (fun n s => setF (ck n 0) 6 4 3 s) s else calFinish q tag c s
  else
    let s := forEach c.chans (fun n s =>
      let s := modChan n (fun x => { x with line := x.line.map fun l => { l with cal := false }, calSkip := c.settle, calLeft := c.lines,
                                            dk := if c.stage = 0 then ⟨0, []⟩ else x.dk, wt := if c.stage = 1 then ⟨0, []⟩ else x.wt }) s
      setF (ck n 0) 6 4 (c.stage + 1) (setB (ck n 0) (2 + c.stage) false s)) s
    if c.stage = 0 then forEach c.dkports (fun n s => ffDark n c.code s) s else s
/-- The first stage, and the one after a stage. -/
def calFirst (c : CalSt) : Nat := if c.dark then 0 else if c.white then 1 else 2
def calNext (c : CalSt) : Nat := if c.stage = 0 ∧ c.white then 1 else 2
/-- The DKMASK ports return to normal (R202). -/
def calLight (c : CalSt) (s : State) : State := if c.stage = 0 then forEach c.dkports (fun n s => ffDark n none s) s else s
/-- The accumulators of the channels that have collected their lines become valid. -/
def calValid (c : CalSt) (s : State) : State :=
  forEach (c.chans.filter fun n => (chan s n).calRes == 0 && (chan s n).calLeft == 0) (fun n s => setB (ck n 0) (2 + c.stage) true s) s
/-- Phases end in which every channel named is done (R201). -/
def calPass (s : State) : State :=
  forEach s.ops (fun o s => match o.kind with
    | .calRun c =>
      if decide (c.stage < 2) && c.chans.all (calDone s) then
        calStage o.q o.tag { c with stage := calNext c } (calLight c (calValid c s)) else s
    | _ => s) s
/-- Phases that have ended go on to the next stage; a phase whose channels have all failed ends at once. -/
def calAdvance (s : State) : State := calPass (calPass s)
/-- TMO runs out (R205). -/
def calTimeout (q tag : Nat) (s : State) : State :=
  match opOf s q tag with
  | none => s
  | some o =>
    match o.kind with
    | .calRun c =>
      if 2 ≤ c.stage ∨ s.tb < c.tmo then s else
      let more := decide (calNext c = 1)
      let s := calLight c (calValid c s)
      let s := forEach c.chans (fun n s => modChan n (fun x =>
        { x with calRes := if x.calRes = 0 ∧ (x.calLeft ≠ 0 ∨ more) then 5 else x.calRes, calLeft := 0 }) s) s
      calStage q tag { c with stage := 2 } s
    | _ => s
/-- A calibration is cancelled (R207). -/
def calCancel (c : CalSt) (s : State) : State :=
  let s := if c.stage = 0 then forEach c.dkports (fun n s => if (ffP s n).dark.isSome then ffDark n none s else s) s else s
  forEach c.chans (fun n s => setF (ck n 0) 6 4 0 (modChan n (fun x => { x with calLeft := 0, calSkip := 0 }) s)) s

/-! ## The compute stage (R203, R204) -/

/-- The window that the checks cover. -/
def calWin (s : State) (n : Nat) : Nat := rf s (vk n 0x1C) 30 16
/-- The active bank, and the entries of a bank below the window. -/
def actBank (s : State) (n : Nat) : Nat := rf s (ck n 0) 0 0
def bankEnts (s : State) (n b : Nat) : List Word := (List.range (calWin s n)).map (corrGet s n b)
/-- An entry's OFFSET and GAIN lie inside OFSLIM and GAINWIN. -/
def inLimits (s : State) (n : Nat) (ofs : Int) (gain : Nat) : Bool :=
  decide (sext 16 (rf s (ck n 0xC) 15 0) ≤ ofs) && decide (ofs ≤ sext 16 (rf s (ck n 0xC) 31 16)) &&
  decide (rf s (ck n 0x10) 13 0 ≤ gain) && decide (gain ≤ rf s (ck n 0x10) 29 16)
/-- Word of an entry. -/
def entWord (ofs : Int) (gain : Nat) (d : Bool) : Word :=
  BitVec.ofNat 32 ((ofs % 65536).toNat + 65536 * (gain % 16384) + 2 ^ 30 * d.toNat)
/-- The dark mean of a pixel as a quotient. -/
def darkMean (s : State) (n i : Nat) : Int × Nat :=
  if rb s (ck n 0) 2 then ((accPx (chan s n).dk i).1, max 1 (chan s n).dk.n) else (entOfs (corrGet s n (actBank s n) i), 4)
/-- A sample of a pixel collected into a valid accumulator was over-range. -/
def pixOr (s : State) (n i : Nat) : Bool :=
  (rb s (ck n 0) 2 && (accPx (chan s n).dk i).2.2) || (rb s (ck n 0) 3 && (accPx (chan s n).wt i).2.2)
/-- The entry computed for a pixel (R203). -/
def calEntry (s : State) (n i : Nat) : Word :=
  let d := darkMean s n i
  let ofs := roundDiv (4 * d.1) d.2
  let bad : Word := entWord 0 4096 true
  if rb s (ck n 0) 3 then
    let w := ((accPx (chan s n).wt i).1, max 1 (chan s n).wt.n)
    let num := w.1 * d.2 - d.1 * w.2
    let den := w.2 * d.2
    let t := rf s (ck n 8) 15 0
    if num ≤ 0 ∨ 4 * num ≤ ((t * den : Nat) : Int) then bad else
    let g := (roundDiv ((4096 * t * den : Nat) : Int) num.toNat).toNat
    if inLimits s n ofs g && !pixOr s n i then entWord ofs g false else bad
  else
    let g := entGain (corrGet s n (actBank s n) i)
    if inLimits s n ofs g && !pixOr s n i then entWord ofs g false else bad
/-- NBAD, and NMOVED against the active bank (R204). -/
def countBad (es : List Word) : Nat := (es.filter entDef).length
def countMoved (s : State) (n : Nat) (old new : List Word) : Nat :=
  let dg := rf s (ck n 0x18) 13 0
  let dO := rf s (ck n 0x18) 31 16
  ((List.zip old new).filter fun e => !entDef e.1 && !entDef e.2 &&
    ((dg != 0 && decide (dg < max (entGain e.1) (entGain e.2) - min (entGain e.1) (entGain e.2))) ||
     (dO != 0 && decide (dO < (entOfs e.1 - entOfs e.2).natAbs)))).length
/-- A noise figure of a phase (R204), in 1/16 LSB. -/
def noiseFig (a : AccSt) (w : Nat) : Nat :=
  let n := max 1 a.n
  let px := ((List.range w).map (accPx a)).filter fun x => !x.2.2
  let v := (px.map fun x => n * x.2.1 - x.1.natAbs * x.1.natAbs).sum
  if px.isEmpty then Config.emptyFigure.toNat else min 65535 (figureRoot (256 * v) (n * n * px.length))
/-- The mean of means, in 1/16 LSB, over `w` pixels that share a divisor. -/
def meanFig (xs : List Int) (den w : Nat) : Word :=
  if w = 0 then Config.emptyFigure.setWidth 32 else intW (figure (16 * xs.foldl (· + ·) 0) (den * w))
/-- Bring a shadow's figures NBAD, NMOVED and FIRSTBAD up to date. -/
def setCounts (n nbad nmoved : Nat) (first : Option Nat) (s : State) : State :=
  let s := wr (ck n 0x4C) (BitVec.ofNat 32 (nbad + 65536 * nmoved)) s
  wr (ck n 0x54) (match first with | some i => BitVec.ofNat 32 (i + 2 ^ 31) | none => 0) s
/-- Checks 1 and 2 of R204. -/
def checkShadow (s : State) (n nbad nmoved : Nat) : Nat :=
  if rf s (ck n 0x14) 14 0 < nbad then 1 else if rf s (ck n 0x1C) 14 0 < nmoved then 2 else 0
/-- The compute stage of one channel (R203, R204). -/
def computeChan (c : CalSt) (n : Nat) (s : State) : State :=
  let w := calWin s n
  let sh := 1 - actBank s n
  let es := (List.range w).map (calEntry s n)
  let old := bankEnts s n (actBank s n)
  let x := chan s n
  let s := corrFill n sh 0 es (corrIdent n sh 0 (setB (ck n 0) 1 false s))
  let nbad := countBad es
  let nmoved := countMoved s n old es
  let s := setCounts n nbad nmoved (es.findIdx? entDef) s
  let dm := (List.range w).map fun i => (darkMean s n i).1
  let s := wr (ck n 0x40) (meanFig dm (if rb s (ck n 0) 2 then max 1 x.dk.n else 4) w) s
  let s := if rb s (ck n 0) 3 then wr (ck n 0x44) (meanFig ((List.range w).map fun i => (accPx x.wt i).1) (max 1 x.wt.n) w) s else s
  let s := if rb s (ck n 0) 2 then setF (ck n 0x48) 15 0 (noiseFig x.dk w) s else s
  let s := if rb s (ck n 0) 3 then setF (ck n 0x48) 31 16 (noiseFig x.wt w) s else s
  let above (ran : Bool) (lim v : Nat) : Bool := ran && lim != 0 && decide (lim < v)
  let r := checkShadow s n nbad nmoved
  let r := if r != 0 then r
    else if above c.dark (rf s (ck n 0x20) 15 0) (rf s (ck n 0x48) 15 0) ||
            above c.white (rf s (ck n 0x20) 31 16) (rf s (ck n 0x48) 31 16) then 3 else 0
  modChan n (fun y => { y with calRes := r }) (if r = 0 then setB (ck n 0) 1 true s else s)
/-- The compute stage of CAL_RUN ends (R201, R206). -/
def calCompute (q tag : Nat) (s : State) : State :=
  match opOf s q tag with
  | none => s
  | some o =>
    match o.kind with
    | .calRun c =>
      if c.stage = 2 ∧ c.compute then
        calFinish q tag c (forEach (c.chans.filter fun n => (chan s n).calRes == 0) (computeChan c) s)
      else s
    | _ => s

/-- The channels of a 96-bit mask at payload word `i`. -/
def maskAt (c : Cmd) (i : Nat) : List Nat := mask96 (pw c i) (pw c (i + 1)) (pw c (i + 2))
/-- The first member of a list that meets a test. -/
def firstOf (l : List Nat) (p : Nat → Bool) : Option Nat := l.find? p
/-- The payload word of a mask that holds a bit. -/
def maskWord (i n : Nat) : Nat := i + n / 32
/-- A failure word naming a number. -/
def numW (n : Nat) : List Word := [BitVec.ofNat 32 n]

/-- Command body of CAL_RUN (R200). -/
def bodyCalRun (c : Cmd) (s : State) : Ans :=
  let w := pw c 0
  let chs := maskAt c 1
  let pts := maskAt c 4
  let dark := bit w 4
  let white := bit w 5
  let auto := bit w 7
  let own := firstOf chs fun n => ownerOf s 0x02 n != c.part
  let ownP := firstOf pts fun n => ownerOf s 0x04 n != c.part
  if decide (fld w 3 0 < 4) || decide (12 < fld w 3 0) then Ans.fail s 0x06 0 0 []
  else if fld (pw c 7) 15 0 = 0 then Ans.fail s 0x06 7 0 []
  else if (!dark && !white && !bit w 6) || chs.isEmpty then Ans.fail s 0x06 (if chs.isEmpty then 1 else 0) 0x46 []
  else match own, ownP with
  | some n, _ => Ans.deny c s (maskWord 1 n) (numW n)
  | none, some n => Ans.deny c s (maskWord 4 n) (numW n)
  | none, none =>
    if auto == pts.isEmpty then Ans.fail s 0x06 (if auto then 0 else 4) 0x47 []
    else match (if dark || white then firstOf chs fun n => !armed s n else none) with
    | some n => Ans.fail s 0x06 (maskWord 1 n) 0x45 (numW n)
    | none =>
      match (if bit w 6 && !dark && !white then firstOf chs fun n => !rb s (ck n 0) 2 && !rb s (ck n 0) 3 else none) with
      | some n => Ans.fail s 0x06 (maskWord 1 n) 0x44 (numW n)
      | none =>
        match firstOf chs (busy s 0x02), firstOf pts (busy s 0x04) with
        | some n, _ => Ans.fail s 0x02 (maskWord 1 n) 0 (numW n)
        | none, some n => Ans.fail s 0x02 (maskWord 4 n) 0 (numW n)
        | none, none =>
          if opsFull s c.q then Ans.fail s 0x02 0xFF 0 [] else
          let tmo := s.tb + 1000000 * fld (pw c 7) 15 0
          let k : CalSt := ⟨chs, dark, white, bit w 6, 2 ^ fld w 3 0, fld w 15 8, some (fld w 29 16), tmo, 0, pts⟩
          let k := { k with stage := calFirst k }
          let a := Ans.long c (.calRun k) s
          { a with st := forEach chs (fun n s =>
              wr (ck n 0x50) 0 (modChan n (fun x => { x with calRes := 0 }) s)) a.st }
/-- After CAL_RUN's ACCEPTED reply its first stage begins. -/
def calBegin (q tag : Nat) (s : State) : State :=
  match opOf s q tag with
  | some o => match o.kind with | .calRun c => calStage q tag c s | _ => s
  | none => s

/-! ## CORR_LOAD (R208) -/

/-- Command body of CORR_LOAD. -/
def bodyCorrLoad (c : Cmd) (s : State) : Ans :=
  let n := fld (pw c 0) 6 0
  let src := (pw c 1).toNat
  let first := fld (pw c 2) 14 0
  let count := fld (pw c 2) 30 16
  let o := src - 0x30000000
  if 95 < n then Ans.fail s 0x06 0 0 []
  else if src % 4 ≠ 0 ∨ src < 0x30000000 ∨ 0x31000000 ≤ src then Ans.fail s 0x06 1 0 []
  else if count = 0 || decide (16384 < first + count) then Ans.fail s 0x06 2 0 []
  else if 0x31000000 < src + 4 * count then Ans.fail s 0x06 1 0x48 []
  else if ownerOf s 0x02 n != c.part then Ans.deny c s 0 []
  else if (List.range ((o + 4 * count - 1) / 4096 + 1 - o / 4096)).any fun k => ownerOf s 0x0E (o / 4096 + k) != c.part then Ans.deny c s 1 []
  else if busy s 0x02 n then Ans.fail s 0x02 0 0 []
  else if opsFull s c.q then Ans.fail s 0x02 0xFF 0 []
  else Ans.long c (.corrLoad n o first count) (setF (ck n 0) 6 4 4 (setB (ck n 0) 1 false s))
/-- The CORR_LOAD of a channel. -/
def loadOp (s : State) (n : Nat) : Option LongOp :=
  s.ops.find? fun o => match o.kind with | .corrLoad m _ _ _ => m == n | _ => false
/-- CORR_LOAD ends (R208). -/
def corrLoaded (n : Nat) (s : State) : State :=
  match loadOp s n with
  | none => s
  | some o =>
    match o.kind with
    | .corrLoad _ src first count =>
      let sh := 1 - actBank s n
      let s := corrFill n sh first ((List.range count).map fun i => memW s (src + 4 * i)) s
      let es := bankEnts s n sh
      let lim := es.findIdx? fun e => !entDef e && !inLimits s n (entOfs e) (entGain e)
      let nbad := countBad es
      let nmoved := countMoved s n (bankEnts s n (actBank s n)) es
      let r := if lim.isSome then 6 else checkShadow s n nbad nmoved
      let s := setCounts n nbad nmoved (if lim.isSome then lim else es.findIdx? entDef) s
      let s := setF (ck n 0) 15 8 r (setF (ck n 0) 6 4 0 s)
      if r = 0 then complete o.q o.tag 0 [rd s (ck n 0x4C)] (setB (ck n 0) 1 true s)
      else complete o.q o.tag 0x0A [detail 0xFF r] s
    | _ => s

/-! ## CAL_COMMIT (R209–R211) and CAL_STATUS (R212) -/

/-- A 48-bit line number at payload word `i`. -/
def lineAt (c : Cmd) (i : Nat) : Nat := (pw c i).toNat + 2 ^ 32 * fld (pw c (i + 1)) 15 0
/-- A channel has started a line numbered L or higher. -/
def startedAt (s : State) (n l : Nat) : Bool := match (chan s n).lastLine with | some x => decide (l ≤ x) | none => false
/-- Command body of CAL_COMMIT (R209). -/
def bodyCalCommit (c : Cmd) (s : State) : Ans :=
  let imm := bit (pw c 0) 0
  let chs := maskAt c 4
  let l := lineAt c 1
  let dl := fld (pw c 3) 15 0
  if !imm && (dl = 0 || decide (60000 < dl)) then Ans.fail s 0x06 3 0 []
  else if chs.isEmpty then Ans.fail s 0x06 4 0 []
  else match firstOf chs fun n => ownerOf s 0x02 n != c.part with
  | some n => Ans.deny c s (maskWord 4 n) (numW n)
  | none => match firstOf chs fun n => imm && armed s n with
  | some n => Ans.fail s 0x06 (maskWord 4 n) 0x42 (numW n)
  | none => match firstOf chs fun n => !imm && !armed s n with
  | some n => Ans.fail s 0x06 (maskWord 4 n) 0x43 (numW n)
  | none => match firstOf chs (busy s 0x02) with
  | some n => Ans.fail s 0x02 (maskWord 4 n) 0 (numW n)
  | none => match firstOf chs fun n => !rb s (ck n 0) 1 with
  | some n => Ans.fail s 0x0A (maskWord 4 n) 0x07 (numW n)
  | none => match firstOf chs fun n => !imm && startedAt s n l with
  | some n => Ans.fail s 0x0B (maskWord 4 n) 0 (numW n)
  | none =>
    if opsFull s c.q then Ans.fail s 0x02 0xFF 0 []
    else Ans.long c (.calCommit chs chs (if imm then 0 else l) (s.tb + 1000000 * dl) 0 none)
      (if imm then s else forEach chs (fun n s => setF (ck n 0) 6 4 5 s) s)
/-- With IMM = 1 every channel swaps as the command is applied (R210). -/
def commitNow (q tag : Nat) (s : State) : State :=
  match opOf s q tag with
  | some o => match o.kind with
    | .calCommit left _ _ _ _ _ => forEach left (fun n s => commitSwap n (some 0) s) s
    | _ => s
  | none => s
/-- DEADLINE of a commit passes (R211). -/
def commitDeadline (q tag : Nat) (s : State) : State :=
  match opOf s q tag with
  | none => s
  | some o =>
    match o.kind with
    | .calCommit left all _ dl _ t =>
      if s.tb < dl then s
      else if t.isNone then complete q tag 0x0B [detail 0xFF 0] (forEach all (fun n s => setF (ck n 0) 6 4 0 s) s)
      else forEach (left.filter fun n => (chan s n).line.isNone) (fun n s => commitSwap n none s) s
    | _ => s
/-- Command body of CAL_STATUS (R212). -/
def bodyCalStatus (c : Cmd) (s : State) : Ans :=
  let n := fld (pw c 0) 6 0
  if 95 < n then Ans.fail s 0x06 0 0 []
  else if ownerOf s 0x02 n != c.part && c.part != 0 then Ans.deny c s 0 []
  else Ans.ok s ([0, 0x40, 0x44, 0x48, 0x4C, 0x50, 0x54, 0x58, 0x5C, 0x60].map fun o => rd s (ck n o))

/-! ## VSP, VCK and the input of a channel (R163–R167, R174, R175, R189) -/

/-- VCK would run faster than 62.5 MHz (R174). -/
def vckFast (s : State) (n : Nat) : Bool :=
  let c := rd s (tk (n / 12) 0)
  rb s (vk n 0) 4 && decide (62500000 * (fld c 15 8 * (rf s (vk n 0x14) 3 0 + 1)) < s.sclkHz * fld c 7 0)
/-- Whether a channel's registers let its port's VCK run (R165, R174). A stored HI of k or more stays as written: the
field table calls only 0 reserved, and HI 1 to k − 1 is what it asks; DESIGN CHOICE, log entry 98. -/
def vckRuns (s : State) (n : Nat) : Bool :=
  rb s (vk n 0) 0 && rb s (vk n 0) 4 && rb s (tk (n / 12) 4) 0 && !vckFast s n
/-- The high time of VCK in half sample periods (R174): HI sample periods, and with k = 1 half of the period. -/
def vckHigh (s : State) (n : Nat) : Nat :=
  if rf s (vk n 0x14) 3 0 = 0 then 1 else 2 * rf s (vk n 0x14) 11 8
/-- The VCK divider of head `h`'s port, which channel `n` serves, restarts (R174, R189). -/
def vckRestart (n h : Nat) (s : State) : State :=
  let s := modVp h (fun v => { v with vck := some s.tb }) s
  if vckRuns s n then
    emit (.vck h (rf s (vk n 0x14) 3 0 + 1) (vckHigh s n) (rf s (vk n 0x14) 6 4)) s
  else s
/-- The sample period of a tile in nanoseconds, as a fraction (R172). -/
def samplePeriod (s : State) (t : Nat) : Nat × Nat := (1000000000 * rf s (tk t 0) 15 8, s.sclkHz * rf s (tk t 0) 7 0)
/-- Whether a pulse runs at the time base `tb`, and whether it has run out. -/
def VspPulse.running (p : VspPulse) (tb : Nat) : Bool :=
  decide (p.delay * p.num ≤ (tb - p.t0) * p.den) && decide ((tb - p.t0) * p.den < (p.delay + p.width) * p.num)
def VspPulse.over (p : VspPulse) (tb : Nat) : Bool := decide ((p.delay + p.width) * p.num ≤ (tb - p.t0) * p.den)
/-- The VSP pulse of a line that channel `n` starts for head `h` (R175); those of earlier lines run out. -/
def vspStart (n h : Nat) (s : State) : State :=
  if rb s (vk n 0) 0 && rb s (vk n 0) 5 then
    let ts := samplePeriod s (n / 12)
    let p : VspPulse := ⟨s.tb, !rb s (vk n 0) 6, af s (vk n 0x18) 15 0, af s (vk n 0x18) 23 16, ts.1, ts.2⟩
    emit (.vsp h p.high p.delay p.width) (modVp h (fun v => { v with vsp := v.vsp.filter (fun q => !q.over s.tb) ++ [p] }) s)
  else s
/-- What a video output does at its ball: high impedance, a level, or VCK as its divider makes it since its restart
(period in sample periods, high time in half sample periods, phase in eighths);
`unstated` where the spec gives none, after the supply and before the end of the NVM load. -/
inductive Pad where
  | open_
  | unstated
  | level (high : Bool)
  | clock (period high phase : Nat) (since : Option Nat)
  deriving DecidableEq, Repr
/-- An output of port `h` outside what its channel makes of it (R164, R165). -/
def padOf (s : State) (h : Nat) (f : Nat → Pad) (idle : Pad) : Pad :=
  if !s.rails.getLsbD (h / 12) || s.por then .open_
  else if !s.step1 then .unstated
  else match chanOf s h with | some n => f n | none => idle
/-- VSP of port `h` (R165, R175). The spec gives a parked head's port no channel's CTRL, so VSP rests low there: DESIGN
CHOICE, log entry 99. -/
def vspPad (s : State) (h : Nat) : Pad :=
  padOf s h (fun n =>
    let rest := rb s (vk n 0) 6
    if !rb s (vk n 0) 0 || !rb s (vk n 0) 5 || !rb s (tk (h / 12) 4) 0 then .level rest
    else match (vport s h).vsp.find? (·.running s.tb) with
      | some p => .level p.high
      | none => .level rest) (.level false)
/-- VCK of port `h` (R165, R174). Its inactive level is low: DEDUCED, log entry 99. -/
def vckPad (s : State) (h : Nat) : Pad :=
  padOf s h (fun n =>
    if vckRuns s n then .clock (rf s (vk n 0x14) 3 0 + 1) (vckHigh s n) (rf s (vk n 0x14) 6 4) (vport s h).vck
    else .level false) (.level false)
/-- A SELFTEST of the channel is outstanding. -/
def selftesting (s : State) (n : Nat) : Bool := s.ops.any fun o => o.kind == .selftest n
/-- SELFTEST takes the converter: its channel's VCK divider restarts, the clamp hold is discharged and the video bridge
emptied (R189). It waits for the line in progress, during which the crossbar never switches (R167). -/
def pathReset (n : Nat) (s : State) : State :=
  if !selftesting s n || (chan s n).line.isSome then s else
  let s := modChan n (fun c => { c with vbr := 0 }) s
  match headOf s n with
  | some h => vckRestart n h (modVp h (fun v => { v with clamp := 0 }) s)
  | none => s

/-! ## SELFTEST (R186–R188) -/

/-- A signed byte, saturated at ±127. -/
def sat7 (x : Int) : Nat := ((clampInt (-127) 127 x) % 256).toNat
/-- Command body of SELFTEST. -/
def bodySelftest (c : Cmd) (s : State) : Ans :=
  let n := fld (pw c 0) 6 0
  if 95 < n then Ans.fail s 0x06 0 0 []
  else if ownerOf s 0x02 n != c.part then Ans.deny c s 0 []
  else if busy s 0x02 n then Ans.fail s 0x02 0 0 []
  else if armed s n then Ans.fail s 0x06 0 0x33 []
  else if !rb s (tk (n / 12) 4) 1 then Ans.fail s 0x02 0 0x30 []
  else if opsFull s c.q then Ans.fail s 0x02 0xFF 0 []
  else
    let a := Ans.long c (.selftest n) (modChan n (fun x => { x with stFail := false }) s)
    { a with st := pathReset n a.st }
/-- An attempt of SELFTEST ends with these deviations (R185–R187); none begins during a line (R167). -/
def selftestEnd (n : Nat) (lo hi : Int) (s : State) : State :=
  if (chan s n).line.isSome then s else
  match s.ops.find? (fun o => o.kind == .selftest n) with
  | none => s
  | some o =>
    let t := n / 12
    let bad := decide (32 < lo.natAbs) || decide (32 < hi.natAbs)
    if bad && !(chan s n).stFail then modChan n (fun x => { x with stFail := true }) s else
    let out := if bad then 3 else if (chan s n).stFail then 2 else 1
    let p := ownerOf s 0x02 n
    let s := wr (vk n 0x34) (BitVec.ofNat 32 (sat7 lo + 256 * sat7 hi + 65536 * out)) (modChan n (fun x => { x with stFail := false }) s)
    let s := match out with
      | 1 => causeOff (0x102 + 16 * t) (some (n % 12)) (setB (vk n 0x20) 1 false s)
      | 2 => raiseHw (0x103 + 16 * t) (some (n % 12)) (0x10 + t) p (satF (vk n 0x38) 15 0 s)
      | _ => causeOn (0x102 + 16 * t) (some (n % 12)) (0x10 + t) p 0 (setB (vk n 0x20) 1 true (satF (vk n 0x38) 31 16 s))
    let s := complete o.q o.tag 0 [rd s (vk n 0x34)] s
    if out = 3 then autoMolt n s else s

/-! ## The tile sample PLL (R172, R173) and the speed sensor (R43, R44) -/

/-- Source of a tile. -/
def tileSrc (t k : Nat) : Nat := 0x100 + 16 * t + k
/-- The sample clock of a tile stops or restarts: no line can start until CALOK. -/
def pllClear (t : Nat) (s : State) : State :=
  let s := forEach (tilePorts t) (fun h s => modVp h (fun v => { v with vck := none }) s) s
  setF (tk t 4) 1 0 0 (modTile t (fun x => { x with toks := [] }) s)
/-- CLK is written with EN = 1, or with EN = 0 (R172, R173). A line that is still in progress in a disarmed channel runs
on and ends unmarked: the spec does not say what becomes of it; DESIGN CHOICE, log entry 100. -/
def clkWrite (t : Nat) (v : Word) (s : State) : State :=
  let s := pllClear t (wr (tk t 0) (v &&& 0x1FFFF#32) s)
  if bit v 16 then modTile t (fun x => { x with pllStart := some s.tb }) s
  else causeOff (tileSrc t 1) none (modTile t (fun x => { x with pllStart := none, lost := false }) s)
/-- The rate of a CLK word is permitted (R172): 10–125 MHz. -/
def clkOk (s : State) (v : Word) : Bool :=
  decide (10000000 * fld v 15 8 ≤ s.sclkHz * fld v 7 0) && decide (s.sclkHz * fld v 7 0 ≤ 125000000 * fld v 15 8)
/-- The PLL locks. -/
def pllLock (t : Nat) (s : State) : State :=
  if rb s (tk t 0) 16 && !rb s (tk t 4) 0 then
    causeOff (tileSrc t 1) none (setB (tk t 4) 0 true (modTile t (fun x => { x with pllStart := none, lost := false }) s))
  else s
/-- The converters' initial calibration ends. -/
def pllCal (t : Nat) (s : State) : State := if rb s (tk t 0) 16 && rb s (tk t 4) 0 then setB (tk t 4) 1 true s else s
/-- A PLL that was started has not locked in 200 µs (R173). -/
def pllLate (t : Nat) (s : State) : State :=
  match (tile s t).pllStart with
  | some t0 => if rb s (tk t 0) 16 && !rb s (tk t 4) 0 && decide (t0 + 200000 ≤ s.tb) then causeOn (tileSrc t 1) none (0x10 + t) 0 0 s else s
  | none => s
/-- A loss of lock (R173). -/
def pllLost (t : Nat) (s : State) : State :=
  if rb s (tk t 0) 16 && rb s (tk t 4) 0 then
    let s := modTile t (fun x => { x with lost := true }) (setB (tk t 4) 2 true (pllClear t s))
    let s := causeOn (tileSrc t 1) none (0x10 + t) 0 0 s
    forEach (tilePorts t) (fun n s =>
      disarmChan n (modChan n (fun c => { c with line := c.line.map fun l => { l with marked := true } }) s)) s
  else s
/-- RATIO of a tile is measured (R43, R44). -/
def speedRatio (t : Nat) (r : Nat) (s : State) : State :=
  if !s.step1 || s.rstn then s else
  let s := modTile t (fun x => { x with measured := true }) s
  let s := if r < 0x1000 then { s with slowFlag := BitVec.allOnes 32 } else s
  let s := setF (tk t 0x10) 31 16 (min (rf s (tk t 0x10) 31 16) r) (setF (tk t 0x10) 15 0 r s)
  if r < rf s (tk t 0x14) 15 0 then causeOn (tileSrc t 0) none (0x10 + t) 0 0 s else causeOff (tileSrc t 0) none s
/-- WARN of a tile is written (R44). -/
def speedWarn (t : Nat) (s : State) : State :=
  if !(tile s t).measured then s
  else if rf s (tk t 0x10) 15 0 < rf s (tk t 0x14) 15 0 then causeOn (tileSrc t 0) none (0x10 + t) 0 0 s
  else causeOff (tileSrc t 0) none s

/-! ## ARM and DISARM (R190–R193) -/

/-- Slots that the mode does not allow (R169). -/
def slotsBad (s : State) (n : Nat) : Bool :=
  let k := rf s (vk n 0x14) 3 0 + 1
  let v := rf s (vk n 0x14) 15 12
  let r := rf s (vk n 0x14) 19 16
  if rf s (vk n 0) 2 1 = 2 then decide (k < 2) || v == r || decide (k ≤ v) || decide (k ≤ r) else decide (k ≤ v)
/-- The first refusal of R192 that a channel meets: status and code. -/
def armRefusal (s : State) (n : Nat) : Option (Nat × Nat) :=
  if !rb s (tk (n / 12) 0) 16 || !rb s (tk (n / 12) 4) 1 then some (0x02, 0x30)
  else if rb s (vk n 0x20) 1 then some (0x06, 0x32)
  else if !rb s (vk n 0) 0 then some (0x06, 0x34)
  else if vckFast s n then some (0x06, 0x35)
  else if slotsBad s n then some (0x06, 0x36)
  else if busy s 0x02 n then some (0x02, 0)
  else none
/-- Parameters of ARM and DISARM out of range, by KIND. -/
def armBad (c : Cmd) (kind : Nat) : Option Nat :=
  let w := pw c 0
  if kind = 0 && fld w 11 8 != 0 then some 0
  else if kind = 0 && (maskAt c 1).isEmpty then some 1 else none

end Sys2Proof.Machine
end

