-- ==== Sys2Proof/Machine/Video.lean ====
section
/-! DEFINITION. A line of a channel from its line-start edge to the end of its window (R106, R142, R176–R184,
R213–R237, R254, R271, R286–R288, R311, R361). -/

namespace Sys2Proof.Machine

/-! ## Staged registers (R180, R197, R235, R256) -/

/-- Staged registers of VID and COR. -/
def vidStaged (n : Nat) : List RKey := [4, 8, 0xC, 0x10, 0x18, 0x1C, 0x28].map (vk n)
/-- Staged registers under FIL HOLD: those of FIL, WCFG and WLIM. -/
def filStaged (n : Nat) : List RKey :=
  [0, 8, 0xC, 0x10, 0x14, 0x18, 0x1C, 0x20, 0x24, 0x28].map (fk n) ++ [0, 4, 8, 0xC].map (thk n)
/-- The values of a channel's VID and COR registers take effect at a line start (R180, R197, R207). -/
def vidApply (n : Nat) (s : State) : State :=
  let chg := (vidStaged n).any fun k => act s k != rd s k
  let s := forEach (ck n 4 :: vidStaged n) (fun k s => setAct k (rd s k) s) s
  if chg then calInvalid n s else s
/-- What a register that waits under HOLD comes to if it was written before HOLD was set (R235). -/
def dueOf (s : State) (k : RKey) : Option Word := (s.due.find? fun e => e.1 == k).map (·.2)
/-- RINFO and RDLY of the response in force. -/
def respInfo (n : Nat) (s : State) : State :=
  let i := af s (fk n 0x24) 8 0
  let mp := romFam i == 2
  let s := wr (fk n 0x48) (BitVec.ofNat 32 (romLen i + 65536 * romE i + 2 ^ 31 * mp.toNat)) s
  wr (fk n 0x4C) (BitVec.ofNat 32 (romTau i + 65536 * romPeak i)) s
/-- Put the FIL and THR values of a channel in force at a line start; `all` takes the held ones. -/
def filTake (n : Nat) (all : Bool) (s : State) : State :=
  let held := (chan s n).held
  let wait (k : RKey) : Bool := !all && held.contains k
  let s := forEach (filStaged n) (fun k s => if wait k then
      (match dueOf s k with | some v => setAct k v s | none => s) else setAct k (rd s k) s) s
  let s := { s with due := s.due.filter fun e => !chanEntry n e.1 }
  modChan n (fun c => { c with held := if all then [] else c.held, freed := [] }) s
/-- APPLY takes a line number. -/
def setApply (n num : Nat) (s : State) : State := wr48 (fk n 0x64) (fk n 0x68) num s
/-- The pending SYNC of a channel acts at line `num`. -/
def syncDue (s : State) (n num : Nat) : Bool :=
  rb s (fk n 0x40) 4 && (rb s (fk n 0x60) 16 || decide (rd48 s (fk n 0x5C) (fk n 0x60) ≤ num))
/-- The filter chain's values, SYNC and restarts of the tracker at the start of line `num` (R218, R235, R237). -/
def filApply (n num : Nat) (s : State) : State :=
  let ten0 := bit (act s (fk n 0)) 0
  let sync := syncDue s n num
  let hold := rb s (fk n 4) 0
  let waiting := (!(chan s n).held.isEmpty && !hold) || !(chan s n).freed.isEmpty
  let trk := sync && (chan s n).syncTrk
  let s := filTake n (sync || !hold) s
  let s := if sync || waiting then setApply n num s else s
  let s := if sync then wr (fk n 0x5C) 0 (wr (fk n 0x60) 0 (setB (fk n 0x40) 4 false (modChan n (fun c => { c with syncTrk := false }) s))) else s
  let s := if trk || (!ten0 && bit (act s (fk n 0)) 0) then unprime n s else s
  respInfo n s

/-! ## The tracker (R216–R219) -/

/-- BGEST in 1/16 LSB. -/
def setEst (n : Nat) (b : Int) (s : State) : State :=
  wr (fk n 0x44) (intW (roundDiv b 4096)) (setB (fk n 0x40) 0 true (modChan n (fun c => { c with est := b }) s))
/-- An update acts on the estimate (R216). -/
def trackApply (n : Nat) (u : Upd) (s : State) : State :=
  setEst n (if rb s (fk n 0x40) 0 then trackStep (chan s n).est u.mean u.k else u.mean) s
/-- Updates come into force at line `num` (R217); one whose line has yet to pass waits, and while TEN = 0 all do
(R215). -/
def trackLine (n num : Nat) (s : State) : State :=
  if !bit (act s (fk n 0)) 0 then s else
  let us := (chan s n).upd
  let waits (u : Upd) : Bool := decide (num + 1 = u.at_)
  let s := modChan n (fun c => { c with upd := us.filter waits }) s
  let s := forEach (us.filter fun u => !waits u) (trackApply n) s
  let b := if rb s (fk n 0x40) 0 then roundDiv (chan s n).est 65536 else sext 18 (af s (fk n 0x14) 17 0)
  modChan n (fun c => { c with bhat := b }) s
/-- The update that a line gives (R216, R219, R220), from its corrected values, its event count, and FRZ as it applies to
the line. -/
def trackUpdate (n num nev : Nat) (frz : Bool) (xs : List Mk) (s : State) : State :=
  let c := act s (fk n 0)
  if !bit c 0 || frz then s else
  match lineMean (af s (fk n 0xC) 13 0) (af s (fk n 0xC) 30 16) xs with
  | none => s
  | some m =>
    let k := af s (fk n 8) 3 0
    if bit c 1 then
      if af s (fk n 0x18) 15 0 < nev then incR (fk n 0x58) (setB (fk n 0x40) 2 true s)
      else setB (fk n 0x40) 2 false (modChan n (fun x => { x with upd := x.upd ++ [⟨num + 2, m, k⟩] }) s)
    else
      let us := (chan s n).upd
      forEach (us ++ [⟨num + 1, m, k⟩]) (trackApply n) (modChan n (fun x => { x with upd := [] }) s)

/-! ## Line start -/

/-- The path settings in force for a channel. -/
def pathOf (s : State) (n : Nat) : PathCfg :=
  let c := act s (fk n 0)
  let i := af s (fk n 0x24) 8 0
  ⟨af s (fk n 0x20) 7 0, af s (fk n 0x1C) 9 0 + 1, af s (fk n 0x1C) 25 16, bit c 2, af s (fk n 0x28) 3 0, af s (fk n 0x28) 11 8,
   romCoeffs i, if romFam i = 2 then romE i else romLen i, bit c 3, bit c 4⟩
/-- The channel whose VID sets the input stage of a line (R164): its own, and once a Molt has moved the head, the one
that serves the head now (R316 step 3). DESIGN CHOICE: after parking none does, and the line keeps its own channel's. -/
def stageChan (s : State) (n : Nat) (l : Line) : Nat := if (chan s n).oldPort then (chanOf s l.head).getD n else n
/-- The settings of a channel's input stage for the line in progress (R168–R171, R180). DESIGN CHOICE: CTRL is not
staged and can be written once the channel is disarmed; MODE and POL act on the whole line as they are when it ends. -/
def inStage (s : State) (n : Nat) : InStage :=
  ⟨rf s (vk n 0) 2 1, rb s (vk n 0) 3, af s (vk n 4) 8 0, sext 10 (af s (vk n 8) 9 0) * 500000,
   if bit (act s (vk n 0xC)) 0 then some (250000000 + 10000000 * (af s (vk n 0xC) 15 8 : Int)) else none,
   af s (vk n 0x10) 15 0, af s (vk n 0x10) 27 16⟩
/-- The fast tap of a tile's region decides a line of `m` outputs (R360, R361). -/
def tapFast (n m : Nat) (s : State) : Bool × State :=
  let r := n / 12
  if !rb s (fbk r 0x80) (n % 12) || (regionState s r != 3 && regionState s r != 4) then (false, s)
  else if ownerOf s 0x02 n != ownerOf s 0x0B r then (false, refuse (ownerOf s 0x0B r) (0x38 + r) s)
  else
    let fr := takeFree s
    let held := nget 0 s.taps (4 * r)
    let held := if regionState s r = 3 then fr.1.toNat % (held + 1) else held
    let s := if regionState s r = 3 then fr.2 else s
    if tapDepth 0 < held + m + 2 then (false, incR (fbk r (0x90 + 4 * (n % 12))) { s with taps := nput 0 s.taps (4 * r) held })
    else (true, { s with taps := nput 0 s.taps (4 * r) (held + m + 2) })
/-- The words of a line at the fast tap (R361). -/
def tapLine (l : Line) (os : List OutW) : List (BitVec 36) :=
  let m := os.length
  [tapWord 8 (lo32 l.num),
   tapWord 9 (BitVec.ofNat 32 (l.num / 2 ^ 32 % 65536 + 65536 * l.head + 2 ^ 23 * l.epoch + 2 ^ 27 * l.unsync.toNat + 2 ^ 28 * (m == 0).toNat))] ++
  os.mapIdx fun i o => tapWord (if i + 1 = m then 1 else 0)
    (BitVec.ofNat 32 ((o.y % 65536).toNat + 65536 * o.settle.toNat + 131072 * o.edge.toNat + 262144 * o.orr.toNat))

/-- A token that reaches a channel before its line has ended starts no line (R178). -/
def lineSkip (n : Nat) (s : State) : State :=
  raiseHw (tileSrc (n / 12) 4) (some (n % 12)) (0x10 + n / 12) (ownerOf s 0x02 n) (incR (vk n 0x30) (setB (vk n 0x20) 4 true s))
/-- Calibration passes a line over, or takes it if it is admitted (R201). -/
def calStart (n : Nat) (adm : Bool) (s : State) : Bool × State :=
  if !calCollecting s n || (chan s n).calLeft == 0 || (chan s n).calRes != 0 then (false, s)
  else if (chan s n).calSkip != 0 then (false, modChan n (fun c => { c with calSkip := c.calSkip - 1 }) s)
  else (adm, s)
/-- A channel starts a line for its head (R174–R180): what is staged takes effect, a due commit swaps, VSP and VCK
start, the bridge, which still holds at most `left` of its values, and the fence decide the line (R39, R40), and zones
and streams take their part. -/
def lineBegin (n h : Nat) (k : Token) (num left : Nat) (s : State) : State :=
  let s := match commitOf s n with
    | some o => match o.kind with
      | .calCommit _ _ l _ _ _ => if l ≤ num then commitSwap n (some num) s else s
      | _ => s
    | none => s
  let s := trackLine n num (filApply n num (vidApply n s))
  let s := { s with marks := nput 0 s.marks h (min num (nget 0 s.marks h)) }
  let f := fenced s n && decide (fenceLine s n ≤ num)
  let cnt := af s (vk n 0x1C) 30 16
  let s := modChan n (fun x => { x with vbr := min x.vbr left }) s
  let r := !f && decide (16384 - (chan s n).vbr < cnt)
  let s := if f then incR (hk n 0x14) s else s
  let s := if r then raiseHw (tileSrc (n / 12) 6) (some (n % 12)) (0x10 + n / 12) (ownerOf s 0x02 n) (incR (tlk n 0x40) s) else s
  let z := zonesStart h num (epochOf s h) s
  let s := forEach z.2 strmZone z.1
  let ok := !f && !r
  let m := if ok then outCount (pathOf s n) cnt else 0
  let d := if ok then strmAdmit h num m s else ((false, none), s)
  let c := calStart n ok d.2
  let l : Line := ⟨num, h, epochOf c.2 h, k.gen, k.pos, k.unsync, r, f, false, actBank c.2 n, af c.2 (vk n 0x1C) 15 0, cnt, d.1.1, false, c.1, s.tb, none, d.1.2⟩
  let s := modChan n (fun x => { x with line := some l, lastLine := some num }) { c.2 with headLine := nput 0 c.2.headLine h (num + 1) }
  vspStart n h (vckRestart n h (setB (vk n 0x20) 2 true s))
/-- The fast tap takes the line that a channel has just begun (R361). -/
def lineTap (n : Nat) (s : State) : State :=
  match (chan s n).line with
  | none => s
  | some l =>
    if l.refused || l.fenced then s else
    let t := tapFast n (outCount (pathOf s n) l.count) s
    modChan n (fun x => { x with line := some { l with tap := t.1 } }) t.2

/-! ## Line end -/

/-- What the video pins of a line's port bring: 0 where VDDA33 of its tile is absent (R441). -/
def seenPixels (s : State) (l : Line) (px : List Pixel) : List Pixel :=
  if s.rails.getLsbD (l.head / 12) then px else px.map fun _ => ⟨0, 0, false, false⟩
/-- Corrected values of a line's window (R177, R194–R197), with the pixel values. -/
def lineVals (s : State) (n : Nat) (l : Line) (px : List Pixel) : List Mk × List Mk :=
  let ps := ((lineCodes (inStage s (stageChan s n l)) l.marked (vport s l.head).clamp (seenPixels s l px)).1.drop l.first).take l.count
  let c := act s (ck n 4)
  (ps, correctLine (bit c 0) (fld c 7 4) ((List.range l.count).map (corrGet s n l.bank)) ps)
/-- ORCNT and its consequences (R184). -/
def lineOr (n cnt : Nat) (s : State) : State :=
  let s := setF (vk n 0x24) 15 0 cnt s
  if cnt = 0 then s else
  let s := incR (vk n 0x2C) (setB (vk n 0x20) 3 true s)
  if af s (vk n 0x28) 15 0 < cnt then
    raiseHw (tileSrc (n / 12) 5) (some (n % 12)) (0x10 + n / 12) (ownerOf s 0x02 n) (setB (vk n 0x20) 5 true s)
  else s
/-- The samples disposition of a line (R106): the whole window is converted, and each pixel enters one term. -/
def lineLedger (n : Nat) (l : Line) (excl : Nat) (s : State) : State :=
  let c := l.count
  let s := ledAdd 1 n 0 c s
  if l.fenced then ledAdd 1 n 5 c s
  else if l.refused then ledAdd 1 n 3 c s
  else if l.dropped then ledAdd 1 n 4 c s
  else ledAdd 1 n 1 (c - excl) (ledAdd 1 n 2 excl s)
/-- The tag of a line. -/
def lineTag (l : Line) (m f0 f1 : Nat) : LineTag := ⟨l.num, l.head, l.epoch, l.gen, l.pos, l.unsync, m, m, f0, f1⟩
/-- Merge of two lists of closed events by the output at which they close, the first list first (R255). -/
def mergeClosed : Nat → List (Closed × EvRec) → List (Closed × EvRec) → List EvRec
  | 0, _, _ => []
  | _ + 1, [], ys => ys.map (·.2)
  | _ + 1, xs, [] => xs.map (·.2)
  | f + 1, x :: xs, y :: ys =>
    if x.1.at_ ≤ y.1.at_ then x.2 :: mergeClosed f xs (y :: ys) else y.2 :: mergeClosed f (x :: xs) ys
/-- The events of both windows of a line, in the order in which they close, and the line's tag (R252–R255). -/
def lineEvents (s : State) (n : Nat) (c : PathCfg) (l : Line) (fine fast : List OutW) : List EvRec × LineTag :=
  let win (w : Nat) : WinCfg := winCfg (act s (thk n (8 * w))) (act s (thk n (8 * w + 4)))
  let path (w : Nat) : List OutW := if (win w).fast then fast else fine
  let t := lineTag l fine.length (firstExamined c (path 0)) (firstExamined c (path 1))
  let evs (w : Nat) : List (Closed × EvRec) :=
    (winEvents (win w) c (path w)).map fun x => (x, evRec t w (win w).fast (path w) x)
  (mergeClosed ((evs 0).length + (evs 1).length + 1) (evs 0) (evs 1), t)
/-- A line's outputs for the zones: each with its exclusion (R231). -/
def zoneOuts (c : PathCfg) (os : List OutW) : List (OutW × Bool) := os.map fun o => (o, excluded c o)
/-- A line takes its place at the zones of its head (R271). -/
def lineZones (l : Line) (fine fast : List (OutW × Bool)) (s : State) : State :=
  forEach (zonesOf s l.head) (fun z s => zoneLine z l fine fast s) s
/-- A line that delivers nothing ends (R40, R311): no pixel counts as over-range, and only its marker goes on. -/
def lineNothing (n : Nat) (l : Line) (s : State) : State :=
  let s := lineZones l [] [] (lineOr n 0 s)
  let s := wr (fk n 0x50) 0 (wr (fk n 0x54) 0 (setF (thk n 0x24) 15 0 0 s))
  lineLedger n l 0 (modChan n (fun c => { c with evq := c.evq ++ [.mark (lineTag l 0 0 0)] }) s)
/-- A line that the bridge carried ends. DEDUCED: of the samples that are over-range only those of window pixels count,
as R184 counts them; R177 names the over-range count for the samples outside the window too, which no register takes. -/
def lineWhole (n : Nat) (l : Line) (px : List Pixel) (s : State) : State :=
  let (ps, xs) := lineVals s n l px
  let s := lineOr n (ps.filter (·.2)).length s
  let s := if l.cal && calCollecting s n then
      let dark := match calOf s n with | some x => x.2.stage == 0 | none => true
      let s := modChan n (fun c => { c with calLeft := c.calLeft - 1, dk := if dark then accLine c.dk ps else c.dk,
                                            wt := if dark then c.wt else accLine c.wt ps }) s
      if dark then setF (ck n 0x50) 12 0 (chan s n).dk.n s else setF (ck n 0x50) 28 16 (chan s n).wt.n s
    else s
  let c := pathOf s n
  let ten := bit (act s (fk n 0)) 0
  let b := (chan s n).bhat
  let ped := sext 18 (af s (fk n 0x10) 17 0)
  let vs := if ten then xs.map (trackOut b ped) else xs
  let s := if ten && xs.any fun x => sat18 (x.1 - b + ped) != x.1 - b + ped then setB (fk n 0x40) 5 true s else s
  let rf1 := rawLine fineRaw c vs
  let rf2 := rawLine fastRaw c vs
  let s := if rf1.any limited || rf2.any limited then setB (fk n 0x40) 6 true s else s
  let fine := fineLine c vs rf1
  let fast := fastLine c rf2
  let flags (os : List OutW) : Nat := (os.filter fun o => o.settle || o.edge).length
  let s := wr (fk n 0x50) (BitVec.ofNat 32 (fine.length + 65536 * flags fine)) s
  let s := wr (fk n 0x54) (BitVec.ofNat 32 (fast.length + 65536 * flags fast)) s
  let ev := lineEvents s n c l fine fast
  let s := setF (thk n 0x24) 15 0 (min 65535 ev.1.length) s
  let s := trackUpdate n l.num ev.1.length (l.frz.getD (rb s (fk n 0x40) 1)) xs s
  let s := lineZones l (zoneOuts c fine) (zoneOuts c fast) s
  let s := modChan n (fun x => { x with vbr := min 16384 (x.vbr + l.count) }) s
  let s := strmFill l (bit (act s (fk n 0)) 5) fine fast s
  let s := if l.tap then emit (.tap (n / 12) 0 (tapLine l fast)) s else s
  let s := modChan n (fun x => { x with evq := x.evq ++ ev.1.map .ev ++ [.mark ev.2] }) s
  lineLedger n l (settleExcl c l.count) s
/-- A commit whose channel is disarmed, or whose deadline has passed after a first swap, swaps as the line
in progress ends (R210, R211). -/
def lateSwap (n : Nat) (s : State) : State :=
  match commitOf s n with
  | some o => match o.kind with
    | .calCommit _ _ _ dl _ t => if !armed s n || (t.isSome && decide (dl ≤ s.tb)) then commitSwap n none s else s
    | _ => s
  | none => s
/-- The clamp's coupling capacitor after a line (R171). Where the clamp window goes beyond the periods of which the row
brings the signal (a line of no pixels, a window after the pixel window), it holds an open value. -/
def lineClamp (n : Nat) (l : Line) (px : List Pixel) (s : State) : State :=
  let px := seenPixels s l px
  let c := inStage s (stageChan s n l)
  if c.clamp.isSome && c.clCount != 0 && decide (px.length < c.clFirst + c.clCount) then
    let r := takeFree s
    modVp l.head (fun p => { p with clamp := r.1.toInt }) r.2
  else
    let v := (lineCodes c false (vport s l.head).clamp px).2
    modVp l.head (fun p => { p with clamp := v }) s
/-- The line in progress of a channel ends; `px` are its pixel periods from period 0 to the last of the window, at least
(R106, R177, R184). -/
def lineFinish (n : Nat) (px : List Pixel) (s : State) : State :=
  match (chan s n).line with
  | none => s
  | some l =>
    if l.refused || l.fenced || l.count == 0 || decide (l.first + l.count ≤ px.length) then
      let s := setB (vk n 0x20) 2 false (modChan n (fun c => { c with line := none }) s)
      let s := if l.refused || l.fenced then lineNothing n l s else lineWhole n l px s
      pathReset n (lateSwap n (modChan n (fun c => { c with oldPort := false }) (lineClamp n l px s)))
    else s
/-- The line number that a token gives a head that follows its generator (R32, R143). -/
def headNum (s : State) (h : Nat) (k : Token) : Option Nat :=
  if !rb s (hcK h) 4 || rf s (hcK h) 3 0 != k.gen || decide (k.count < rf s (hcK h) 31 16) then none
  else some (k.count - rf s (hcK h) 31 16)
/-- A head of a tile at a token's line-start edge (R143, R178); its channel's bridge still holds `left` values. -/
def headStart (h n : Nat) (k : Token) (left : Nat) (s : State) : State :=
  match headNum s h k with
  | none => s
  | some num =>
    if !armed s n then s
    else if (chan s n).line.isSome then lineSkip n s
    else portLine h (lineBegin n h k num left s)
/-- MOLTs of the tile's heads whose line this token starts (R316). -/
def headMolt (h : Nat) (k : Token) (s : State) : State :=
  match headNum s h k with
  | none => s
  | some num => moltAtLine h num s
/-- A line of no pixels ends as it starts. -/
def lineEmpty (n : Nat) (s : State) : State :=
  match (chan s n).line with
  | some l => if l.count = 0 then lineFinish n [] s else s
  | none => s
/-- The oldest token of a tile reaches its line-start edge (R142): the heads begin their lines in ascending order
(R288), then the fast tap decides them in ascending order of the channels (R361). `left` gives, by local position of
the channel, the values of earlier lines that its video bridge has yet to pass on (R39). -/
def tileLine (t : Nat) (left : List Nat) (s : State) : State :=
  if !rb s (tk t 4) 0 then s else
  match (tile s t).toks with
  | [] => s
  | k :: ks =>
    let s := modTile t (fun x => { x with toks := ks }) s
    let s := loadStrobe t k.gen (netToken t k (tapToken t k s))
    let s := forEach (tilePorts t) (fun h s => headMolt h k s) s
    let hs := (tilePorts t).filterMap fun h => (chanOf s h).map fun n => (h, n)
    let idle := (tilePorts t).filter fun n => (chan s n).line.isNone
    let s := forEach hs (fun hn s => headStart hn.1 hn.2 k (left.getD (hn.2 % 12) 0) s) s
    let begun := idle.filter fun n => (chan s n).line.isSome
    forEach begun lineEmpty (forEach begun lineTap s)

end Sys2Proof.Machine
end

