-- ==== Sys2Proof/Machine/Gpio.lean ====
section
/-! DEFINITION. General-purpose pins (R394–R402): what a pin drives, what its pad reads, interrupt lines and
the time-base pulse. -/

namespace Sys2Proof.Machine

/-- Bank, interrupt line and FLT.SRC registers. -/
def bk (b off : Nat) : RKey := ⟨.bank, b, off⟩
def iqk (k off : Nat) : RKey := ⟨.irq, k, off⟩
def srk (i off : Nat) : RKey := ⟨.src, i, off⟩

/-- FAULT_N is low (R411): a latched source with PIN set was raised at NOTIFY or higher. -/
def faultN (s : State) : Bool :=
  (List.range 512).any fun i => rb s (srk i 4) 1 && rb s (srk i 0) 3 && decide (1 ≤ rf s (srk i 4) 6 4)

/-- SAFE_N is low while a SAFE or HALT reaction is in force (R403, R411). -/
def safeN (s : State) : Bool := decide (3 ≤ react s)

/-- The marker line that a pin can show: its owner's, with the pin's number in its bank (R294). -/
def markerOf (s : State) (p : Nat) : Nat := 32 * ownerOf s 0x0A p + p % 32
/-- The source of function f (2–7) at a pin is active and its ownership condition holds (R396). DESIGN CHOICE: the spec
does not say what TOUT.EN written 0 does to a trigger pulse that runs; it runs to its end (log entry 129). -/
def pinSource (s : State) (p f : Nat) : Bool :=
  let b := p / 32
  let i := p % 32
  let o := ownerOf s 0x0A p
  match f with
  | 2 => (gen s (i % 16)).pulseEnd.isSome && ownerOf s 0x07 (i % 16) == o
  | 3 => nget 0 s.markers (markerOf s p) != 0
  | 4 => (if b % 2 = 0 then (encP s i).a else (encP s i).b) && ownerOf s 0x05 i == o
  | 5 => ffGate s (12 * b + i % 12) && ownerOf s 0x04 (12 * b + i % 12) == o
  | 6 => faultN s && o == 0
  | _ => s.tbpEnd.isSome
/-- The OR of R397. -/
def pinOr (s : State) (p : Nat) : Bool :=
  let m := rf s (pinK p) 3 0
  (m == 0 && rb s (bk (p / 32) 0) (p % 32)) ||
  (List.range 6).any fun j => (m == j + 2 || rb s (pinK p) (16 + j)) && pinSource s p (j + 2)
/-- The level that a pin drives, where it does and the level does not depend on a fabric design (R396, R397,
R402); `none` where the pad's level comes from elsewhere. -/
def pinDrives (s : State) (p : Nat) : Option Bool :=
  let m := rf s (pinK p) 3 0
  let b := p / 32
  if standby s || s.por || !s.rails.getLsbD (16 + b) then none
  else if m = 0 ∧ !rb s (bk b 4) (p % 32) then none
  else if m = 1 ∨ 8 ≤ m then none
  else
    let v := pinOr s p
    let v := if m = 2 then xor v (rb s (gk (p % 16) 0x2C) 1) else v
    some (xor v (rb s (pinK p) 4))
/-- The pin that an interrupt line watches (R400). -/
def irqPin (s : State) (k : Nat) : Nat := 32 * rf s (iqk k 0) 2 0 + 8 * rf s (iqk k 0) 9 8 + k
/-- The level that the board drives at a pad, as far as commands tell it: that of the last edge at a watched pin. -/
def boardLevel (s : State) (p : Nat) : Option Bool := if irqPin s (p % 8) = p then vget s.boardLvl (p % 8) else none
/-- A fabric design may drive a pin (R396). -/
def fabMayDrive (s : State) (p : Nat) : Bool :=
  let m := rf s (pinK p) 3 0
  (m == 1 || decide (8 ≤ m)) && decide (3 ≤ regionState s (p / 32)) && ownerOf s 0x0A p == ownerOf s 0x0B (p / 32) && !standby s
/-- The level of a pad (R399): `x` is an indeterminate one. Where a fabric design may drive, that one; the pin's own, where
the board does not drive against it; the board's; the pull's, which is off in STANDBY (R402); else indeterminate. DESIGN CHOICE: a pad with its pull on is taken as
driven by the board only where an edge has told it; log entry 78. -/
def padLevel (s : State) (p : Nat) (x : Bool) : Bool :=
  if fabMayDrive s p then x else
  match pinDrives s p, boardLevel s p with
  | some v, some w => if v = w then v else x
  | some v, none => v
  | none, some w => w
  | none, none => if standby s then x else match rf s (pinK p) 6 5 with | 1 => true | 2 => false | _ => x
/-- The pad levels of a bank now. A bank without supply reads 0 (R441). -/
def bankPads (b : Nat) (s : State) : Word × State :=
  if !s.rails.getLsbD (16 + b) then (0, s) else
  let w := (List.range 32).foldl (fun w i => w + 2 ^ i * (padLevel s (32 * b + i) (Config.floatLevel s.free (32 * b + i))).toNat) 0
  (BitVec.ofNat 32 w, { s with free := s.free + 1 })

/-- PEND of a line clears (R401). -/
def irqClear (k : Nat) (s : State) : State := causeOff (0x0C8 + k) none (setB (iqk k 4) 0 false s)
/-- SEL of a line is written (R400). -/
def irqSel (k : Nat) (v : Word) (s : State) : State :=
  let s := { s with boardLvl := vmod s.boardLvl k fun _ => none }
  wr (iqk k 0xC) 0 (wr (iqk k 8) 0 (wr (iqk k 4) 0 (irqClear k (wr (iqk k 0) v s))))
/-- The level that an edge brings a pin to is the board's, unless the device drives it (R398, R399). -/
def boardDrives (k : Nat) (level : Bool) (s : State) : State :=
  { s with boardLvl := vmod s.boardLvl k fun _ => if pinDrives s (irqPin s k) = some level then none else some level }
/-- An edge at the watched pad (R400, R401): of the kinds that MODE does not choose, the new level alone. -/
def irqEdge (k : Nat) (level : Bool) (s : State) : State :=
  let s := boardDrives k level s
  if standby s || s.por || s.rstn || !rb s (iqk k 0) (if level then 16 else 17) then s else
  let s := satF (iqk k 4) 31 16 (setB (iqk k 4) 0 true s)
  let s := wr (iqk k 0xC) (hi32 s.tb) (wr (iqk k 8) (lo32 s.tb) s)
  causeOn (0x0C8 + k) none 0x29 (ownerOf s 0x0A (irqPin s k)) 0 s

/-- TBP register. -/
def tbpK : RKey := ⟨.tbp, 0, 0⟩
/-- The time base has reached a multiple of 2^K ns since the last pulse (R398). -/
def tbPulse (s : State) : State :=
  let k := 2 ^ rf s tbpK 12 8
  if rb s tbpK 0 && decide (s.tbpLast / k < s.tb / k) then
    { s with tbpEnd := some (s.tb + 10 * rf s tbpK 23 16), tbpLast := s.tb } else s
/-- The time-base pulse ends. -/
def tbPulseEnd (s : State) : State :=
  match s.tbpEnd with | some e => if e ≤ s.tb then { s with tbpEnd := none } else s | none => s
/-- A trigger pulse ends (R144). -/
def trigEnd (g : Nat) (s : State) : State :=
  match (gen s g).pulseEnd with | some e => if e ≤ s.tb then modGen g (fun x => { x with pulseEnd := none }) s else s | none => s
/-- The marker pulse that a pin can show ends (R294). -/
def markEnd (p : Nat) (s : State) : State :=
  let i := markerOf s p
  if nget 0 s.markers i != 0 && decide (nget 0 s.markers i ≤ s.tb) then { s with markers := nput 0 s.markers i 0 } else s

/-- The state of a released pin (R402). -/
def pinRelease (p : Nat) (s : State) : State :=
  let s := rstR (pinK p) (setB (bk (p / 32) 4) (p % 32) false (setB (bk (p / 32) 0) (p % 32) false s))
  forEach ((List.range 8).filter fun k => irqPin s k == p) irqClear s
/-- Bits of a bank's pins that a partition owns (R395). -/
def bankOwn (s : State) (b part : Nat) : Word :=
  BitVec.ofNat 32 ((List.range 32).foldl (fun w i => w + 2 ^ i * (ownerOf s 0x0A (32 * b + i) == part).toNat) 0)

end Sys2Proof.Machine
end

