-- ==== Sys2Proof/Machine/Faults.lean ====
section
/-! DEFINITION. The fault collector (R404–R417): raises, capture, records, the record writer, notifications,
the fault log, and the reactions DEGRADE, SAFE and HALT. -/

namespace Sys2Proof.Machine

/-- FLT register. -/
def flk (off : Nat) : RKey := ⟨.flt, 0, off⟩
/-- A source number in use (R404). -/
def srcUsed (i : Nat) : Bool := (srcDefault i).isSome
/-- The members of a source (R404); none for a source without members. -/
def srcMembers (i : Nat) : Option Nat :=
  if i = 0x080 then some 32
  else if 0x0D0 ≤ i ∧ i ≤ 0x0DF then some 8
  else if 0x100 ≤ i ∧ i ≤ 0x17F ∧ !([0, 1, 0xA, 0xF].contains (i % 16)) then some 12
  else none
/-- The owner of a source or of its member `m` (R404). -/
def srcOwner (s : State) (i m : Nat) : Nat :=
  if 0x040 ≤ i ∧ i ≤ 0x07F then ownerOf s 0x05 (i % 32)
  else if i = 0x080 then ownerOf s 0x05 m
  else if 0x0A0 ≤ i ∧ i ≤ 0x0AF then ownerOf s 0x07 (i - 0x0A0)
  else if 0x0C8 ≤ i ∧ i ≤ 0x0CF then ownerOf s 0x0A (irqPin s (i - 0x0C8))
  else if 0x0D0 ≤ i ∧ i ≤ 0x0DF then ownerOf s 0x09 (8 * (i % 8) + m)
  else if 0x0E0 ≤ i ∧ i ≤ 0x0EF then ownerOf s 0x0B (i % 8)
  else if 0x100 ≤ i then
    let n := 12 * ((i - 0x100) / 16) + m
    match i % 16 with
    | 2 | 3 | 4 | 5 | 6 | 0xD | 0xE => ownerOf s 0x02 n
    | 7 | 8 | 9 => ownerOf s 0x04 n
    | 0xB | 0xC => ownerOf s 0x03 n
    | _ => 0
  else 0

/-! ## Records (R278, R410) -/

/-- The words of a fault record. -/
def faultWords (r : Report) (sev : Nat) (first : Bool) (s : State) : List Word :=
  [BitVec.ofNat 32 (7 + 16 * first.toNat + 32 * sev + 256 * r.src + 2 ^ 17 * r.inj.toNat), lo32 s.tb, hi32 s.tb, r.addr,
   BitVec.ofNat 32 (r.part + 256 * r.port + 65536 * (if r.port = 0xFE then r.unit else 0) + 2 ^ 24 * r.acc),
   BitVec.ofNat 32 (rf s (srk r.src 4) 31 16), r.d6, BitVec.ofNat 32 (r.mem.getD 0xFF + 2 ^ 30 * r.bw.toNat)]
/-- The fault notification of a port (R59). -/
def notifyPort (k : Nat) (s : State) : State :=
  let l := vget s.links k
  if roleOf s k != 1 || !rb s ⟨.bport, k, 8⟩ 0 || !mayMaster s k then s else
  let soon := match l.lastMsg with | some t => decide (s.tb < t + 10000) | none => false
  if soon then { s with links := vmod s.links k fun l => { l with due := true } }
  else signal k (rf s ⟨.bport, k, 8⟩ 11 8) { s with links := vmod s.links k fun l => { l with lastMsg := some s.tb } }
/-- The message that was put off (R59). -/
def notifyLate (k : Nat) (s : State) : State :=
  let l := vget s.links k
  let late := match l.lastMsg with | some t => decide (t + 10000 ≤ s.tb) | none => true
  if l.due && late then notifyPort k { s with links := vmod s.links k fun l => { l with due := false } } else s
/-- Erase a page of the NVM. -/
def nvmErase (page : Nat) (s : State) : State :=
  { s with nvm := memWrs nvmDflt s.nvm (256 * page) (List.replicate 256 0xFF) }
/-- A record is programmed into the fault log (R410, R431). -/
def logRecord (ws : List Word) (s : State) : State :=
  let soon := match s.flt.lastLog with | some t => decide (s.tb < t + 100000000) | none => false
  if soon then incR (flk 0xC) s else
  let i := rf s ⟨.nvm, 0, 8⟩ 5 0
  let s := if i % 8 = 0 then nvmErase (192 + i / 8) s else s
  let s := putNvmW (0xC000 + 32 * i) ws s
  setF ⟨.nvm, 0, 8⟩ 5 0 ((i + 1) % 64) (modFlt (fun f => { f with lastLog := some s.tb }) s)
/-- A raise is not recorded (R410). -/
def faultLost (s : State) : State :=
  let s := incR (flk 8) s
  let soon := match s.flt.lastOvf with | some t => decide (s.tb < t + 10000) | none => false
  if soon then s else raiseHw 0x00B none 0x01 0 (modFlt (fun f => { f with lastOvf := some s.tb }) s)
/-- The record writer takes a raise (R410). -/
def writerTake (ws : List Word) (sev : Nat) (s : State) : State :=
  let s := modFlt (fun f => { f with wrBusy := 50 }) s
  if 64 ≤ s.flt.fifo.length then faultLost s else
  let i := fld (ws.getD 0 0) 16 8
  let ws := ws.set 5 (BitVec.ofNat 32 (rf s (srk i 4) 31 16))
  let s := modFlt (fun f => { f with fifo := f.fifo ++ [ws] }) s
  let s := if 1 ≤ sev then forEach (List.range 8) notifyPort s else s
  if rf s (flk 0) 2 0 ≤ sev then logRecord ws s else s
/-- A raise is offered to the record writer. -/
def writerOffer (ws : List Word) (sev : Nat) (s : State) : State :=
  if s.flt.wrBusy = 0 then writerTake ws sev s
  else if s.flt.wrWait.isNone then modFlt (fun f => { f with wrWait := some (ws, sev) }) s
  else faultLost s
/-- One nanosecond of the record writer. -/
def writerTick (s : State) : State :=
  let s := modFlt (fun f => { f with wrBusy := f.wrBusy - 1 }) s
  match s.flt.wrBusy, s.flt.wrWait with
  | 0, some (ws, sev) => writerTake ws sev (modFlt (fun f => { f with wrWait := none }) s)
  | _, _ => s

/-! ## Reactions (R406, R407, R414) -/

/-- The encoder port of a source or member, if it is one. -/
def encOfSrc (i : Nat) (m : Option Nat) : Option Nat :=
  if 0x040 ≤ i ∧ i ≤ 0x07F then some (i % 32) else if i = 0x080 then m else none
/-- The axes that bind an encoder port. -/
def axesOf (s : State) (e : Nat) : List Nat := (List.range 8).filter fun a => priOf s a == some e || bkpOf s a == some e
/-- DEGRADE of the raising unit (R407). -/
def degrade (i : Nat) (m : Option Nat) (s : State) : State :=
  if 0x100 ≤ i then
    let t := (i - 0x100) / 16
    let n := 12 * t + m.getD 0
    match i % 16 with
    | 0 | 1 | 0xF => forEach (tilePorts t) fenceNow s
    | 2 | 3 | 4 | 5 | 6 | 0xD | 0xE => fenceNow n s
    | 7 | 8 | 9 => ffOff n s
    | _ => s
  else match encOfSrc i m with
    | some e => forEach (axesOf s e) axisCheck (modEnc e (fun x => { x with deg := true }) s)
    | none =>
      if 0x088 ≤ i ∧ i ≤ 0x097 then forceAxis (i % 8) s
      else if 0x0A0 ≤ i ∧ i ≤ 0x0AF then disarmGen (i - 0x0A0) s
      else if 0x0E0 ≤ i ∧ i ≤ 0x0EF then regionHalt (i % 8) s
      else if 0x0C0 ≤ i ∧ i ≤ 0x0C7 then
        forEach ((List.range 64).filter fun c => dmaPort s c == i - 0x0C0 && decide (1 ≤ dmaState s c) && decide (dmaState s c ≤ 4) &&
          (dch s c).stop.isNone) (fun c s => dmaStop c 3 s) s
      else s
/-- SAFE (R329, R302, R406). -/
def reactSafe (s : State) : State := forEach (List.range 96) ffSafe (paqPause s)
/-- The HALT effects beyond those of SAFE (R406). -/
def reactHalt (s : State) : State :=
  let s := forEach (List.range 16) disarmGen s
  let s := forEach (List.range 96) disarmChan s
  forEach (List.range 8) regionHalt (forEach (List.range 64) dmaPause s)
/-- The reaction of a raise at a severity. -/
def reactTo (i : Nat) (m : Option Nat) (sev : Nat) (s : State) : State :=
  if sev = 2 then degrade i m s
  else if 3 ≤ sev then
    let was := react s
    let s := setF (flk 4) 3 1 (max was sev) s
    let s := if was < sev then reactSafe s else s
    if sev = 4 then reactHalt s else s
  else s

/-! ## Raises (R406–R412) -/

/-- SUMMARY bit of a source. -/
def sumK (i : Nat) : RKey := flk (0x40 + 4 * (i / 32))
/-- The severity at which a raise reacts (R405, R370). -/
def raiseSev (s : State) (r : Report) : Nat :=
  let v := r.sev.getD (rf s (srk r.src 0) 2 0)
  if r.bw ∧ v = 0 then 1 else v
/-- Pins that carry the fault mirror without being P0's are refused as FAULT_N falls (R396). -/
def mirrorRefusals (s : State) : State :=
  forEach ((List.range 256).filter fun p => pinCarries s p 6 && ownerOf s 0x0A p != 0) (fun p s => refuse (ownerOf s 0x0A p) 0x29 s) s
/-- A raise counts, latches its source and member, keeps the highest severity, and sets the source's SUMMARY bit (R406, R408, R412). -/
def latchRaise (r : Report) (sev : Nat) (s : State) : State :=
  let s := setB (srk r.src 4) 1 true (satF (srk r.src 4) 31 16 s)
  let s := wr (srk r.src 0xC) (rd s (srk r.src 0xC) ||| BitVec.ofNat 32 (memBit r.mem)) s
  let s := setF (srk r.src 4) 6 4 (max (rf s (srk r.src 4) 6 4) sev) s
  setB (sumK r.src) (r.src % 32) true s
/-- The raise is the first error: the collector is CLEAR and the severity is NOTIFY or higher (R408). -/
def firstError (sev : Nat) (s : State) : Bool := decide (1 ≤ sev) && !rb s (flk 4) 0
/-- The collector becomes CAPTURED with these eight words (R408). -/
def captureRaise (ws : List Word) (s : State) : State :=
  setB (flk 4) 0 true ((ws.zipIdx).foldl (fun s w => wr (flk (0x20 + 4 * w.2)) w.1 s) s)
/-- The collector takes one raise. -/
def takeReport (r : Report) (s : State) : State :=
  let sev := raiseSev s r
  let was := faultN s
  let s := latchRaise r sev s
  let first := firstError sev s
  let ws := faultWords r sev first s
  let s := if first then captureRaise ws s else s
  let s := writerOffer ws sev s
  let s := if !was && faultN s then mirrorRefusals s else s
  reactTo r.src r.mem sev s
/-- The collector takes the reports that wait, and those their reactions make. -/
def collectN : Nat → State → State
  | 0, s => { s with rep := [] }
  | f + 1, s => match s.rep with
    | [] => s
    | r :: rs => collectN f (takeReport r { s with rep := rs })
/-- The collector is off in power-on reset, while RESET_N is low and after a power fail (R412, R426). -/
def collect (s : State) : State :=
  if s.por || s.rstn || s.pfail then { s with rep := [] } else collectN (s.rep.length + 1024) s
/-- Every step ends so: calibration phases that are done go on, and the collector takes what was reported. -/
def settle (s : State) : State := collect (calAdvance s)

/-! ## Broken wires and injection (R405, R416) -/

/-- The member that an event names, for a source with members. -/
def memOf (i m : Nat) : Option Nat := match srcMembers i with | some _ => some m | none => none
/-- Whether a source has this member. -/
def memValid (i m : Nat) : Bool := match srcMembers i with | some n => decide (m < n) | none => true
/-- Add, or take away, a member of a sparse mask. -/
def addBit (l : List (Nat × Nat)) (i b : Nat) : List (Nat × Nat) := nput 0 l i (nget 0 l i ||| b)
def subBit (l : List (Nat × Nat)) (i b : Nat) : List (Nat × Nat) := nput 0 l i (nget 0 l i - (nget 0 l i &&& b))
/-- The unit that reports a source by itself (R409). Sources 0x002, 0x030 and 0x031 have no unit of their own: the rule
names the unit that attempted the action, or that owns the memory, and there is none here. -/
def srcUnit (i : Nat) : Nat :=
  if 0x100 ≤ i then 0x10 + (i - 0x100) / 16
  else if i = 0x005 then 0x24
  else if i = 0x006 ∨ i = 0x00B then 0x01
  else if 0x007 ≤ i ∧ i ≤ 0x00A then 0x2A
  else if 0x010 ≤ i ∧ i ≤ 0x017 then 0x3F
  else if 0x028 ≤ i ∧ i ≤ 0x02F then 0x28
  else if 0x040 ≤ i ∧ i ≤ 0x080 then 0x20
  else if 0x088 ≤ i ∧ i ≤ 0x097 then 0x21
  else if 0x0A0 ≤ i ∧ i ≤ 0x0AF then 0x22
  else if 0x0B0 ≤ i ∧ i ≤ 0x0B4 then 0x23
  else if 0x0B8 ≤ i ∧ i ≤ 0x0C7 then 0x25
  else if 0x0C8 ≤ i ∧ i ≤ 0x0CF then 0x29
  else if 0x0D0 ≤ i ∧ i ≤ 0x0DF then 0x30 + i % 8
  else if 0x0E0 ≤ i ∧ i ≤ 0x0EF then 0x38 + i % 8
  else 0x00
/-- The report of an internal unit about a member, with the marks of a broken wire and of injection. -/
def wireReport (i : Nat) (m : Option Nat) (inj bw : Bool) (s : State) : Report :=
  { hwReport i m (srcUnit i) (srcOwner s i (m.getD 0)) with inj := inj, bw := bw }
/-- A level source (R404). -/
def srcLevel (i : Nat) : Bool :=
  i == 0x005 || decide (0x007 ≤ i ∧ i ≤ 0x00A) || decide (0x028 ≤ i ∧ i ≤ 0x02F) || decide (0x040 ≤ i ∧ i ≤ 0x05F) ||
  decide (0x088 ≤ i ∧ i ≤ 0x097) || decide (0x0B1 ≤ i ∧ i ≤ 0x0B3) || decide (0x0C8 ≤ i ∧ i ≤ 0x0CF) ||
  decide (0x0D8 ≤ i ∧ i ≤ 0x0DF) || (decide (0x100 ≤ i ∧ i ≤ 0x17F) && [0, 1, 2, 7, 8, 9, 0xA, 0xF].contains (i % 16))
/-- As a reset ends, each level source that is active is raised once (R412), with the die temperature at detection, or
with BW where its wires are what makes it active (R405). -/
def raiseActive (s : State) : State :=
  let raise (i : Nat) (m : Option Nat) (s : State) : State :=
    let bw := nget 0 s.flt.bw i &&& memBit m != 0
    let r := wireReport i m false bw s
    report (if 0x100 ≤ i ∧ i % 16 = 0xF ∧ !bw then { r with d6 := (tile s ((i - 0x100) / 16)).dieTemp } else r) s
  forEach (((s.flt.cause ++ s.flt.bw).map (·.1)).eraseDups.filter srcLevel) (fun i s =>
    let on := nget 0 s.flt.cause i ||| nget 0 s.flt.bw i
    match srcMembers i with
    | some n => forEach ((List.range n).filter fun m => on / 2 ^ m % 2 == 1) (fun m s => raise i (some m) s) s
    | none => if on = 0 then s else raise i none s) s
/-- A member's two wires stand at equal levels for 100 ns. In power-on reset
nothing is raised: the wires that stand broken are reported by step 2 of the boot (R420). -/
def wireBroken (i m : Nat) (s : State) : State :=
  if !srcUsed i || !memValid i m then s else
  let mb := memOf i m
  if nget 0 s.flt.bw i &&& memBit mb != 0 then s else
  let u := modFlt (fun f => { f with bw := addBit f.bw i (memBit mb) }) s
  if s.por then u else report (wireReport i mb false true s) u
/-- The wires differ again. -/
def wireMended (i m : Nat) (s : State) : State := modFlt (fun f => { f with bw := subBit f.bw i (memBit (memOf i m)) }) s
/-- The instances of each ledger class (R105). -/
def ledInstances : Nat → Nat
  | 1 => 96 | 2 => 96 | 3 => 32 | 4 => 16 | 5 => 64 | 6 => 8 | 7 => 65 | _ => 8
/-- INJECT of one mode at a member (R416). -/
def injectMode (mode i : Nat) (m : Option Nat) (s : State) : State :=
  let b := memBit m
  match mode with
  | 0 => report (wireReport i m true false s) s
  | 1 =>
    let was := liveMask s.flt i &&& b
    let s := modFlt (fun f => { f with hold := addBit f.hold i b }) s
    if was = 0 then report (wireReport i m true false s) s else s
  | 2 =>
    let was := (nget 0 s.flt.bw i ||| nget 0 s.flt.bwInj i) &&& b
    let s := modFlt (fun f => { f with bwInj := addBit f.bwInj i b }) s
    if was = 0 then report (wireReport i m true true s) s else s
  | _ => modFlt (fun f => { f with hold := subBit f.hold i b, bwInj := subBit f.bwInj i b }) s
/-- Command body of INJECT with one MODE. -/
def bodyInject (mode : Nat) (c : Cmd) (s : State) : Ans :=
  let w := pw c 0
  let i := fld w 8 0
  let count := decide (0x010 ≤ i) && decide (i ≤ 0x017)
  if count then
    let n := fld w 22 16
    if ledInstances (i - 0x00F) ≤ n then Ans.fail s 0x06 0 0x91 []
    else if c.part != 0 then Ans.deny c s 0 []
    else
      let mark (s : State) : State := { s with injFlag := BitVec.allOnes 32 }
      let r := { wireReport i none true (mode == 2) s with unit := 0x3F, d6 := BitVec.ofNat 32 n }
      let s' := injectMode mode i none s
      let s' := { s' with rep := s'.rep.map fun x => if x = wireReport i none true (mode == 2) s then r else x }
      Ans.ok (if mode = 3 then s' else mark (ledAdd (i - 0x00F) n 0 1 s')) []
  else if !srcUsed i || (match srcMembers i with | some n => decide (n ≤ fld w 20 16) | none => fld w 20 16 != 0) then Ans.fail s 0x06 0 0x91 []
  else if c.part != 0 then Ans.deny c s 0 []
  else Ans.ok (injectMode mode i (memOf i (fld w 20 16)) s) []

/-! ## Clearing (R412, R413) -/

/-- A source is latched. -/
def latched (s : State) (i : Nat) : Bool := rb s (srk i 4) 1
/-- For FAULT_CLEAR a partition owns a source: P0 owns all, a tenant a source whose latched members are its own. -/
def ownsLatched (s : State) (p i : Nat) : Bool :=
  p == 0 || (match srcMembers i with
    | some n => (List.range n).all fun m => !rb s (srk i 0xC) m || srcOwner s i m == p
    | none => srcOwner s i 0 == p)
/-- Clear a source's latches. -/
def clearSrc (cnt : Bool) (i : Nat) (s : State) : State :=
  let s := setB (sumK i) (i % 32) false (wr (srk i 0xC) 0 (setF (srk i 4) 6 4 0 (setB (srk i 4) 1 false s)))
  if cnt then setF (srk i 4) 31 16 0 s else s
/-- An encoder port returns from DEGRADE once no source of it stays latched at that severity (R407). -/
def encReturn (s : State) : State :=
  forEach ((List.range 32).filter fun e => (encP s e).deg && !([0x040 + e, 0x060 + e, 0x080].any fun i =>
      latched s i && decide (2 ≤ rf s (srk i 4) 6 4) && (i != 0x080 || rb s (srk 0x080 0xC) e)))
    (fun e s => forEach (axesOf s e) axisCheck (modEnc e (fun x => { x with deg := false }) s)) s
/-- The state of the collector after a clear (R413). -/
def afterClear (s : State) : State :=
  let live := (List.range 512).filter (latched s)
  let top := (live.map fun i => rf s (srk i 4) 6 4).foldl max 0
  let s := if 1 ≤ top then s else
    setB (flk 4) 0 false (forEach (List.range 8) (fun w s => wr (flk (0x20 + 4 * w)) 0 s) s)
  let s := setF (flk 4) 3 1 (if 3 ≤ top then top else 0) (encReturn s)
  if 3 ≤ top then s else paqResume s
/-- Command body of FAULT_CLEAR. -/
def bodyFaultClear (c : Cmd) (s : State) : Ans :=
  let w := pw c 0
  let all := bit w 31
  let first := fld w 8 0
  let n := fld w 25 16
  if !all && (n = 0 || decide (512 < first + n)) then Ans.fail s 0x06 0 0 []
  else
    let range := if all then (List.range 512).filter fun i => latched s i && ownsLatched s c.part i
      else ((List.range n).map (first + ·)).filter (latched s)
    match firstOf range fun i => !ownsLatched s c.part i with
    | some i => Ans.deny c s 0 (numW i)
    | none => match firstOf range fun i => liveMask s.flt i != 0 with
      | some i =>
        let m := match srcMembers i with
          | some k => ((List.range k).find? fun m => liveMask s.flt i / 2 ^ m % 2 == 1).getD 0xFF
          | none => 0xFF
        Ans.fail s 0x10 0 0 [BitVec.ofNat 32 (i + 65536 * m)]
      | none => Ans.ok (afterClear (forEach range (clearSrc (bit w 30)) s)) []

/-! ## Severity and reading (R415, R417) -/

/-- Command body of SEVERITY_SET. -/
def bodySeverity (c : Cmd) (s : State) : Ans :=
  let w := pw c 0
  let first := fld w 8 0
  let n := fld w 25 16
  let used := ((List.range n).map (first + ·)).filter srcUsed
  if n = 0 || decide (512 < first + n) then Ans.fail s 0x06 0 0 []
  else if 4 < fld (pw c 1) 2 0 then Ans.fail s 0x06 1 0 []
  else if used.isEmpty then Ans.fail s 0x06 0 0x90 []
  else if c.part != 0 then Ans.deny c s 0 []
  else if rb s (flk 0) 8 then
    Ans.fail (report (cmdReport c 0x004 2 0xFF 0) s) 0x07 0xFF 0 []
  else Ans.ok (forEach used (fun i s => setF (srk i 0) 3 0 (fld (pw c 1) 3 0) s) s) []
/-- SRC.STAT as it reads (R405, R412, R416): CAUSE, BW and INJ are live. -/
def srcStat (s : State) (i : Nat) : Word :=
  let f := s.flt
  let w := rd s (srk i 4)
  let w := setBit w 0 (srcLevel i && liveMask f i != 0)
  setBit (setBit w 2 (nget 0 f.bw i ||| nget 0 f.bwInj i != 0)) 3 (nget 0 f.hold i ||| nget 0 f.bwInj i != 0)
/-- The member bits of a source that a reader may see (R417). -/
def seenMembers (s : State) (p i : Nat) : Word :=
  match srcMembers i with
  | some n => BitVec.ofNat 32 ((List.range n).foldl (fun w m => w + 2 ^ m * (p == 0 || srcOwner s i m == p).toNat) 0)
  | none => 0xFFFFFFFF
/-- A reader owns a source at all. -/
def ownsSome (s : State) (p i : Nat) : Bool :=
  p == 0 || (match srcMembers i with
    | some n => (List.range n).any fun m => srcOwner s i m == p
    | none => srcOwner s i 0 == p)
/-- A register of a source as it reads to a partition. -/
def srcView (s : State) (p i off : Nat) : Word :=
  if !srcUsed i then 0 else
  match off with
  | 0 => rd s (srk i 0)
  | 4 => srcStat s i
  | 8 => BitVec.ofNat 32 (liveMask s.flt i) &&& seenMembers s p i
  | 0xC => rd s (srk i 0xC) &&& seenMembers s p i
  | _ => 0
/-- Command body of FAULT_READ with one OP (R417). -/
def bodyFaultRead (op : Nat) (c : Cmd) (s : State) : Ans :=
  let w := pw c 0
  let n := fld w 13 8
  let first := fld w 24 16
  match op with
  | 0 =>
    if n = 0 || decide (31 < n) then Ans.fail s 0x06 0 0 []
    else if c.part != 0 then Ans.deny c s 0 []
    else
      let rs := s.flt.fifo.take n
      Ans.ok (modFlt (fun f => { f with fifo := f.fifo.drop n }) s) (BitVec.ofNat 32 rs.length :: rs.flatten)
  | 1 =>
    if c.part != 0 then Ans.deny c s 0 []
    else Ans.ok s (BitVec.ofNat 32 (256 * (rb s (flk 4) 0).toNat) :: (List.range 8).map fun k => rd s (flk (0x20 + 4 * k)))
  | _ =>
    let is := (List.range n).map (first + ·)
    if n = 0 || decide (512 < first + n) then Ans.fail s 0x06 0 0 []
    else match firstOf is fun i => !ownsSome s c.part i with
    | some i => Ans.deny c s 0 (numW i)
    | none => Ans.ok s (BitVec.ofNat 32 0 :: is.flatMap fun i => [0, 4, 8, 0xC].map (srcView s c.part i))

end Sys2Proof.Machine
end

