-- ==== Sys2Proof/Machine/SwarmOps.lean ====
section
/-! DEFINITION. The Swarm link (R146–R162): frames, training, tokens on the common grid, failed segments,
holdover, fallback and RESYNC. -/

namespace Sys2Proof.Machine

/-- `n` bytes of a number, lowest first (R9). -/
def leBytes (v : Nat) : Nat → List Byte
  | 0 => []
  | n + 1 => BitVec.ofNat 8 v :: leBytes (v / 256) n
/-- The number that bytes spell, lowest first. -/
def leNat (bs : List Byte) : Nat := bs.foldr (fun b a => a * 256 + b.toNat) 0
/-- Bytes `i` to `i` + `n` − 1 of a payload as a number. -/
def payNat (f : SwFrame) (i n : Nat) : Nat := leNat ((f.pay.drop i).take n)

/-- This device's node number, and the nodes of the ring. -/
def swNode (s : State) : Nat := rf s (swk 0) 2 0
def swN (s : State) : Nat := rf s (swk 0) 6 4 + 1
/-- A segment is declared failed. -/
def segFailed (s : State) (east : Bool) : Bool := rb s (swk 0x20) (if east then 5 else 6)

/-- The 16 bytes of a frame (R148). -/
def frameBytes (typ origin seq : Nat) (pay : List Byte) : List Byte :=
  let body := BitVec.ofNat 8 (typ + 16 * origin) :: BitVec.ofNat 8 seq :: (pay ++ List.replicate 11 0).take 11
  let c := crc16 body
  (0xBC#8 :: body) ++ [c.extractLsb' 0 8, c.extractLsb' 8 8]

/-- Put a frame on one segment; the last 16 are kept for a resend (R155). DEDUCED: R156 stops only forwarding into a
failed segment, and 1,000 good frames must pass to restore it, so a node's own frames and NAKs still go into it. -/
def sendOn (east : Bool) (bs : List Byte) (s : State) : State :=
  onlyIf (s.rails.getLsbD 24) (emit (.swarm east bs)) (modSw (fun w =>
    if east then { w with sentE := (bs :: w.sentE).take 16 } else { w with sentW := (bs :: w.sentW).take 16 }) s)
/-- An origin sends a frame both ways round the ring (R149), with the next SEQ of its type. -/
def originate (typ : Nat) (pay : List Byte) (s : State) : State :=
  let q := nget 0 s.sw.seqs typ
  let bs := frameBytes typ (swNode s) q pay
  sendOn false bs (sendOn true bs (modSw (fun w => { w with seqs := nput 0 w.seqs typ ((q + 1) % 256) }) s))
/-- Forward a frame in its direction of travel, unless the next node is its origin (R149) or the segment has failed
(R156). -/
def forward (typ : Nat) (f : SwFrame) (s : State) : State :=
  let n := swN s
  let next := if f.seg then (swNode s + n - 1) % n else (swNode s + 1) % n
  if next = f.origin.val ∨ segFailed s (!f.seg) then s else sendOn (!f.seg) (frameBytes typ f.origin.val f.seq.toNat f.pay) s

/-- A segment is declared failed (R155, R156). -/
def segFail (east : Bool) (s : State) : State :=
  let s := modSw (fun w => { w with nak := w.nak.filter (fun x => x.1 != east), goodE := if east then 0 else w.goodE, goodW := if east then w.goodW else 0 }) s
  if segFailed s east then s else
  causeOn 0x0B1 none 0x23 0 0 (incR (swk 0x34) (setB (swk 0x20) (if east then 5 else 6) true s))
/-- A good frame on a failed segment: 1,000 in a row restore it (R156). -/
def segGood (east : Bool) (s : State) : State :=
  if !segFailed s east then s else
  let n := (if east then s.sw.goodE else s.sw.goodW) + 1
  let s := modSw (fun w => if east then { w with goodE := n } else { w with goodW := n }) s
  if n < 1000 then s else
  let s := setB (swk 0x20) (if east then 5 else 6) false s
  let s := modSw (fun w => if east then { w with goodE := 0 } else { w with goodW := 0 }) s
  if segFailed s (!east) then s else causeOff 0x0B1 none s

/-- A frame of this origin waits to be sent: a TOKEN that has been made, or one whose interval of R148 has passed
since the last of its kind and number. -/
def sendDue (s : State) (kind idx : Nat) : Bool :=
  let since (n : Nat) : Bool := decide (nget 0 s.sw.sentAt (16 * kind + idx) + n ≤ s.tb)
  match kind with
  | 0 => !s.sw.txTok.isEmpty
  | 1 => swMaster s && since 1000
  | 2 => !rb s (swk 0) 3 && decide (2 ≤ swState s) && since 4000
  | 3 => swMaster s && rb s (swk 0x10) idx && since 4000
  | _ => swMaster s && rb s (swk 0x10) (16 + idx) && since 100000
/-- A frame of higher priority waits (R148): of the kinds below `kind`, and before TRAIN also a NAK. -/
def outranked (s : State) (kind : Nat) : Bool :=
  (decide (6 ≤ kind) && !s.sw.txNak.isEmpty) || (List.range (min kind 5)).any fun k =>
    match k with
    | 3 => (List.range 8).any (sendDue s 3)
    | 4 => (List.range 16).any (sendDue s 4)
    | k => sendDue s k 0
/-- The NAK frames go out once no frame of higher priority waits (R148). -/
def sendNaks (s : State) : State :=
  if outranked s 5 then s else
  forEach s.sw.txNak (fun x s => sendOn x.1 x.2 s) (modSw (fun w => { w with txNak := [] }) s)
/-- The ring is being trained, as this device sees it (R152). -/
def training (s : State) : Bool :=
  (!rb s (swk 0) 3 && swState s == 1) || s.ops.any (fun o => match o.kind with | .train => true | _ => false)
/-- How long a frame's SEQ names it alone, in nanoseconds: 256 frames of its type and origin at the greatest rate of
R148 and R150. DEDUCED: a copy within that time is the second copy of R149, however late; after it the SEQ names a
new frame. -/
def seqLife : Nat → Nat
  | 1 => 102400 | 2 => 256000 | 3 => 1024000 | 4 => 128000 | 5 => 1600000 | _ => 102400
/-- A frame whose resend is awaited is this one: its segment, TYPE, ORIGIN and SEQ (R155). -/
def nakNames (typ : Nat) (f : SwFrame) (x : Bool × Nat × Nat × Nat) : Bool :=
  x.1 == f.seg && x.2.1 == typ + 16 * f.origin.val && x.2.2.1 == f.seq.toNat
/-- Reception of a frame (R149, R155): CRC, NAK and resend, forwarding, and the first good copy applied. In OFF nothing
is received, but a master that trains the ring is in OFF and forwards the TRAIN frames (R149, R152). -/
def receive (typ : Nat) (f : SwFrame) (apply : State → State) (s : State) : State :=
  if swState s = 0 ∧ !(typ = 7 && training s) then s else
  let waited := s.sw.nak.any (nakNames typ f)
  if !f.crcOk then
    if waited && f.resend then segFail f.seg s
    else
      let q := nget 0 s.sw.seqs 6
      let s := modSw (fun w => { w with nak := w.nak ++ [(f.seg, typ + 16 * f.origin.val, f.seq.toNat, s.tb + 2000)], seqs := nput 0 w.seqs 6 ((q + 1) % 256), goodE := if f.seg then 0 else w.goodE, goodW := if f.seg then w.goodW else 0 }) s
      sendNaks (modSw (fun w => { w with txNak := w.txNak ++ [(f.seg,
        frameBytes 6 (swNode s) q [BitVec.ofNat 8 f.origin.val, BitVec.ofNat 8 typ, f.seq])] }) s)
  else
    let s := segGood f.seg s
    let s := if waited && f.resend then
      raiseHw 0x0B0 none 0x23 0 (incR (swk 0x30) (modSw (fun w => { w with nak := w.nak.filter (fun x => !nakNames typ f x) }) s)) else s
    let s := if typ = 6 then s else forward typ f s
    let keep := s.sw.seen.filter (fun x => decide (s.tb < x.2.2.2 + seqLife x.1))
    if keep.any (fun x => x.1 == typ && x.2.1 == f.origin.val && x.2.2.1 == f.seq.toNat) && typ != 6 then s
    else
      apply (modSw (fun w => { w with seen := keep ++ [(typ, f.origin.val, f.seq.toNat, s.tb)] }) s)

/-- The 48.16 trigger point k of the last GDESC frame of a generator (R151). -/
def gdescPoint (s : State) (g k : Nat) : Option (BitVec 64) :=
  (gdescOf s g).map (fun x => BitVec.ofNat 64 (x.1 * 65536 + k * x.2))
/-- The nearest time-base value with these low 32 bits. -/
def nearTime (s : State) (lo : Nat) : Nat :=
  let d := sext 32 (lo + 2 ^ 32 - s.tb % 2 ^ 32)
  ((s.tb : Int) + d).toNat
/-- Record of a per-number value. -/
def putAssoc {α : Type} (m : List (Nat × α)) (k : Nat) (v : α) : List (Nat × α) := (k, v) :: m.filter (fun x => x.1 != k)

/-- A good TOKEN frame (R140, R153, R154, R160, R161). -/
def onToken (f : SwFrame) (s : State) : State :=
  let g := payNat f 0 1 % 16
  let k := payNat f 1 6
  if rb s (swk 0) 3 || !rb s (gk g 0) 4 || !genArmed s g || !(swState s == 2 || swState s == 6) then s else
  let (pos, s) := match gdescPoint s g k with
    | some t => (ceilPos t, s)
    | none => let r := takeFree s; (r.1.setWidth 48, r.2)
  let at_ := nearTime s (payNat f 7 4)
  let late := decide (at_ < s.tb)
  let s := if late then incR (swk 0x3C) s else s
  modSw (fun w => { w with tokQ := w.tokQ ++ [(if late then gridUp s s.tb else at_, ⟨g, k, pos, late⟩)] }) s

/-- A good TIME frame (R157, R160). -/
def onTime (s : State) : State :=
  if rb s (swk 0) 3 then s else
  let s := modSw (fun w => { w with lastTime := some s.tb }) s
  if swState s = 3 ∨ swState s = 4 then setF (swk 0x20) 2 0 5 (modSw (fun w => { w with tokQ := [] }) s) else s
/-- A fault-summary record that the Swarm receive bridge refuses whole (R39, R162). -/
def swarmRefused (s : State) : State := if 64 ≤ s.sw.rx then incR (swk 0x40) s else s
/-- A good STATUS frame (R159): its fault-summary record passes the receive bridge, or is refused whole for want of
room (R39, R162). DESIGN CHOICE: a STATUS frame refused at the full bridge is not received for the 12 µs of R159: it
refreshes neither the time nor the LOST mark. -/
def onStatus (f : SwFrame) (s : State) : State :=
  if !rb s (swk 0) 3 then s else
  if 64 ≤ s.sw.rx then swarmRefused s else
  let s := modSw (fun w => { w with rx := w.rx + 1 }) s
  let s := setB (swk 0x24) f.origin.val false (modSw (fun w => { w with status := putAssoc w.status f.origin.val s.tb }) s)
  if rf s (swk 0x24) 7 0 = 0 then causeOff 0x0B3 none s else s
/-- A good POS frame (R133, R160, R161). -/
def onPos (f : SwFrame) (s : State) : State :=
  let a := payNat f 0 1 % 8
  let p := BitVec.ofNat 48 (payNat f 1 6)
  let r := sext 32 (payNat f 7 4)
  if rb s (swk 0) 3 || !axSwarm s a then s else
  let adopt := s.sw.rsAxes.contains a
  if !(swState s == 2 || (swState s == 6 && s.sw.rsT.isSome)) then s else
  let d := sdiff p (axis s a).pos
  let s := if adopt then wr (swk (0x200 + 4 * a)) (intW (clampInt (-(2 ^ 31)) (2 ^ 31 - 1) d))
    (modSw (fun w => { w with rsAxes := w.rsAxes.filter (· != a) }) s) else s
  let s := if adopt && swState s == 6 then modSw (fun w => { w with rsStep := (a, d) :: w.rsStep }) s else s
  let s := modSw (fun w => { w with pos := (a, p.toNat, r, s.tb) :: w.pos.filter (fun x => x.1 != a) }) s
  updNoSrc a (moveAxis a d true (wr (ak a 0x1C) (intW r) s))
/-- A NAK frame: the named frame is sent again once on that segment (R155). -/
def onNak (f : SwFrame) (s : State) : State :=
  let sent := if f.seg then s.sw.sentE else s.sw.sentW
  match sent.find? (fun b => b.getD 1 0 == BitVec.ofNat 8 (payNat f 1 1 + 16 * payNat f 0 1) && b.getD 2 0 == BitVec.ofNat 8 (payNat f 2 1)) with
  | some b => onlyIf (s.rails.getLsbD 24) (emit (.swarm f.seg b)) s
  | none => s

/-- The count that a follower generator's own tokens go on from: one above the last token received, delivered or still
awaiting its instant (R157). DESIGN CHOICE: where none has been received since ARM, the index of the first point of the
last GDESC frame that is ahead of the axis. -/
def nextOwn (s : State) (g : Nat) : Nat :=
  let first := match gdescOf s g with
    | some x =>
      let gap := sext 64 (BitVec.ofNat 64 ((axis s (rf s (gk g 0) 2 0)).pos.toNat * 65536) - BitVec.ofNat 64 (x.1 * 65536)).toNat
      if gap < 0 then 0 else (gap / (max 1 x.2 : Nat)).toNat + 1
    | none => (gen s g).next
  let last := match (gen s g).lastCount with | some c => c + 1 | none => 0
  match (s.sw.tokQ.filter (fun x => x.2.gen == g)).foldl (fun k x => max k (x.2.count + 1)) last with
  | 0 => first
  | k => k
/-- A follower generator goes on by itself from that count, at the points of the last GDESC frame (R157). DESIGN
CHOICE: without any GDESC frame, at the points from the T0 that the local ARM fixed, PITCH apart. -/
def genOwn (g : Nat) (s : State) : State :=
  let k := nextOwn s g
  let x := gen s g
  let own (i : Nat) : BitVec 64 := x.nextT + BitVec.ofNat 64 (i * genPitch s g) - BitVec.ofNat 64 (x.next * genPitch s g)
  let point (i : Nat) : BitVec 64 := (gdescPoint s g i).getD (own i)
  let heard := x.lastCount.isSome || s.sw.tokQ.any (fun y => y.2.gen == g)
  modGen g (fun x => { x with next := k, top := k, nextT := point k, lock := false,
                              lastPos := if heard then some (ceilPos (point (k - 1))) else none }) s
/-- A good GDESC frame (R151): the points of a generator that makes its own tokens are those of the last one (R157). -/
def onGdesc (f : SwFrame) (s : State) : State :=
  let g := payNat f 0 1 % 16
  if rb s (swk 0) 3 then s else
  let s := modSw (fun w => { w with gdesc := (g, payNat f 1 6, payNat f 7 4) :: w.gdesc.filter (fun x => x.1 != g) }) s
  if genAlone s g && genArmed s g then
    modGen g (fun x => { x with nextT := (gdescPoint s g x.next).getD x.nextT }) s
  else s
/-- ARM of a generator (R135); one that makes its own tokens takes its points from the last GDESC frame (R157). -/
def armRing (g : Nat) (t0 : BitVec 48) (s : State) : State :=
  let s := armGen g t0 s
  if genAlone s g && (gdescOf s g).isSome then genOwn g s else s
/-- The registers in which RESYNC records its switch: DSTEP, DGAP and DTIME. -/
def rsKeys : List RKey :=
  ((List.range 8).map fun a => swk (0x200 + 4 * a)) ++ ((List.range 16).map fun g => swk (0x240 + 4 * g)) ++ [swk 0x280, swk 0x284]
/-- A RESYNC that will not complete changes nothing (R161): the registers have their values of before the first
switch, each axis its own position, and the generators that have switched number their own tokens again, above the
last one delivered. -/
def resyncUndo (s : State) : State :=
  let s := modSw (fun w => { w with tokQ := [] }) s
  let back := (List.range 16).filter fun g => rb s (gk g 0) 4 && genArmed s g && s.sw.rsT.isSome && !s.sw.rsGens.contains g
  let s := forEach s.sw.rsSave (fun e s => wr e.1 e.2 s) s
  let s := forEach back genOwn s
  let steps := s.sw.rsStep
  let s := modSw (fun w => { w with rsGens := [], rsT := none, rsAxes := [], rsSave := [], rsStep := [] }) s
  forEach ((List.range 8).filter (axSwarm s)) axisCheck (forEach steps (fun e s => moveAxis e.1 (-e.2) true s) s)

/-- RESYNC ends when every generator has switched (R161). The Swarm resync record is written then: an attempt that
ends TOO_LATE writes none. -/
def resyncDone (s : State) : State :=
  if swState s = 6 ∧ s.sw.rsGens = [] then
    match s.ops.find? (fun o => match o.kind with | .resync _ => true | _ => false) with
    | some o =>
      let t := s.sw.rsT.getD s.tb
      let s := setF (swk 0x20) 2 0 2 (setB (swk 0x20) 4 false s)
      let s := causeOff 0x0B2 none (modSw (fun w => { w with fall := false, hold0 := none, lastTime := some s.tb,
                                                              rsSave := [], rsStep := [] }) s)
      let s := raiseHw 0x0B4 none 0x23 0 (forEach ((List.range 8).filter (axSwarm s)) updNoSrc s)
      complete o.q o.tag 0x00 [lo32 t, hi32 t] s
    | none => s
  else s
/-- The switch of a follower generator to the master's numbering (R161). Its own deferred tokens are not delivered
any more: their counts are among those skipped. -/
def resyncSwitch (k : Token) (s : State) : State :=
  let last := (gen s k.gen).lastCount
  let s := modGen k.gen (fun x => { x with backlog := [] }) s
  let s := if s.sw.rsT.isSome then s else modSw (fun w => { w with rsSave := rsKeys.map fun r => (r, rd s r) }) s
  let s := wr (swk (0x240 + 4 * k.gen)) (BitVec.ofNat 32 (match last with | some l => k.count - l - 1 | none => 0)) s
  let s := match s.sw.rsT with
    | some _ => s
    | none =>
      let s := wr (swk 0x280) (lo32 s.tb) (wr (swk 0x284) (hi32 s.tb) s)
      modSw (fun w => { w with rsT := some s.tb, rsAxes := (List.range 8).filter (axSwarm s) }) s
  modSw (fun w => { w with rsGens := w.rsGens.filter (· != k.gen) }) s
/-- Delivery of the first due token at its instant (R153, R154, R161), which the use set of the generator's axis must
permit (R94). DESIGN CHOICE: a token that still awaits its instant when its generator is disarmed (R139) is delivered,
and on a master also one whose generator is in rewind lock by then (R138): it has been made, and the other devices
deliver it. -/
def deliverRing (s : State) : State :=
  match s.sw.tokQ.find? (fun x => decide (x.1 ≤ s.tb)) with
  | none => s
  | some x =>
    let s := modSw (fun w => { w with tokQ := w.tokQ.erase x }) s
    let k := x.2
    if rb s (swk 0) 3 then toTiles k (trigPulse k.gen s)
    else
      let above := match (gen s k.gen).lastCount with | some l => decide (l < k.count) | none => true
      if !above then s else
      if !genMay s k.gen then refuse (ownerOf s 0x07 k.gen) 0x22 s else
      let s := if swState s == 6 && s.sw.rsGens.contains k.gen then resyncSwitch k s else s
      let s := modGen k.gen (fun g => { g with count := g.count + 1, lastDel := some s.tb, lastCount := some k.count }) s
      resyncDone (toTiles k (trigPulse k.gen s))

/-- A follower enters holdover (R157). -/
def holdoverStart (s : State) : State :=
  let due := match s.sw.lastTime with | some t => decide (t + 2000 ≤ s.tb) | none => true
  if rb s (swk 0) 3 || !due || !(swState s == 2 || decide (5 ≤ swState s)) then s else
  let again := decide (5 ≤ swState s)
  let s := if swState s = 6 then resyncUndo s else s
  let s := incR (swk 0x38) (setB (swk 0x20) 4 true (setF (swk 0x20) 2 0 3 s))
  let s := causeOn 0x0B2 none 0x23 0 0 (modSw (fun w => { w with hold0 := some s.tb, fall := again && w.fall, rsAxes := [] }) s)
  if again then s else
  forEach ((List.range 16).filter fun g => rb s (gk g 0) 4 && genArmed s g) genOwn s
/-- A follower axis follows the last rate in holdover (R157). Its motion is a change of position, which RATE measures
(R131). DESIGN CHOICE: once TIME frames have returned and STATE is RELINKED, it goes on so until holdover ends
(R158, R160). -/
def extrapolate (a : Nat) (s : State) : State :=
  if !axSwarm s a || !swAlone s || followsMaster s a || s.sw.fall || s.sw.hold0.isNone then s else
  match s.sw.pos.find? (fun x => x.1 == a) with
  | some (_, p, r, t) => moveAxis a (sdiff (posAdd (BitVec.ofNat 48 p) (r * ((s.tb - t : Nat) : Int) / 16000000000)) (axis s a).pos) true s
  | none => s
/-- The holdover time is over (R158). DESIGN CHOICE: HOLD.MS runs on when TIME frames have returned and STATE is
RELINKED, which then stays RELINKED; only local ports count from then on. DESIGN CHOICE: with FALLBACK = 1 and no local
port bound to any axis with SRC = 1, STATE stays HOLDOVER. An axis that now counts a local port is judged for failover
(R128). -/
def holdoverEnd (s : State) : State :=
  match s.sw.hold0 with
  | none => s
  | some t =>
    if !swAlone s || decide (s.tb < t + 1000000 * rf s (swk 0xC) 6 0) then s else
    let axs := (List.range 8).filter (axSwarm s)
    let s := modSw (fun w => { w with hold0 := none, fall := true }) s
    let s := if swState s == 3 && rb s (swk 0) 7 && axs.any (fun a => (priOf s a).isSome || (bkpOf s a).isSome)
      then setF (swk 0x20) 2 0 4 s else s
    forEach axs axisCheck s

/-- A RESYNC that has not completed is given up (R161): the follower is RELINKED, and nothing more switches. -/
def resyncAbandon (s : State) : State :=
  resyncUndo (if swState s = 6 then setF (swk 0x20) 2 0 5 s else s)
/-- The master has had no STATUS frame from follower `d` for 12 µs (R159). -/
def followerLost (d : Nat) (s : State) : State :=
  match s.sw.status.find? fun x => x.1 == d with
  | some (_, t) =>
    if swMaster s && d != swNode s && decide (d < swN s) && decide (t + 12000 ≤ s.tb) && !rb s (swk 0x24) d then
      causeOn 0x0B3 none 0x23 0 0 (setB (swk 0x24) d true s)
    else s
  | none => s
/-- A resend has not arrived within 2 µs (R155). -/
def resendTimeout (east : Bool) (s : State) : State :=
  if s.sw.nak.any fun x => x.1 == east && decide (x.2.2.2 ≤ s.tb) then segFail east s else s

/-- The longer way round to the farthest follower, in units of 1.25 ns (R152 step 3). -/
def longWay (master n : Nat) (hops : List (BitVec 16 × BitVec 16)) : Nat :=
  let e (i : Nat) := ((hops.getD (i % n) (0, 0)).1).toNat
  let w (i : Nat) := ((hops.getD (i % n) (0, 0)).2).toNat
  ((List.range n).map fun d =>
    if d = 0 then 0 else
    max (((List.range d).map fun i => e (master + i)).sum) (((List.range (n - d)).map fun i => w (master + n - 1 - i)).sum)).foldl max 0
/-- Every instant from which the device measures a time moves with the time base, so that its forward step (R46) shortens
and lengthens none. -/
def shiftTimes (d : Nat) (s : State) : State :=
  let later (t : Option Nat) : Option Nat := t.map (· + d)
  { s with
    enc := s.enc.map fun x => { x with lastEdge := later x.lastEdge, chgA := later x.chgA, chgB := later x.chgB, chgZ := later x.chgZ }
    gens := s.gens.map fun x => { x with lastDel := later x.lastDel, pulseEnd := later x.pulseEnd }
    links := s.links.map fun l => { l with lastMsg := later l.lastMsg }
    flt := { s.flt with lastOvf := later s.flt.lastOvf, lastLog := later s.flt.lastLog }
    tiles := s.tiles.map fun x => { x with pllStart := later x.pllStart, tripAt := later x.tripAt }
    chans := s.chans.map fun c => { c with line := c.line.map fun l => { l with t0 := l.t0 + d } }
    vports := s.vports.map fun v => { v with vck := later v.vck, vsp := v.vsp.map fun p => { p with t0 := p.t0 + d } }
    hold := s.hold.map fun c => { c with mark := later c.mark }
    molts := s.molts.map fun m => { m with deadline := m.deadline + d }
    ops := s.ops.map fun o => { o with kind := match o.kind with
      | .calRun c => .calRun { c with tmo := c.tmo + d }
      | .calCommit l a n t k f => .calCommit l a n (t + d) k f
      | .resync t => .resync (t + d)
      | k => k }
    markers := s.markers.map fun e => (e.1, e.2 + d)
    tbpEnd := later s.tbpEnd
    sup := { s.sup with at_ := s.sup.at_ + d, dac := s.sup.dac.map fun x => (x.1 + d, x.2) }
    sw := { s.sw with
      seen := s.sw.seen.map fun x => (x.1, x.2.1, x.2.2.1, x.2.2.2 + d)
      lastTime := later s.sw.lastTime
      pos := s.sw.pos.map fun x => (x.1, x.2.1, x.2.2.1, x.2.2.2 + d)
      hold0 := later s.sw.hold0
      nak := s.sw.nak.map fun x => (x.1, x.2.1, x.2.2.1, x.2.2.2 + d)
      status := s.sw.status.map fun x => (x.1, x.2 + d)
      sentAt := s.sw.sentAt.map fun x => (x.1, x.2 + d) } }
/-- The time base steps forward to the ring's value (R46, R152 step 4). -/
def stepTb (t : Nat) (s : State) : State :=
  let d := t - s.tb
  { shiftTimes d (wr (swk 0x28) (lo32 d) (wr (swk 0x2C) (hi32 d) s)) with tb := s.tb + d }
/-- Training ends (R152); a ring whose nodes do not answer with consecutive numbers stays untrained on every device.
DESIGN CHOICE: a BUDGET of more than 16 bits is kept modulo 65,536, in the register and in the completion. -/
def trainDone (consecutive : Bool) (hops : List (BitVec 16 × BitVec 16)) (newTb : Nat) (s : State) : State :=
  let op := s.ops.find? (fun o => match o.kind with | .train => true | _ => false)
  if rb s (swk 0) 3 then
    match op with
    | none => s
    | some o =>
      let n := swN s
      if !consecutive || hops.length != n then complete o.q o.tag 0x06 [detail 0xFF 0x21] s else
      let s := forEach (hops.zipIdx) (fun h s =>
        wr (swk (0x100 + 4 * h.2)) (BitVec.ofNat 32 (h.1.1.toNat + 65536 * h.1.2.toNat)) s) s
      let grid := max 1 (rf s (swk 4) 15 0)
      let ns4 := 5 * longWay (swNode s) n hops + 4 * rf s (swk 8) 31 16
      let budget := (ns4 + 4 * grid - 1) / (4 * grid) * grid
      let s := setF (swk 0x20) 2 0 2 (setF (swk 8) 15 0 (budget % 65536) s)
      let s := stepTb newTb s
      let s := modSw (fun w => { w with status := ((List.range n).filter (· != swNode s)).map (fun i => (i, s.tb)) }) s
      complete o.q o.tag 0x00 [BitVec.ofNat 32 (budget % 65536 + 65536 * (n - 1))] s
  else if swState s = 1 && consecutive then
    let s := stepTb newTb (setF (swk 0x20) 2 0 2 s)
    modSw (fun w => { w with lastTime := some s.tb }) s
  else s

/-- The highest severity of an active source, and the number of active sources. -/
def activeSummary (s : State) : Nat × Nat :=
  (List.range 512).foldl (fun a i => if liveMask s.flt i = 0 then a else (max a.1 (rf s ⟨.src, i, 0⟩ 2 0), a.2 + 1)) (0, 0)
/-- An origin sends a frame of a kind and number, and notes the time. -/
def sendFrame (kind idx typ : Nat) (pay : List Byte) (s : State) : State :=
  originate typ pay (modSw (fun w => { w with sentAt := nput 0 w.sentAt (16 * kind + idx) s.tb }) s)
/-- The frames of an origin in their order of priority (R148): 0 TOKEN, 1 TIME, 2 STATUS, 3 POS, 4 GDESC, 5 TRAIN; a
frame waits while one of higher priority does. DESIGN CHOICE: the ring state byte of a TIME frame is STAT.STATE of
the master. The spec gives no content of a TRAIN frame: its payload is free. -/
def swarmSend (kind idx : Nat) (s : State) : State :=
  let master := rb s (swk 0) 3
  if outranked s (if kind = 5 then 6 else kind) then s else
  sendNaks <| match kind with
  | 0 => match s.sw.txTok with
    | (g, k, t) :: ts => originate 1 (leBytes g 1 ++ leBytes k 6 ++ leBytes t 4) (modSw (fun w => { w with txTok := ts }) s)
    | [] => s
  | 1 => if swMaster s then sendFrame 1 0 2 (leBytes s.tb 8 ++ leBytes (swState s) 1 ++ [0, 0]) s else s
  | 2 => if !master && decide (2 ≤ swState s) then
      let a := activeSummary s
      sendFrame 2 0 3 (leBytes (swState s) 1 ++ leBytes a.1 1 ++ leBytes a.2 2 ++ leBytes (rf s (swk 0x20) 4 4) 1) s else s
  | 3 => if swMaster s && rb s (swk 0x10) (idx % 8) then
      sendFrame 3 (idx % 8) 4 (leBytes (idx % 8) 1 ++ leBytes (axis s (idx % 8)).pos.toNat 6 ++ leBytes (rd s (ak (idx % 8) 0x1C)).toNat 4) s else s
  | 5 => if training s then
      let r := freeWords 3 s
      originate 7 ((r.1.flatMap wordBytes).take 11) r.2 else s
  | _ => if swMaster s && rb s (swk 0x10) (16 + idx) then
      let g := gen s idx
      let t0 := g.nextT - BitVec.ofNat 64 (g.next * (rd s (gk idx 4)).toNat)
      sendFrame 4 idx 5 (leBytes idx 1 ++ leBytes (t0.toNat / 65536) 6 ++ leBytes (rd s (gk idx 4)).toNat 4) s else s

/-- SWARM_CTL STOP (R152): the device returns to OFF. DESIGN CHOICE: the causes of the Swarm loss, segment and
follower-lost sources end with it, for nothing is received any more; and a follower axis is no longer one whose
holdover has ended, so its NOSRC ends (R158). -/
def swarmOff (s : State) : State :=
  let gs := (List.range 16).filter fun g => rb s (gk g 0) 4
  let s := if rb s (swk 0) 3 then s else forEach gs disarmGen s
  let s := causeOff 0x0B1 none (causeOff 0x0B2 none (causeOff 0x0B3 none s))
  let s := wr (swk 0x20) 0 (wr (swk 0x24) 0 s)
  let s := modSw (fun w => { w with tokQ := [], txTok := [], txNak := [], seen := [], lastTime := none, nak := [], hold0 := none, status := [], rsGens := [], rsT := none, rsAxes := [], rsSave := [], rsStep := [], sentAt := [], fall := false, goodE := 0, goodW := 0, sentE := [], sentW := [] }) s
  forEach ((List.range 8).filter (axSwarm s)) updNoSrc s

end Sys2Proof.Machine
end

