-- ==== Sys2Proof/Machine/Partition.lean ====
section
/-! DEFINITION. Partitions (R86–R101): users of leases, the states of released resources, ASSIGN, RELEASE,
LOCK, UNLOCK, QUOTA and PART_RESET. -/

namespace Sys2Proof.Machine

/-! ## Leases (R95–R97) -/

/-- A lease number in use. -/
def leaseValid (l : Nat) : Bool := decide (l ≤ 16) || (decide (32 ≤ l) && decide (l ≤ 127))
/-- The owner of the channel that serves a head, if one does. -/
def servedBy (s : State) (h p : Nat) : Bool := match chanOf s h with | some n => ownerOf s 0x02 n == p | none => false
/-- A partition is a user of a lease. -/
def leaseUser (s : State) (p l : Nat) : Bool :=
  if l ≤ 7 then (tilePorts l).any fun n => ownerOf s 0x04 n == p
  else if l ≤ 15 then inUse s 0x06 (l - 8) p
  else if l = 16 then inUse s 0x0F 0 p
  else if 32 ≤ l ∧ l ≤ 127 then
    let k := l - 32
    if pairEn s k then servedBy s (pairL s k) p || servedBy s (pairR s k) p
    else (List.range 96).any fun n => ownerOf s 0x02 n == p
  else false
/-- A lease ends as its holder stops being a user (R91, R97). -/
def leaseCheck (s : State) : State := { s with leases := s.leases.filter fun x => leaseUser s x.holder x.id }
/-- A lease ends. -/
def leaseEnd (l : Nat) (s : State) : State := { s with leases := s.leases.filter fun x => x.id != l }
/-- Every lease of a partition ends. -/
def leasesEnd (p : Nat) (s : State) : State := { s with leases := s.leases.filter fun x => x.holder != p }
/-- REMAIN: milliseconds until expiry, rounded up. -/
def Lease.ms (x : Lease) : Nat := (x.rem + 999999) / 1000000
/-- Every step ends so: calibration goes on, the collector takes what was reported, and leases whose holders
are no longer users end. -/
def endStep (s : State) : State := leaseCheck (settle s)

/-! ## Released resources (R91) -/

/-- The registers of a channel return to their reset values, but for DEAD, the fence, SWAPS and the line in
progress; TILE[t].VBR_DISC is no register of the channel's sub-blocks. -/
def chanRegs (n : Nat) (s : State) : State :=
  let gone (k : RKey) : Bool := chanEntry n k || (k.blk == .head && k.i == n)
  let s' := { s with regs := s.regs.filter fun e => !gone e.1, due := s.due.filter fun e => !gone e.1 }
  let s' := if (chan s n).line.isNone then { s' with act := s'.act.filter fun e => !gone e.1 } else s'
  let s' := setF (vk n 0x20) 2 1 (rf s (vk n 0x20) 2 1) (wr (ck n 0x60) (rd s (ck n 0x60)) s')
  let s' := setB (hk n 8) 8 (rb s (hk n 8) 8) s'
  wr (hk n 0xC) (rd s (hk n 0xC)) (wr (hk n 0x10) (rd s (hk n 0x10)) s')
/-- The state of a released channel. -/
def chanRelease (n : Nat) (s : State) : State :=
  let s := chanRegs n (disarmChan n s)
  let s := calInvalid n (unprime n s)
  let s := modChan n (fun c => { c with held := [], freed := [], syncTrk := false, calRes := 0, calSkip := 0, calLeft := 0 }) s
  corrIdent n 1 0 (corrIdent n 0 0 s)
/-- The state of a released DMA channel (R390). -/
def dmaRelease (c : Nat) (s : State) : State := dmaOff c (pauseDrained c [] (dmaPause c s))
/-- An axis leaves a partition's use set (R91, R303). -/
def axisLeave (a p : Nat) (s : State) : State :=
  let gs := (List.range 16).filter fun g => ownerOf s 0x07 g == p && rf s (gk g 0) 2 0 == a
  removeEntries (fun e => e.owner == p && e.axis == a) 3 (forEach gs disarmGen s)
/-- The state that RELEASE or PART_RESET gives a resource of a class (R91). -/
def releaseState (c i p : Nat) (s : State) : State :=
  match c with
  | 0x02 => chanRelease i s
  | 0x04 => ffRelease i s
  | 0x06 => axisLeave i p s
  | 0x07 => disarmGen i s
  | 0x08 => zoneRelease i s
  | 0x09 => supRelease i s
  | 0x0A => pinRelease i s
  | 0x0B => regionRelease i s
  | 0x0C => dmaRelease i s
  | 0x0D => setB (ruk i 0) 0 false s
  | 0x0E => zeroMem (4096 * i) 4096 s
  | 0x0F => if holds s 16 p then leaseEnd 16 s else s
  | _ => s

/-! ## ASSIGN and RELEASE (R89, R90) -/

/-- Queues that have something left to do: enabled, commands in the ring, or long operations. -/
def queueWork (s : State) (q : Nat) : Bool :=
  rb s (qk q 4) 0 || waitingWords s q != 0 || s.ops.any (fun o => o.q == q)
/-- An index is held by a long operation or a load session (R73, R366). -/
def indexHeld (s : State) (c i : Nat) : Bool := busy s c i || (c == 0x0B && sessionHolds s i)
/-- The indices of a command. -/
def rangeOf (c : Cmd) : List Nat := (List.range (fld (pw c 1) 31 16)).map (fld (pw c 1) 15 0 + ·)
/-- Parameters out of range: the word at fault. -/
def rangeBad (c : Cmd) : Option Nat :=
  let n := fld (pw c 1) 31 16
  let size := classSize (fld (pw c 0) 7 0)
  if size = 0 then some 0
  else if n = 0 || decide (4096 < n) || decide (size < fld (pw c 1) 15 0 + n) then some 1 else none
/-- A range that ends in queue 64. -/
def names64 (c : Cmd) : Bool :=
  fld (pw c 0) 7 0 == 1 && fld (pw c 1) 31 16 != 0 && fld (pw c 1) 15 0 + fld (pw c 1) 31 16 == 65
/-- What follows the checks of ownership, common to both: the boot queue, queues with work, indices held. -/
def assignHeld (s : State) (cls : Nat) (is : List Nat) (go : Ans) : Ans :=
  match (if cls = 1 then firstOf is (queueWork s) else none), firstOf is (indexHeld s cls) with
  | some i, _ => Ans.fail s 0x02 1 0x04 (numW i)
  | none, some i => Ans.fail s 0x02 1 0 (numW i)
  | none, none => go
/-- One index is given to a partition. -/
def assignOne (cls p i : Nat) (s : State) : State :=
  if isUseSet cls then setUse cls i p true s
  else
    let s := setOwner cls i p (fabLook cls i s)
    if cls = 1 then setB (qk i 0) 8 true (setF (qk i 0) 4 0 p s)
    else if cls = 9 && p != 0 then
      let e := i - i % 2
      if i < 64 && supDiff s e then accRestart e (setB (ink e 4) 0 false s) else s
    else s
/-- Command body of ASSIGN. -/
def bodyAssign (c : Cmd) (s : State) : Ans :=
  let cls := fld (pw c 0) 7 0
  let p := fld (pw c 0) 12 8
  let is := rangeOf c
  match (if names64 c then none else rangeBad c) with
  | some w => Ans.fail s 0x06 w 0 []
  | none =>
    if cls = 1 && is.any (fun q => q != 64 && roleOf s (q / 8) != 1) then Ans.fail s 0x06 1 0 []
    else if c.part != 0 then Ans.deny c s 0 []
    else match (if isUseSet cls then none else firstOf is fun i => ownerOf s cls i != 0) with
    | some i => Ans.fail s 0x06 1 0x01 (numW i)
    | none => match (if cls = 1 then firstOf is fun q => q == s.bootQ || q == 64 else none) with
      | some q => Ans.fail s 0x06 1 0x02 (numW q)
      | none => assignHeld s cls is (Ans.ok (forEach is (assignOne cls p) s) [])
/-- One index is released. -/
def releaseOne (cls p i : Nat) (s : State) : State :=
  let s := releaseState cls i p (fabLook cls i s)
  if isUseSet cls then setUse cls i p false s
  else
    let s := setOwner cls i 0 s
    if cls = 1 then wr (qk i 0) 0 s else s
/-- A partition holds an index: its owner, or a member of its use set. -/
def ownsIdx (s : State) (cls p i : Nat) : Bool := if isUseSet cls then inUse s cls i p else ownerOf s cls i == p
/-- Command body of RELEASE. -/
def bodyRelease (c : Cmd) (s : State) : Ans :=
  let cls := fld (pw c 0) 7 0
  let p := fld (pw c 0) 12 8
  let is := rangeOf c
  match (if names64 c then none else rangeBad c) with
  | some w => Ans.fail s 0x06 w 0 []
  | none =>
    if c.part != 0 && p != c.part then Ans.deny c s 0 []
    else match (if cls = 1 then firstOf is fun q => q == s.bootQ || q == 64 else none) with
    | some q => Ans.fail s 0x06 1 0x02 (numW q)
    | none => match firstOf is fun i => !ownsIdx s cls p i with
      | some i => Ans.fail s 0x06 0 0x03 (numW i)
      | none => assignHeld s cls is (Ans.ok (forEach is (releaseOne cls p) s) [])

/-! ## LOCK and UNLOCK (R95, R96) -/

/-- Command body of LOCK. -/
def bodyLock (c : Cmd) (s : State) : Ans :=
  let l := fld (pw c 0) 6 0
  let ms := fld (pw c 1) 9 0
  if !leaseValid l then Ans.fail s 0x06 0 0 []
  else if ms = 0 || decide (1000 < ms) then Ans.fail s 0x06 1 0 []
  else if !leaseUser s c.part l then Ans.deny c s 0 []
  else
    let mine := { leaseEnd l s with leases := (leaseEnd l s).leases ++ [⟨l, c.part, 1000000 * ms⟩] }
    match leaseOf s l with
    | some x => if x.holder != c.part then Ans.fail s 0x02 0 0x06 [BitVec.ofNat 32 (x.holder + 65536 * x.ms)]
                else Ans.ok mine [BitVec.ofNat 32 ms]
    | none => Ans.ok mine [BitVec.ofNat 32 ms]
/-- Command body of UNLOCK with FORCE = 0. -/
def bodyUnlock (c : Cmd) (s : State) : Ans :=
  let l := fld (pw c 0) 6 0
  if !leaseValid l || !holds s l c.part then Ans.fail s 0x06 0 0 [] else Ans.ok (leaseEnd l s) []
/-- Command body of UNLOCK with FORCE = 1. -/
def bodyUnlockForce (c : Cmd) (s : State) : Ans :=
  let l := fld (pw c 0) 6 0
  if !leaseValid l then Ans.fail s 0x06 0 0 []
  else if c.part != 0 then Ans.deny c s 0 [] else Ans.ok (leaseEnd l s) []

/-! ## QUOTA (R92) -/

/-- QCRED.USED: credits of a partition's channels in a tile. -/
def credUsed (s : State) (p t : Nat) : Nat :=
  (((tilePorts t).filter fun n => ownerOf s 0x02 n == p).map fun n => rf s (tlk n 0x100) 12 0).sum
/-- Command body of QUOTA. A credit cap is not lowered below the credits in use; raised or repeated it is taken. VALUE takes 18 bits, so that it can be the 131,072 that the rule permits. -/
def bodyQuota (c : Cmd) (s : State) : Ans :=
  let p := fld (pw c 0) 4 0
  let kind := bit (pw c 0) 8
  let t := fld (pw c 0) 11 9
  let v := fld (pw c 1) 17 0
  if !kind && t != 0 then Ans.fail s 0x06 0 0 []
  else if (if kind then 4096 else 131072) < v then Ans.fail s 0x06 1 0 []
  else if c.part != 0 then Ans.deny c s 0 []
  else if !kind then Ans.ok (setF ⟨.part, 0, 0x200 + 4 * p⟩ 17 0 v s) []
  else if v < rf s ⟨.part, 0, 0x400 + 32 * p + 4 * t⟩ 12 0 && decide (v < credUsed s p t) then Ans.fail s 0x06 1 0x05 []
  else Ans.ok (setF ⟨.part, 0, 0x400 + 32 * p + 4 * t⟩ 12 0 v s) []

/-! ## PART_RESET (R77, R101) -/

/-- Packets between a position and the tail, a last one that is cut short included; `f` bounds them. -/
def packetsIn (s : State) (q : Nat) : Nat → Nat → Nat → Nat
  | 0, _, _ => 0
  | f + 1, i, n =>
    if n = 0 then 0
    else
      let len := 1 + fld (ringW s q i) 23 16
      if n < len then 1 else 1 + packetsIn s q f (i + len) (n - len)
/-- The untaken commands of a queue are discarded without reply. -/
def discardQueue (q : Nat) (s : State) : State :=
  let n := packetsIn s q 1024 (rf s (qk q 0x10) 9 0) (waitingWords s q)
  let s := wr (qk q 0x28) (rd s (qk q 0x28) + BitVec.ofNat 32 n) s
  setF (qk q 0x10) 9 0 (rf s (qk q 0x14) 9 0) (ledAdd 7 q 2 n (ledAdd 7 q 0 n s))
/-- A long operation is cancelled without completion: what has not taken effect never does. -/
def cancelOp (o : LongOp) (s : State) : State :=
  let s := dropOp o.q o.tag s
  match o.kind with
  | .calRun x => calCancel x s
  | .calCommit _ all _ _ _ _ => forEach all (fun n s => setF (ck n 0) 6 4 0 s) s
  | .corrLoad n _ _ _ => setF (ck n 0) 6 4 0 s
  | .molt h => match moltOf s h with | some m => moltTooLate m s | none => s
  | .selftest n => modChan n (fun x => { x with stFail := false }) s
  | .nvmWrite _ _ => setB ⟨.nvm, 0, 0⟩ 0 false s
  | .nvmLock _ => setB ⟨.nvm, 0, 0⟩ 0 false s
  | .train => swarmOff s
  | .resync _ => resyncAbandon s
  | _ => s
/-- Every resource of a partition, by class and index. -/
def ownedBy (s : State) (p : Nat) : List (Nat × Nat) :=
  (s.owner.filter fun e => e.2 == p).map fun e => (e.1 / 65536, e.1 % 65536)
/-- The channels whose SELFTEST a PART_RESET cancels, with STRES and STCNT, which it leaves unchanged (R188). -/
def testsCancelled (p : Nat) (s : State) : List (Nat × Word × Word) :=
  s.ops.filterMap fun o => match o.kind with
    | .selftest n => if o.part == p then some (n, rd s (vk n 0x34), rd s (vk n 0x38)) else none
    | _ => none
/-- A partition is reset: the effect of PART_RESET at its ACCEPTED reply, but for P0. Its rules make no further insert
before its inserts are discarded (R304), and its regions show how its load sessions ended (R369). -/
def partResetNow (p : Nat) (s : State) : State :=
  let tests := testsCancelled p s
  let s := forEach ((List.range 64).filter fun q => bound s q && partOf s q == p) discardQueue s
  let s := forEach (s.ops.filter fun o => o.part == p) cancelOp s
  let s := forEach (s.molts.filter fun m => ownerOf s 0x03 m.head == p) moltTooLate s
  let s := forEach (ownedBy s p) (fun ci s => onlyIf (ci.1 == 0x0D) (setB (ruk ci.2 0) 0 false) s) s
  let s := leasesEnd p (paqLose (· == p) s)
  let s := forEach (ownedBy s p) (fun ci s => releaseState ci.1 ci.2 p (fabLook ci.1 ci.2 s)) s
  let s := forEach (s.sessions.filter fun x => x.part == p) (loadFail · 0x0D) s
  forEach tests (fun x s => wr (vk x.1 0x34) x.2.1 (wr (vk x.1 0x38) x.2.2 s)) s
/-- The PART_RESET of a partition that is outstanding. -/
def resetOp (s : State) (p : Nat) : Option LongOp := s.ops.find? fun o => o.kind == .partReset p
/-- Command body of PART_RESET. -/
def bodyPartReset (c : Cmd) (s : State) : Ans :=
  let p := fld (pw c 0) 4 0
  if p = 0 then Ans.fail s 0x06 0 0 []
  else if c.part != 0 && c.part != p then Ans.deny c s 0 []
  else if (resetOp s p).isSome then Ans.fail s 0x02 0 0 []
  else if opsFull s c.q then Ans.fail s 0x02 0xFF 0 []
  else Ans.long c (.partReset p) (partResetNow p s)
/-- PART_RESET is complete (R101). -/
def partResetDone (p : Nat) (s : State) : State :=
  match resetOp s p with | some o => complete o.q o.tag 0 [] s | none => s

end Sys2Proof.Machine
end

