-- ==== Sys2Proof/Machine/Ledger.lean ====
section
/-! DEFINITION. The conservation ledger's snapshots (R113–R117) and the last-gasp record (R428). -/

namespace Sys2Proof.Machine

/-- Terms of each class in the order of R105; for actions, refused-at-insert too (R108). -/
def ledTerms : Nat → Nat
  | 1 => 6 | 2 => 4 | 3 => 8 | 4 => 3 | 5 => 3 | 6 => 3 | 7 => 5 | _ => 3
/-- A 64-bit number as two words, low word first. -/
def words64 (v : Nat) : List Word := [lo32 v, hi32 v]
/-- A term summed over its instances. -/
def ledSum (m : List (Nat × Nat)) (c t : Nat) : Nat :=
  ((m.filter fun e => e.1 / 65536 == c && e.1 % 16 == t).map (·.2)).sum % 2 ^ 64
/-- Class totals: section 0x0A after its instance word (R115). -/
def ledTotals (m : List (Nat × Nat)) : List Word :=
  (List.range 8).flatMap fun c => (List.range (ledTerms (c + 1))).flatMap fun t => words64 (ledSum m (c + 1) t)

/-! ## The last-gasp ring (R428) -/

/-- NVM register. -/
def nvk (off : Nat) : RKey := ⟨.nvm, 0, off⟩
/-- NVM offset of a slot. -/
def slotAt (i : Nat) : Nat := 0x8000 + 0x400 * i
/-- A slot's word. -/
def slotW (s : State) (i w : Nat) : Word := nvmW s (slotAt i + 4 * w)
/-- A slot whose CRC word matches. -/
def slotValid (s : State) (i : Nat) : Bool := crc32 (memRds nvmDflt s.nvm (slotAt i) 1020) == slotW s i 255
/-- The valid slot of a given power period. -/
def slotOf (s : State) (seq : Word) : Option Nat := (List.range 16).find? fun i => slotW s i 1 == seq && slotValid s i
/-- PRIOR: a record of the power period before this one exists. -/
def prior (s : State) : Bool := rb s ⟨.dev, 0, 0x104⟩ 2
/-- The newest valid slot. -/
def newestSlot (s : State) : Option Nat :=
  ((List.range 16).filter (slotValid s)).foldl (fun b i => match b with
    | some j => if (slotW s j 1).toNat < (slotW s i 1).toNat then some i else some j
    | none => some i) none
/-- The 48-bit key words of the last-gasp record. -/
def keyWords : Option (BitVec 48) → List Word
  | some k => [BitVec.ofNat 32 k.toNat, BitVec.ofNat 32 (k.toNat / 2 ^ 32 + 2 ^ 31)]
  | none => [0, 0]
/-- IN_FLIGHT: the pixels of admitted lines whose disposition was not complete (R117). A line's disposition is counted
whole at its end (R106), so these are the windows of the lines in progress that no bridge has refused. -/
def inFlight (s : State) : Nat :=
  (s.chans.toList.map fun c => match c.line with | some l => if l.refused || l.fenced then 0 else l.count | none => 0).sum
/-- Words 0–254 of the last-gasp record at T_PF, with the first-error capture as source 0x007 leaves it in `c`. `det` holds
PFPIN and MON (R428). -/
def gaspWords (det : Nat) (s c : State) : List Word :=
  let ents (a : Nat) : List Entry := s.paq.filter fun e => e.axis == a
  [BitVec.ofNat 32 (1 + 256 * rf s (nvk 0) 19 16), rd s (nvk 4)] ++ words64 s.tb ++
    [BitVec.ofNat 32 (det + 4 * (rb c (flk 4) 0).toNat + 16 * pwrCur s)] ++ ((List.range 8).map fun w => rd c (flk (0x20 + 4 * w))) ++
    ledTotals s.led ++ words64 s.tb ++ words64 (inFlight s) ++ words64 (supRunning s).length ++ [BitVec.ofNat 32 s.paq.length] ++
    ((List.range 8).flatMap fun a => keyWords ((nearestE s (ents a)).map (·.key)) ++ keyWords ((farthestE s (ents a)).map (·.key))) ++
    ((List.range 16).flatMap fun g => keyWords ((gen s g).lastCount.map (BitVec.ofNat 48))) ++ List.replicate 101 0xFFFFFFFF#32
/-- The last-gasp record of T_PF, when the state was `t`, is programmed into the prepared slot, CRC word last. RESET_N keeps the slot (R420). -/
def gaspWrite (det : Nat) (t s : State) : State :=
  let ws := gaspWords det t s
  if !s.gaspSlot || s.gasp then s else
  { putNvmW (slotAt (rf s (nvk 0) 19 16)) (ws ++ [crc32 (ws.flatMap wordBytes)]) s with gasp := true }
/-- Step 1 of the boot prepares the slot after the newest valid one. -/
def gaspPrepare (s : State) : State :=
  let n := newestSlot s
  let i := match n with | some j => (j + 1) % 16 | none => 0
  let seq := match n with | some j => slotW s j 1 + 1 | none => 1
  let s := { s with nvm := memWrs nvmDflt s.nvm (slotAt i) (List.replicate 1024 0xFF) }
  let s := putNvmW (slotAt i) [BitVec.ofNat 32 (1 + 256 * i), seq] s
  let s := wr (nvk 4) seq (setF (nvk 0) 19 16 i s)
  setB ⟨.dev, 0, 0x104⟩ 2 (slotOf s (seq - 1)).isSome { s with gaspSlot := true }

/-! ## LEDGER_SNAP (R113, R114) -/

/-- A counting-path injection is active now (R103, R416). -/
def injActive (s : State) : Bool := (List.range 8).any fun k => nget 0 s.flt.hold (0x010 + k) != 0 || nget 0 s.flt.bwInj (0x010 + k) != 0
/-- A tile runs slower than 1.000 now. -/
def slowNow (s : State) : Bool := (List.range 8).any fun t => (tile s t).measured && decide (rf s (tk t 0x10) 15 0 < 0x1000)
/-- A bit of a partition mask. -/
def setPart (m : BitVec 32) (p : Nat) (b : Bool) : BitVec 32 := setBit m p b
/-- Command body of LEDGER_SNAP. -/
def bodySnap (c : Cmd) (s : State) : Ans :=
  let p := c.part
  let seq := (nget 0 s.snapSeq p + 1) % 2 ^ 32
  let fl := BitVec.ofNat 32 ((s.injFlag.getLsbD p || injActive s).toNat + 2 * (prior s).toNat + 4 * (s.slowFlag.getLsbD p || slowNow s).toNat)
  let x : Snap := ⟨p, seq, s.tb, fl, s.led, s.owner⟩
  Ans.ok { s with snaps := x :: s.snaps.filter (fun y => y.part != p), snapSeq := nput 0 s.snapSeq p seq,
                  injFlag := setPart s.injFlag p (injActive s), slowFlag := setPart s.slowFlag p (slowNow s) }
    ([BitVec.ofNat 32 seq] ++ words64 s.tb ++ [fl])

/-! ## LEDGER_READ (R115, R116) -/

/-- Instances and block words of a section; none for a reserved one. -/
def section_ (n : Nat) : Option (Nat × Nat) :=
  match n with
  | 0x00 => some (1, 5)
  | 0x0A => some (1, 71)
  | 0x0B => some (1, 77)
  | _ => if 1 ≤ n ∧ n ≤ 8 then some (ledInstances n, 1 + 2 * ledTerms n) else none
/-- The resource class that owns the instances of a section. -/
def sectionClass : Nat → Nat
  | 1 => 2 | 2 => 2 | 4 => 7 | 5 => 0x0C | 7 => 1 | _ => 0
/-- A block's counters are visible to a reader. -/
def visible (x : Snap) (p n i : Nat) : Bool :=
  p == 0 || n == 0 || (n == 3 && i == p) ||
  (sectionClass n != 0 && !(n == 7 && i == 64) && nget 0 x.owner (sectionClass n * 65536 + i) == p)
/-- A block of a section. -/
def ledBlock (s : State) (x : Snap) (p n i : Nat) : List Word :=
  let v := visible x p n i
  let body : List Word := match n with
    | 0x00 => [BitVec.ofNat 32 x.seq] ++ words64 x.t ++ [x.flags]
    | 0x0A => ledTotals x.led
    | 0x0B => match slotOf s (rd s (nvk 4) - 1) with | some j => (List.range 76).map fun w => slotW s j (13 + w) | none => []
    | _ => (List.range (ledTerms n)).flatMap fun t => words64 (nget 0 x.led (ledK n i t))
  BitVec.ofNat 32 (i + 65536 * v.toNat) :: (if v then body else body.map fun _ => 0)
/-- Command body of LEDGER_READ. -/
def bodyLedRead (c : Cmd) (s : State) : Ans :=
  let n := fld (pw c 1) 7 0
  let cnt := fld (pw c 1) 15 8
  let first := fld (pw c 1) 31 16
  match section_ n with
  | none => Ans.fail s 0x06 1 0 []
  | some (insts, words) =>
    if cnt = 0 || decide (insts < first + cnt) then Ans.fail s 0x06 1 0x02 []
    else if 255 < 2 + cnt * words then Ans.fail s 0x06 1 0x03 []
    else if c.part != 0 && [6, 8, 0xA, 0xB].contains n then Ans.deny c s 1 []
    else match s.snaps.find? fun x => x.part == c.part && BitVec.ofNat 32 x.seq == pw c 0 with
    | none => Ans.fail s 0x06 0 0x01 []
    | some x =>
      if n = 0x0B ∧ !prior s then Ans.fail s 0x06 1 0x04 []
      else Ans.ok s (pw c 0 :: pw c 1 :: (List.range cnt).flatMap fun i => ledBlock s x c.part n (first + i))

end Sys2Proof.Machine
end

