-- ==== Sys2Proof/Machine/Power.lean ====
section
/-! DEFINITION. Resets, boot, power states, power fail, the non-volatile memory, and the fault causes of
supplies, references and memories (R404, R419–R433, R441, R444, R447). -/

namespace Sys2Proof.Machine

/-- RSTAT, RSTCUT and PWR. -/
def rstatK : RKey := ⟨.dev, 0, 0x104⟩
def rstcutK : RKey := ⟨.dev, 0, 0x108⟩
def pwrK : RKey := ⟨.dev, 0, 0x100⟩
/-- The device runs: no reset is in force, and no power fail holds it (R426). -/
def live (s : State) : Bool := !s.pfail && !s.por && !s.rstn

/-! ## Resets (R419, R422, R423) -/

/-- Causes from outside the device that a power-on reset does not end: a SYNC that is missing, a tile's die
over-temperature, and a loss of signal at input A of an encoder port. -/
def porKeeps (s : State) (i : Nat) : Bool :=
  i == 0x00A || (decide (0x100 ≤ i) && i % 16 == 0xF) || (decide (0x040 ≤ i) && decide (i < 0x060) && rb s (ek (i - 0x040) 4) 0)
/-- Those that RESET_N does not end: SCLK_REF, reference PLL, links, which stay as they are, and the outputs of Firefly
ports, which go on driving. -/
def rstKeeps (s : State) (i : Nat) : Bool :=
  porKeeps s i || i == 0x008 || i == 0x009 || (decide (0x028 ≤ i) && decide (i ≤ 0x02F)) ||
    (decide (0x100 ≤ i) && (i % 16 == 7 || i % 16 == 8))
/-- The collector after a reset: cleared, but for causes and broken wires that persist (R412). -/
def fltKeep (stays : Nat → Bool) (f : FltSt) : FltSt :=
  { FltSt.reset with cause := f.cause.filter (fun e => stays e.1), bw := f.bw, lastLog := f.lastLog }
/-- The live bits of a register that show an input or an output as it is, with their latches, which an asserted detector
or flag sets (R123, R330). MODE at reset uses input A of a port alone. -/
def liveKept (ff : Bool) (e : RKey × Word) : Option (RKey × Word) :=
  if e.1.blk = .enc ∧ e.1.off = 4 then (if bit e.2 0 then some (e.1, 5#32) else none)
  else if ff ∧ e.1.blk = .ff ∧ e.1.off = 0xC then
    let w := e.2 &&& 0xA#32
    if w = 0 then none else some (e.1, w ||| (w <<< 1))
  else none
/-- Everything as at power-on reset, but for what lies outside the device and the NVM. -/
def volatileLost (s : State) : State :=
  { State.reset with
    pending := s.pending, out := s.out, free := s.free, nvm := s.nvm, rails := s.rails, sclkHz := s.sclkHz, rstn := s.rstn
    regs := s.regs.filterMap (fun e => if e.1 == nvk 8 then some e else liveKept false e)
    enc := s.enc.map (fun e => { Enc.reset with a := e.a, b := e.b, z := e.z })
    tiles := s.tiles.map (fun t => { Tile.reset with trip := t.trip, dieTemp := t.dieTemp })
    links := s.links.map (fun l => { Link.reset with perst := l.perst })
    ffs := s.ffs.map (fun f => { FfSt.reset with sns := f.sns })
    flt := { fltKeep (porKeeps s) s.flt with lastLog := none } }
/-- VDD_CORE falls below 0.65 V: the device enters power-on reset (R419). -/
def porEnter (s : State) : State := { volatileLost s with por := true }
/-- The collector starts after a reset: causes that are active are raised (R412), and a TRIP_N that is low
acts again (R335). -/
def collectorStart (s : State) : State :=
  forEach ((List.range 8).filter fun t => (tile s t).trip) tripLow (raiseActive s)
/-- Power-on reset is released, and the boot sequence starts (R419, R420), where RESET_N is high. -/
def porRelease (s : State) : State := if s.por && !s.rstn then collectorStart { s with por := false } else s

/-- Registers that RESET_N keeps (R422). -/
def resetKeeps (k : RKey) : Bool :=
  match k.blk with
  | .pmode => true
  | .nvm => k.off != 0xC && k.off != 0x10
  | .qcb => decide (0x24 ≤ k.off) && decide (k.off ≤ 0x30)
  | .bport => k.off == 0xC || decide (0x9000 ≤ k.off)
  | .cor => k.off == 0x60
  | .ax => k.off == 0x2C
  | .tile => decide (0x40 ≤ k.off) && decide (k.off < 0x70)
  | .dev => k.off == 0x104 || k.off == 0x108
  | .ff => k.off == 0x24 || k.off == 0x14
  | _ => false
/-- The queues that are bound at boot (R87). -/
def bindBoot (s : State) : State := setB (qk s.bootQ 0) 8 true (setF (qk s.bootQ 0) 4 0 0 s)
/-- Open codes of eight conversions, for a command that must be completed as RESET_N acts. -/
def freeCodes (s : State) : List Int × State :=
  ((List.range 8).map fun i => (((Config.freeValue (s.free + i)).toNat : Nat) : Int), { s with free := s.free + 8 })
/-- The command being applied is completed and replied to (R423). -/
def finishCommand : Nat → State → State
  | 0, s => s
  | f + 1, s =>
    if s.insWait.isEmpty then s
    else if s.insBuf.any (fun i => i.cmd.isSome) then finishCommand f (insertTake s)
    else if s.clkstop.isSome then finishCommand f (forEach (s.clkstop.toList) (fun x s => clkForce x.1 s) s)
    else if s.sup.dac.isSome then finishCommand f (forEach (s.sup.dac.toList) (fun d s => supRequest d.2 s) (modSup (fun x => { x with dac := none }) s))
    else let r := freeCodes s; finishCommand f (slotEnd r.1 r.2)
/-- A stream port keeps its frame sequence and what the reverse lane has told it: the credits that arrived stay counted
(R287, R422). -/
def Strm.kept (x : Strm) : Strm := { Strm.reset with lost := x.lost, gLast := x.gLast, spent := x.spent, seq := x.seq, lines := x.lines }
/-- A Firefly port goes on driving; its CTL.EN is 0 again, so that it takes its non-volatile value (R321, R328). -/
def FfSt.kept (f : FfSt) : FfSt := { FfSt.reset with driven := f.driven, sns := f.sns }
/-- RESET_N stops the device in order (R423). Long operations are cancelled before channels are disarmed: a CAL_COMMIT
that waits swaps nothing (R210). -/
def resetStop (s : State) : State :=
  let s := forEach (List.range 96) disarmChan (forEach (List.range 16) disarmGen { s with ops := [] })
  let s := finishCommand (s.insBuf.length + 40) s
  let s := forEach (List.range 65) discardQueue s
  collect (paqLose (fun _ => true) (supStop s))
/-- RSTCUT counts the lines in progress, and RSTAT tells of the reset. -/
def resetTold (s : State) : State :=
  let cut := (s.chans.toList.filter fun c => c.line.isSome).length
  let s := wr rstcutK (rd s rstcutK + BitVec.ofNat 32 cut) s
  satF rstatK 31 16 (setF rstatK 8 8 0 (setF rstatK 6 4 1 (setF rstatK 1 0 2 s)))
/-- What RESET_N resets and what it keeps (R422). -/
def resetUnits (s : State) : State :=
  let sevlock := rf s (flk 0) 8 8
  let s' : State := { State.reset with
    pending := s.pending, out := s.out, free := s.free, nvm := s.nvm, rails := s.rails, sclkHz := s.sclkHz
    tb := s.tb, ring := s.ring, rpl := s.rpl, led := s.led, snaps := s.snaps, snapSeq := s.snapSeq, injFlag := s.injFlag
    slowFlag := s.slowFlag, bootQ := s.bootQ, links := s.links, mem := s.mem, dbgDis := s.dbgDis, fabAuth := s.fabAuth
    regs := s.regs.filterMap (fun e => if resetKeeps e.1 then some e else liveKept true e)
    enc := s.enc.map (fun e => { Enc.reset with a := e.a, b := e.b, z := e.z })
    tiles := s.tiles.map (fun t => { Tile.reset with trip := t.trip, dieTemp := t.dieTemp })
    sel := s.sel, gaspSlot := s.gaspSlot, strms := s.strms.map Strm.kept, ffs := s.ffs.map FfSt.kept
    vports := s.vports.map (fun v => { VidPort.reset with clamp := v.clamp })
    flt := fltKeep (rstKeeps s) s.flt, rstn := true }
  forEach (List.range 96) ffSettle (bindBoot (setF (flk 0) 8 8 sevlock (setB (nvk 0) 0 false s')))
/-- RESET_N acts (R423). In power-on reset its level alone counts (R419), and after a power fail it does nothing (R426). -/
def resetAssert (s : State) : State :=
  if s.por || s.pfail || s.rstn then { s with rstn := true } else resetUnits (resetTold (resetStop s))
/-- RESET_N rises: the boot sequence runs (R423, R420), unless power-on reset or a power fail holds the device. -/
def resetRelease (s : State) : State :=
  if !s.rstn then s
  else if s.por || s.pfail then { s with rstn := false }
  else collectorStart { s with rstn := false }

/-! ## Boot (R420, R431) -/

/-- A word of the boot map. -/
def bmW (s : State) (w : Nat) : Word := nvmW s (0x4000 + 4 * w)
/-- The area's CRC holds. -/
def areaOk (s : State) (lo n : Nat) : Bool := crc32 (memRds nvmDflt s.nvm lo n) == nvmW s (lo + n)
/-- P0's boot queue in the boot map. -/
def bmPort (s : State) : Nat := fld (bmW s 1) 18 16
def bmRole (s : State) (k : Nat) : Nat := fld (bmW s 1) (2 * k + 1) (2 * k)
/-- The boot map is valid: it names a HOST port for P0 and no reserved role. -/
def bmOk (s : State) : Bool :=
  areaOk s 0x4000 252 && bmW s 0 == 0x42544D50#32 && bmRole s (bmPort s) == 1 && (List.range 8).all fun k => bmRole s k != 3
/-- Lock bits, and whether the CMAC key is written: page 66, cleared bits of the word after the key. -/
def lockWord (s : State) : Word := ~~~(nvmW s 0x4210)
/-- Port roles and P0's boot queue, after power-on reset alone (R51, R52, R87). RESET_N that acts before the first NVM
load after power-on has ended leaves none set: the spec says that roles stay as set at power-on reset, and the ports
then stay OFF until the next power-on reset. DESIGN CHOICE, log entry 102. -/
def bootRoles (ok : Bool) (s : State) : State :=
  let s := forEach (List.range 8) (fun k s => wr ⟨.pmode, k, 0⟩ (BitVec.ofNat 32 (if ok then bmRole s k else if k = 0 then 1 else 0)) s) s
  bindBoot { s with bootQ := if ok then 8 * bmPort s + fld (bmW s 1) 21 19 else 0 }
/-- The tile clocks of the boot map (R172). -/
def bootClocks (ok : Bool) (s : State) : State :=
  if !ok then { s with bootTiles := [] } else
  let s := forEach (List.range 8) (fun t s => if !bit (bmW s (2 + t)) 16 || clkOk s (bmW s (2 + t)) then clkWrite t (bmW s (2 + t)) s else s) s
  { s with bootTiles := (List.range 8).filter fun t => rb s (tk t 0) 16 }
/-- The step that RSTAT reports (R420). -/
def stepNow (s : State) : Nat :=
  if !s.step1 then 1 else if !s.step2 then 2 else if !s.bootFabs.isEmpty then 4 else 5
/-- Bring RSTAT.STEP up to date while the boot runs. -/
def setStep (s : State) : State := if isReady s then s else setF rstatK 6 4 (stepNow s) s
/-- A port's supply is valid and its value is loaded: it drives (R328). -/
def ffWake (n : Nat) (s : State) : State := if s.rails.getLsbD (8 + n / 12) && s.step1 then ffPowerUp n s else s
/-- Step 1 ends: the NVM is loaded (R420, R431), the last-gasp slot prepared after power-on reset (R428), and
supervisory conversions begin (R342). RESET_N keeps a slot that this power period has prepared (R420). -/
def nvmLoaded (s : State) : State :=
  if !live s || s.step1 then s else
  let ok := bmOk s
  let ff := areaOk s 0x4100 192
  let pat := areaOk s 0x10000 65532
  let st := lockWord s
  let s := setB (nvk 0) 4 (bit st 3) (setF (nvk 0) 10 8 (fld st 2 0) (setB (nvk 0) 3 pat (setB (nvk 0) 2 ff (setB (nvk 0) 1 ok s))))
  let s := if rf s rstatK 1 0 = 1 then bootRoles ok s else s
  let s := if s.gaspSlot then s else gaspPrepare s
  let s := bootClocks ok { s with
    dbgDis := ok && bit (bmW s 1) 24, fabAuth := ok && bit (bmW s 1) 25
    bootFabs := if ok then (List.range 4).filter fun e => bit (bmW s (11 + 2 * e)) 31 else [] }
  let s := forEach (List.range 96) (fun n s => setNvv n (if ff then ffNvEntry s n else 0) s) s
  let s := forEach (List.range 96) ffWake { s with step1 := true }
  supKick (setStep s)
/-- A memory found bad at both attempts names its lasting source (R404, R421). -/
def eccRaise (src m unit : Nat) (lasting : Bool) (s : State) : State :=
  if src = 0x030 ∨ src = 0x031 then raiseHw (if lasting then 0x031 else 0x030) none unit 0 s
  else if 0x100 ≤ src ∧ src < 0x180 ∧ (src % 16 = 0xD ∨ src % 16 = 0xE) ∧ m < 12 then
    let i := src / 16 * 16 + (if lasting then 0xE else 0xD)
    raiseHw i (some m) (0x10 + (i - 0x100) / 16) (srcOwner s i m) s
  else s
/-- Step 2 ends (R421): lasting memory failures and transient ones (R185), and the broken wires that stand. -/
def selftested (failed transient : List (Fin 512 × BitVec 5 × BitVec 8)) (s : State) : State :=
  if !live s || !s.step1 || s.step2 then s else
  let s := forEach failed (fun f s => eccRaise f.1.val f.2.1.toNat f.2.2.toNat true s) s
  let s := forEach transient (fun f s => eccRaise f.1.val f.2.1.toNat f.2.2.toNat false s) s
  let s := forEach s.flt.bw (fun e s => forEach ((List.range 32).filter fun m => e.2 / 2 ^ m % 2 == 1)
    (fun m s => report (wireReport e.1 (memOf e.1 m) false true s) s) s) s
  let s := if failed.isEmpty && s.flt.bw.isEmpty then s else setB rstatK 8 true s
  setStep { s with step2 := true }
/-- A boot map bit-stream has been read: it is loaded, or its regions are left EMPTY (R370). Without VDDIO_G0 the pins of
the flash read 0 (R441). -/
def fabLoaded (sr : Nat) (f : FlashStream) (s : State) : State :=
  if !live s || !s.step1 then s else
  match s.bootFabs with
  | [] => s
  | e :: es =>
    let w := bmW s (11 + 2 * e)
    let regs := bitsOf w 8
    if regs.headD sr != sr then s else
    let f := if s.rails.getLsbD 16 then f else ⟨List.replicate 6 0, [], 0, []⟩
    setStep (bootLoad (bit w 8) regs f { s with bootFabs := es })
/-- The converters of a tile are calibrated (R172); step 5 ends with the last of the boot map's tiles. -/
def tileCalibrated (t : Nat) (s : State) : State :=
  if !live s then s else
  let s := pllCal t s
  setStep (if rb s (tk t 4) 1 then { s with bootTiles := s.bootTiles.filter (· != t) } else s)
/-- READY (R420). -/
def bootReady (s : State) : State :=
  if live s && s.step1 && s.step2 && s.bootFabs.isEmpty && s.bootTiles.isEmpty && !isReady s then setF rstatK 6 4 6 s else s

/-! ## Power states (R424) -/

/-- A tile's sample PLL goes off in STANDBY, which is no loss of lock. -/
def pllOff (t : Nat) (s : State) : State :=
  causeOff (tileSrc t 1) none (modTile t (fun x => { x with pllStart := none, lost := false }) (pllClear t s))
/-- P0 writes DEV.PWR.STATE. -/
def setPower (v : Nat) (s : State) : State :=
  let was := pwrCur s
  let s := if 1 ≤ v then forEach (List.range 96) disarmChan (forEach (List.range 16) disarmGen s) else s
  let s := if v = 2 ∧ was ≠ 2 then supStop s else s
  let s := setF pwrK 9 8 v (setF pwrK 1 0 v s)
  if v = 2 ∧ was ≠ 2 then
    let s := forEach (List.range 8) regionStandby (forEach (List.range 8) pllOff s)
    forEach (List.range 96) (fun n s => ffSettle n (ffBlock n s)) s
  else if v ≠ 2 ∧ was = 2 then
    supKick (forEach ((List.range 8).filter fun t => rb s (tk t 0) 16) (fun t s => modTile t (fun x => { x with pllStart := some s.tb }) s) s)
  else s

/-! ## Power fail (R425–R427) -/

/-- A page whose erase or program is abandoned, or which fails its verify, holds indeterminate contents; in a
checked area the check then fails (R427): where its CRC would hold by chance, one word differs. Page 66 keeps its locks. -/
def pageLost (page : Nat) (s : State) : State :=
  if page = 66 then s else
  let r := freeWords 64 s
  let s := putNvmW (256 * page) r.1 r.2
  let spoil (lo n : Nat) (s : State) : State :=
    if areaOk s lo n then putNvmW (256 * page) [~~~(nvmW s (256 * page))] s else s
  if page = 64 then spoil 0x4000 252 s else if page = 65 then spoil 0x4100 192 s
  else if 256 ≤ page ∧ page < 512 then spoil 0x10000 65532 s else s
/-- The device detects a power fail (R426): totals captured, source raised, last-gasp record programmed,
outputs safe. -/
def powerFails (det : Nat) (s : State) : State :=
  if s.pfail || s.por || det == 0 then s else
  let t := s
  let s := collect (causeOn 0x007 none 0x2A 0 0 { s with ledStop := true })
  let s := { gaspWrite det t s with pfail := true, paused := true }
  let s := forEach s.ops (fun o s => match o.kind with | .nvmWrite a _ => pageLost (a / 256) s | _ => s) s
  let s := forEach (List.range 8) regionStandby s
  forEach (List.range 96) (fun n s => ffSettle n (ffBlock n s)) s

/-! ## Supplies, references, memories, temperature (R404, R441, R444, R447) -/

/-- A group 3 supply becomes valid. -/
def railOn (k : Nat) (s : State) : State :=
  let s := { s with rails := s.rails ||| BitVec.ofNat 25 (2 ^ k) }
  if live s && decide (8 ≤ k) && decide (k < 16) then forEach (tilePorts (k - 8)) ffWake s else s
/-- The Firefly pins of a port lose their supply: nothing is driven, and FF_SNS reads 0, which its comparator judges
(R320, R441). -/
def ffUnpowered (n : Nat) (s : State) : State :=
  onlyIf (live s) (compEval n) (ffSettle n (ffBlock n (modFf n (fun f => { f with driven := false, sns := 0 }) s)))
/-- A group 3 supply falls below its minimum. -/
def railOff (k : Nat) (s : State) : State :=
  let s := { s with rails := s.rails &&& ~~~(BitVec.ofNat 25 (2 ^ k)) }
  if 8 ≤ k ∧ k < 16 then
    forEach (tilePorts (k - 8)) ffUnpowered s
  else s
/-- The junction maximum of the grade, in 1/16 °C (R1). -/
def tjMax : Int := match Config.grade with | .gradeI => 16 * 105 | .gradeX => 16 * 115
/-- A tile has been above the maximum for 10 µs. -/
def dieHot (t : Nat) (temp : BitVec 16) (s : State) : State :=
  if tjMax < sext 16 temp.toNat then
    causeOn (tileSrc t 0xF) none (0x10 + t) 0 (BitVec.ofNat 32 temp.toNat) (modTile t (fun x => { x with dieTemp := BitVec.ofNat 32 temp.toNat }) s) else s

/-! ## NVM commands (R430–R433) -/

/-- Areas of the NVM by page: 0 trims, 1 boot map, 2 Firefly values, 3 key, 4 last-gasp ring, 7 fault log,
5 patch, 6 user. -/
def nvmArea (page : Nat) : Option Nat :=
  if page < 64 then some 0 else if page = 64 then some 1 else if page = 65 then some 2 else if page = 66 then some 3
  else if 128 ≤ page ∧ page < 192 then some 4 else if 192 ≤ page ∧ page < 200 then some 7
  else if 256 ≤ page ∧ page < 512 then some 5 else if 512 ≤ page ∧ page < 1024 then some 6 else none
/-- A range lies in one area. -/
def nvmOneArea (a n : Nat) : Bool := (nvmArea (a / 256)).isSome && nvmArea (a / 256) == nvmArea ((a + 4 * n - 1) / 256)
/-- An NVM operation is outstanding. -/
def nvmBusy (s : State) : Bool := busy s 0x100 0
/-- Command body of NVM_READ. -/
def bodyNvmRead (c : Cmd) (s : State) : Ans :=
  let a := fld (pw c 0) 17 0
  let n := fld (pw c 1) 7 0
  if a % 4 ≠ 0 then Ans.fail s 0x06 0 0 []
  else if n = 0 || n == 255 then Ans.fail s 0x06 1 0 []
  else if !nvmOneArea a n || nvmArea (a / 256) == some 3 then Ans.fail s 0x06 0 0xA8 []
  else if c.part != 0 then Ans.deny c s 0 []
  else Ans.ok s ((List.range n).map fun i => nvmW s (a + 4 * i))
/-- Halves of a word. -/
def half (w : Word) (i : Nat) : Nat := fld w (16 * i + 15) (16 * i)
/-- A word of the Firefly area as a partition's write leaves it: entries of other owners keep their values,
and beyond the entries only P0 writes. -/
def ffMerge (s : State) (p a : Nat) (w : Word) : Word :=
  let o := nvmW s a
  let n := (a - 0x4100) / 2
  if 0x41C0 ≤ a then (if p = 0 then w else o)
  else BitVec.ofNat 32 ((if ownerOf s 0x04 n = p then half w 0 else half o 0) +
    65536 * (if ownerOf s 0x04 (n + 1) = p then half w 1 else half o 1))
/-- What refuses an NVM_WRITE by its area: status and code. -/
def nvmRefusal (s : State) (area : Option Nat) (a n : Nat) : Option (Nat × Nat) :=
  match area with
  | some 0 => some (0x07, 0)
  | some 1 => if rb s (nvk 0) 8 then some (0x07, 0) else none
  | some 2 => none
  | some 3 => if a ≠ 0x4200 ∨ n ≠ 4 then some (0x06, 0xA8) else if rb s (nvk 0) 4 then some (0x08, 0) else none
  | some 5 => if rb s (nvk 0) 9 then some (0x07, 0) else none
  | some 6 => if rb s (nvk 0) 10 then some (0x07, 0) else none
  | _ => some (0x06, 0xA8)
/-- An NVM_WRITE names a range that it may not: across areas or pages, a device-written area, a part of the key. -/
def nvmRangeBad (s : State) (area : Option Nat) (a n : Nat) : Bool :=
  !nvmOneArea a n || a / 256 != (a + 4 * n - 1) / 256 || (nvmRefusal s area a n).any (·.1 == 0x06)
/-- Command body of NVM_WRITE: its length, its parameters, then ownership, BUSY and the locks (R69). -/
def bodyNvmWrite (c : Cmd) (s : State) : Ans :=
  let a := fld (pw c 0) 17 0
  let n := fld (pw c 1) 6 0
  let area := nvmArea (a / 256)
  if c.pay.length ≠ 2 + n then Ans.fail s 0x05 0xFF 0 []
  else if a % 4 ≠ 0 then Ans.fail s 0x06 0 0 []
  else if n = 0 || decide (64 < n) then Ans.fail s 0x06 1 0 []
  else if nvmRangeBad s area a n then Ans.fail s 0x06 0 0xA8 []
  else if c.part != 0 && area != some 2 then Ans.deny c s 0 []
  else if nvmBusy s || opsFull s c.q then Ans.fail s 0x02 0xFF 0 []
  else match nvmRefusal s area a n with
  | some (st, k) => Ans.fail (report (cmdReport c (if st = 0x07 then 0x004 else 0x003) 2 0 0) s) st 0 k []
  | none =>
    let ws := c.pay.drop 2
    let ws := if area = some 2 then ws.mapIdx fun i w => ffMerge s c.part (a + 4 * i) w else ws
    Ans.long c (.nvmWrite a ws) (setB (nvk 0) 0 true s)
/-- The area's CRC word is brought up to date after a write to the Firefly values, and the ports whose entries
changed take them (R328, R432). -/
def ffStored (old : List Nat) (s : State) : State :=
  let s := putNvmW 0x41C0 [crc32 (memRds nvmDflt s.nvm 0x4100 192)] s
  forEach ((List.range 96).filter fun n => ffNvEntry s n != old.getD n 0) (fun n s => setNvv n (ffNvEntry s n) s) s
/-- The outstanding NVM_WRITE, or NVM_LOCK. -/
def nvmOp (s : State) : Option LongOp := s.ops.find? fun o => match o.kind with | .nvmWrite _ _ => true | _ => false
def lockOp (s : State) : Option LongOp := s.ops.find? fun o => match o.kind with | .nvmLock _ => true | _ => false
/-- NVM_WRITE ends (R432). A transient verify failure on the way is the memory's own affair: open. -/
def nvmWritten (ok : Bool) (s : State) : State :=
  match nvmOp s with
  | none => s
  | some o =>
    match o.kind with
    | .nvmWrite a ws =>
      let s := setB (nvk 0) 0 false s
      if ok then
        let f := takeFree s
        let s := if f.1.getLsbD 0 then incR (nvk 0xC) f.2 else f.2
        let old := (List.range 96).map (ffNvEntry s)
        let s := putNvmW a ws s
        let s := if a / 256 = 65 then ffStored old s else s
        let s := if a / 256 = 66 then setB (nvk 0) 4 true (putNvmW 0x4210 [nvmW s 0x4210 &&& ~~~(8#32)] s) else s
        complete o.q o.tag 0 [] s
      else
        let s := wr (nvk 0x10) (BitVec.ofNat 32 (a / 256 + 2 ^ 31)) (pageLost (a / 256) s)
        complete o.q o.tag 0x06 [detail 0xFF 0xAC] (raiseHw 0x006 none 0x01 0 s)
    | _ => s
/-- Command body of NVM_LOCK. -/
def bodyNvmLock (c : Cmd) (s : State) : Ans :=
  let m := fld (pw c 0) 2 0
  if m = 0 then Ans.fail s 0x06 0 0 []
  else if c.part != 0 then Ans.deny c s 0 []
  else if nvmBusy s || opsFull s c.q then Ans.fail s 0x02 0xFF 0 []
  else Ans.long c (.nvmLock m) (setB (nvk 0) 0 true s)
/-- NVM_LOCK ends (R433). -/
def nvmLocked (s : State) : State :=
  match lockOp s with
  | none => s
  | some o =>
    match o.kind with
    | .nvmLock m =>
      let s := setB (nvk 0) 0 false s
      let s := setF (nvk 0) 10 8 (rf s (nvk 0) 10 8 ||| m) (putNvmW 0x4210 [nvmW s 0x4210 &&& ~~~(BitVec.ofNat 32 m)] s)
      complete o.q o.tag 0 [] s
    | _ => s

end Sys2Proof.Machine
end

