-- ==== Sys2Proof/Machine/Flags.lean ====
section
/-! DEFINITION. What every register reads as: the status fields and flags that the device computes, the
values latched by a read (R47, R145), and what a read does (R22). -/

namespace Sys2Proof.Machine

/-- A reader of registers: its partition, its number (queue 0–64, or 65 for the debug port), and how it reads:
0 with the effects of a read, 1 without them, 2 from the debug port (R22, R84). -/
structure Who where
  part : Nat
  id : Nat
  mode : Nat
  deriving DecidableEq, Repr

/-- The latch of a reader at the address of a _LO register. -/
def latchKey (w : Who) (k : RKey) : Nat := w.id * 2 ^ 48 + k.addr
/-- What a reader's latch holds. -/
def latchOf (s : State) (w : Who) (k : RKey) : Word := spGet (fun _ => 0) s.latch (latchKey w k)
/-- Give a reader's latch a value. -/
def setLatch (w : Who) (k : RKey) (v : Word) (s : State) : State :=
  { s with latch := spPut id (fun _ => 0) s.latch (latchKey w k) v }

/-- STAT of an encoder port: BOUND, ROLE and AXIS (R124). -/
def encStat (s : State) (e : Nat) : Word :=
  let w := rd s (ek e 4)
  match (List.range 8).find? fun a => priOf s a == some e || bkpOf s a == some e with
  | some a => setFld (setBit (setBit w 4 true) 5 (priOf s a != some e)) 8 6 a
  | none => w
/-- DIV of an axis: the integer part of the exact divergence, saturated (R127). -/
def axDiv (s : State) (a : Nat) : Word :=
  intW (clampInt (-2147483647) 2147483647 (Int.tdiv (axis s a).div 65536))
/-- The classes of the OWNER area and where each starts (R102). -/
def ownerBases : List (Nat × Nat) :=
  [(0x1000, 0x01), (0x1040, 0x02), (0x10A0, 0x03), (0x1100, 0x04), (0x1160, 0x05), (0x1180, 0x07), (0x1190, 0x09),
   (0x1210, 0x0B), (0x1218, 0x0C), (0x1258, 0x0D), (0x1298, 0x0A), (0x1398, 0x08), (0x1798, 0x0E)]
/-- One byte of the OWNER area. -/
def ownerByte (s : State) (x : Nat) : Byte :=
  match ownerBases.find? fun b => decide (b.1 ≤ x) && decide (x < b.1 + classSize b.2) with
  | some b => BitVec.ofNat 8 (ownerOf s b.2 (x - b.1))
  | none => 0
/-- A PART register (R101, R102). -/
def partView (s : State) (off : Nat) : Word :=
  let w := rd s ⟨.part, 0, off⟩
  if 0x280 ≤ off ∧ off < 0x300 then BitVec.ofNat 32 (pendingOf s ((off - 0x280) / 4))
  else if 0x400 ≤ off ∧ off < 0x800 then setFld w 28 16 (credUsed s ((off - 0x400) / 32) ((off - 0x400) % 32 / 4))
  else if 0x800 ≤ off ∧ off < 0xA00 then
    match leaseOf s ((off - 0x800) / 4) with
    | some x => BitVec.ofNat 32 (x.holder + 256 + 65536 * x.ms)
    | none => 0
  else if 0x1000 ≤ off then bytesWord ((List.range 4).map fun i => ownerByte s (off + i))
  else w
/-- XBAR of a channel (R166, R316 step 3). -/
def xbarView (s : State) (n : Nat) : Word :=
  if selftesting s n && (chan s n).line.isNone then 0x20
  else match headOf s n with
  | some h => BitVec.ofNat 32 (0x10 + h % 12)
  | none => match (chan s n).line with
    | some l => if (chan s n).oldPort then BitVec.ofNat 32 (0x10 + l.head % 12) else 0
    | none => 0
/-- MEFF: the greater of M and ⌈fs ÷ 25 MHz⌉ (R322). -/
def meffOf (s : State) (t : Nat) : Nat :=
  let d := 25000000 * rf s (tk t 0) 15 8
  max (rf s (tk t 0x300) 11 0) ((s.sclkHz * rf s (tk t 0) 7 0 + d - 1) / d)
/-- A TILE register. -/
def tileView (s : State) (t off : Nat) : Word :=
  let w := rd s (tk t off)
  if 0xC0 ≤ off ∧ off < 0xF0 then xbarView s (12 * t + (off - 0xC0) / 4)
  else if off = 0x140 then setFld w 12 0 (collFill s t)
  else if off = 0x300 then setFld w 27 16 (meffOf s t)
  else w
/-- HEAD.STAT (R318 table). -/
def headStat (s : State) (n : Nat) : Word :=
  let w := setBit (rd s (hk n 8)) 9 (s.molts.any fun m => m.holds 0x02 n)
  match headOf s n with
  | some h => setBit (setFld w 6 0 h) 7 true
  | none => setBit w 7 false
/-- The key nearest execution on an axis; 0 where none is pending. -/
def nearKey (s : State) (a : Nat) : Nat :=
  match nearestE s (s.paq.filter fun e => e.axis == a) with | some e => e.key.toNat | none => 0
/-- A PAQ register (R306). -/
def paqView (s : State) (w : Who) (off : Nat) : Word :=
  let v := rd s (pqk off)
  if off = 4 then setBit (setBit (setBit v 0 s.paused) 1 (decide (131072 ≤ s.paq.length))) 2 (decide (1024 ≤ s.insBuf.length))
  else if off = 8 then BitVec.ofNat 32 s.paq.length
  else if off = 0x10 then setFld v 10 0 s.insBuf.length
  else if 0x100 ≤ off then
    let a := (off - 0x100) / 16
    if off % 16 = 0 then lo32 (nearKey s a)
    else if off % 16 = 4 then latchOf s w (pqk (0x100 + 16 * a)) &&& 0xFFFF
    else if off % 16 = 8 then BitVec.ofNat 32 (s.paq.filter fun e => e.axis == a).length
    else v
  else v
/-- BUF.FILL of a stream port. -/
def strmFillOf (s : State) (k : Nat) : Nat := lbBytes (strm s k) + recBytes (strm s k)

/-- LASTPOS as it reads: 0 while none (R145). -/
def lastPosNat (s : State) (g : Nat) : Nat := match (gen s g).lastPos with | some p => p.toNat | none => 0
/-- Bits [47:32] of a 48-bit position, sign-extended. -/
def hiSigned (v : Nat) : Word := intW (sext 16 (v / 2 ^ 32))
/-- The value whose low word an RC register of R47, R145, R306 and R401 shows, and whose high word its read
latches. -/
def latchValue (s : State) (k : RKey) : Option (Word × Word) :=
  match k.blk, k.off with
  | .dev, 0x10 => some (lo32 s.tb, hi32 s.tb)
  | .ax, 0x14 => some (lo32 (axis s k.i).pos.toNat, hiSigned (axis s k.i).pos.toNat)
  | .gen, 0x14 => some (lo32 (gen s k.i).count, hi32 (gen s k.i).count &&& 0xFFFF)
  | .gen, 0x1C => some (lo32 (lastPosNat s k.i), hiSigned (lastPosNat s k.i))
  | .gen, 0x24 => some (lo32 (gen s k.i).backlog.length, hi32 (gen s k.i).backlog.length)
  | .irq, 8 => some (rd s k, rd s { k with off := 0xC })
  | .paq, off => if 0x100 ≤ off ∧ off % 16 = 0 then
      some (lo32 (nearKey s ((off - 0x100) / 16)), BitVec.ofNat 32 (nearKey s ((off - 0x100) / 16) / 2 ^ 32)) else none
  | _, _ => none
/-- The _LO register of a _HI register that returns a latch. -/
def latchLo (k : RKey) : Option RKey :=
  match k.blk, k.off with
  | .dev, 0x14 => some { k with off := 0x10 }
  | .ax, 0x18 => some { k with off := 0x14 }
  | .gen, 0x18 => some { k with off := 0x14 }
  | .gen, 0x20 => some { k with off := 0x1C }
  | .gen, 0x28 => some { k with off := 0x24 }
  | .irq, 0xC => some { k with off := 8 }
  | _, _ => none

/-- The pins of a bank that a partition owns, as a mask; all for P0's reads. -/
def bankSeen (s : State) (p b : Nat) : Word := if p = 0 then 0xFFFFFFFF else bankOwn s b p

/-- What a register holds for a reader, before write-only fields are blanked; open values aside. -/
def viewPure (w : Who) (k : RKey) (s : State) : Word :=
  match latchValue s k, latchLo k with
  | some x, _ => x.1
  | none, some l => latchOf s w l
  | none, none =>
  let v := rd s k
  match k.blk with
  | .dev =>
    if 0x8000 ≤ k.off then romCoefW (nget 0 s.sel w.id) ((k.off - 0x8000) / 4)
    else if 0x4000 ≤ k.off then romDesc ((k.off - 0x4000) / 32) ((k.off - 0x4000) % 32 / 4)
    else v
  | .part => partView s k.off
  | .flt => if k.off = 4 then setFld v 14 8 s.flt.fifo.length else v
  | .src => srcView s w.part k.i k.off
  | .enc => if k.off = 4 then encStat s k.i else v
  | .ax => if k.off = 0x28 then axDiv s k.i else v
  | .gen => if k.off = 0x10 then setBit (setBit v 1 (gen s k.i).lock) 2 (!(gen s k.i).backlog.isEmpty) else v
  | .paq => paqView s w k.off
  | .mover => match vget s.movers k.i with | some c => setFld v 6 0 (64 + c) | none => setFld v 6 0 0
  | .strm => if k.off = 0x20 then setFld v 17 0 (strmFillOf s k.i)
    else if k.off = 0x24 then BitVec.ofNat 32 (ledGet s 6 k.i 2) else v
  | .bank => v &&& bankSeen s w.part k.i
  | .supv => if k.off = 4 then
      BitVec.ofNat 32 ((s.sup.slot.isSome).toNat + 2 * (s.sup.urg.isSome).toNat + 4 * s.sup.prot.toNat) else v
  | .supIn => if k.off = 8 then setBit v 2 (supOdd s k.i) else v
  | .tile => tileView s k.i k.off
  | .fil => if k.off = 0x40 then setBit v 3 (!(chan s k.i).held.isEmpty || !(chan s k.i).freed.isEmpty) else v
  | .ff => if k.off = 0x10 then setFld v 8 0 (ffP s k.i).q.length else v
  | .sgen => if k.off = 0x40 then BitVec.ofNat 32 (ffGate s k.i).toNat else v
  | .head => if k.off = 8 then headStat s k.i else v
  | .bport => if k.off = 0 then
      setBit (setBit (setBit v 0 (isReady s)) 1 (s.halted || s.restarting)) 2 (faultN s)
    else if k.off = 4 then setFld v 15 8 (((List.range 8).map fun j => (rb s (qk (8 * k.i + j) 0) 8).toNat * 2 ^ j).sum)
    else v
  | _ => v

/-- What a register reads as. Two reads show levels that no command carries: the pads that no pin drives (R399), and
the pad that an interrupt line watches. Those bits are open at each look. The PEAK of a mover within a quantum is open
upwards to the 512 reads that a mover may hold (R374). -/
def viewRaw (w : Who) (k : RKey) (s : State) : Word × State :=
  match k.blk, k.off with
  | .bank, 8 => let r := bankPads k.i s; (r.1 &&& bankSeen s w.part k.i, r.2)
  | .irq, 4 => let r := bankPads (irqPin s k.i / 32) s; (setBit (rd s k) 1 (bit r.1 (irqPin s k.i % 32)), r.2)
  | .mover, _ =>
    let v := viewPure w k s
    if (vget s.movers k.i).isSome then
      let r := takeFree s
      (setFld v 25 16 (max (fld v 25 16) (r.1.toNat % 513)), r.2)
    else (v, s)
  | _, _ => (viewPure w k s, s)

/-- The bits of a register that a read shows: those of its fields, but for write-only ones (R22, R23). -/
def readMask (k : RKey) : Word :=
  match fieldsOf k.blk k.off with
  | some fs => fs.foldl (fun m f => if f.acc = .wo then m else m ||| fldMask f.hi f.lo) 0
  | none => 0
/-- What a read returns: undefined offsets read zero (R50). -/
def view (w : Who) (k : RKey) (s : State) : Word × State :=
  if (fieldsOf k.blk k.off).isNone then (0, s)
  else let r := viewRaw w k s; (r.1 &&& readMask k, r.2)

/-- A peak returns to the present value as it is read. -/
def peakRead (k : RKey) (s : State) : State :=
  match k.blk, k.off with
  | .tile, 0x10 => setF k 31 16 0xFFFF s
  | .tile, 0x140 => setF k 28 16 (collFill s k.i) s
  | .paq, 0xC => setF k 17 0 s.paq.length s
  | .paq, 0x10 => setF k 26 16 s.insBuf.length s
  | .strm, 0x20 => setF k 31 18 (strmFillOf s k.i / 1024) s
  | .ff, 0x10 => setF k 24 16 (ffP s k.i).q.length s
  | .mover, _ =>
    if (vget s.movers k.i).isSome then let r := takeFree s; setF k 25 16 (r.1.toNat % 513) r.2 else setF k 25 16 0 s
  | _, _ => s
/-- A read latches the high word of its pair in the reader's latch. -/
def latchRead (w : Who) (k : RKey) (s : State) : State :=
  match latchValue s k with
  | some x => setLatch w k x.2 s
  | none => s
/-- A read of a descriptor's word 0 selects the response whose coefficients the reader sees (R250). -/
def selectRead (w : Who) (k : RKey) (s : State) : State :=
  if k.blk = .dev ∧ 0x4000 ≤ k.off ∧ k.off < 0x8000 ∧ k.off % 32 = 0 then
    { s with sel := nput 0 s.sel w.id ((k.off - 0x4000) / 32) } else s
/-- A read with its effects (R22). -/
def readReg (w : Who) (k : RKey) (s : State) : Word × State :=
  let r := view w k s
  (r.1, if w.mode = 1 then r.2 else selectRead w k (latchRead w k (if w.mode = 0 then peakRead k r.2 else r.2)))

end Sys2Proof.Machine
end

