-- ==== Sys2Proof/Machine/Access.lean ====
section
/-! DEFINITION. Register access through the internal address space (R50, R69, R73, R75, R79, R81, R93, R99): who
may read and write, the checks of a write in their order, and what each write does beside storing its value. -/

namespace Sys2Proof.Machine

/-! ## Ownership of addresses (R86, R93, R95 and the chapters' register maps) -/

/-- The resource whose owner writes a register: class and index; none for other registers. -/
def resOf (k : RKey) : Option (Nat × Nat) :=
  match k.blk with
  | .enc => some (0x05, k.i)
  | .gen => some (0x07, k.i)
  | .hcfg => some (0x03, k.i)
  | .dma => some (0x0C, k.i)
  | .rule => some (0x0D, k.i)
  | .zone => some (0x08, k.i)
  | .pin => some (0x0A, k.i)
  | .supIn => some (0x09, k.i)
  | .conv => if k.off = 0 then some (0x0B, k.i) else if k.off = 4 then some (0x09, 64 + 8 * k.i + 7) else none
  | .vid => some (0x02, k.i)
  | .cor => some (0x02, k.i)
  | .fil => some (0x02, k.i)
  | .thr => some (0x02, k.i)
  | .head => some (0x02, k.i)
  | .ff => some (0x04, k.i)
  | .cmpw => some (0x04, k.i)
  | .sgen => some (0x04, k.i)
  | .fab => some (0x0B, k.i)
  | .tile =>
    if 0x40 ≤ k.off ∧ k.off < 0x70 then some (0x02, 12 * k.i + (k.off - 0x40) / 4)
    else if 0xC0 ≤ k.off ∧ k.off < 0xF0 then some (0x02, 12 * k.i + (k.off - 0xC0) / 4)
    else if 0x100 ≤ k.off ∧ k.off < 0x130 then some (0x02, 12 * k.i + (k.off - 0x100) / 4)
    else if 0x200 ≤ k.off ∧ k.off < 0x230 then some (0x03, 12 * k.i + (k.off - 0x200) / 4)
    else if k.off = 0x310 then some (0x09, 64 + 8 * k.i + 6)
    else none
  | _ => none

/-- The partition to which a PART register belongs, for the four kinds that a tenant reads of itself. -/
def partSelf (off : Nat) : Option Nat :=
  if 0x200 ≤ off ∧ off < 0x280 then some ((off - 0x200) / 4)
  else if 0x280 ≤ off ∧ off < 0x300 then some ((off - 0x280) / 4)
  else if 0x300 ≤ off ∧ off < 0x380 then some ((off - 0x300) / 4)
  else if 0x400 ≤ off ∧ off < 0x800 then some ((off - 0x400) / 32)
  else none

/-- An undefined offset of a block that no resource names: whoever accesses it gets OK (R50). -/
def ownerless (k : RKey) : Bool :=
  (fieldsOf k.blk k.off).isNone && (resOf k).isNone && k.blk != .ax && k.blk != .swm && k.blk != .rring
/-- A tenant may read a register. -/
def tenantReads (s : State) (p : Nat) (k : RKey) : Bool :=
  ownerless k ||
  match k.blk with
  | .dev => k.off != 0x108
  | .part => match partSelf k.off with | some q => q == p | none => decide (k.off < 0x1000)
  | .flt => k.off == 4
  | .src => !srcUsed k.i || ownsSome s p k.i
  | .nvm => false
  | .ax => inUse s 0x06 k.i p
  | .swm => inUse s 0x0F 0 p
  | .paq => false
  | .mover => false
  | .pair => true
  | .ruleG => false
  | .pmode => true
  | .strm => false
  | .rring => k.i == p
  | .bank => bankOwn s k.i p != 0
  | .tbp => true
  | .irq => k.off == 0 || ownerOf s 0x0A (irqPin s k.i) == p
  | .supv => true
  | .conv => true
  | .tile => match resOf k with
    | some (0x09, _) => true
    | some (c, i) => ownerOf s c i == p
    | none => k.off != 0x140 && k.off != 0x144
  | _ => match resOf k with
    | some (c, i) => ownerOf s c i == p
    | none => true

/-- A reader may read an address (R50, R86, R93): P0 and the debug port read every register; a word of record
memory is its page owner's, but for peeks and debug reads. -/
def mayRead (s : State) (w : Who) : Loc → Bool
  | .unmapped => true
  | .reg k => w.part == 0 || tenantReads s w.part k
  | .corr n _ _ => w.part == 0 || ownerOf s 0x02 n == w.part
  | .mem off => w.mode != 0 || ownerOf s 0x0E (off / 4096) == w.part

/-- A partition may write a register. -/
def regWrites (s : State) (p : Nat) (k : RKey) : Bool :=
  ownerless k ||
  match k.blk with
  | .ax => holds s (8 + k.i) p
  | .swm => holds s 16 p
  | .pair => holds s (32 + k.i) p
  | .rring => k.i == p
  | .bank => bankOwn s k.i p != 0
  | .irq => if k.off = 0 then p == 0 else p == 0 || ownerOf s 0x0A (irqPin s k.i) == p
  | .void => true
  | .tile => if k.off = 0x304 ∨ k.off = 0x308 then holds s k.i p else
    match resOf k with
    | some (c, i) => ownerOf s c i == p
    | none => p == 0
  | _ => match resOf k with
    | some (c, i) => ownerOf s c i == p
    | none => p == 0
/-- A partition may write an address. -/
def mayWrite (s : State) (p : Nat) : Loc → Bool
  | .unmapped => true
  | .reg k => regWrites s p k
  | .corr n _ _ => ownerOf s 0x02 n == p
  | .mem off => ownerOf s 0x0E (off / 4096) == p

/-- A resource named by a register write is held (R73). A CAL_RUN holds only the VID and COR registers of its
channels (R200, R239); a load session holds its regions as a long operation does (R366). -/
def regHeld (s : State) (k : RKey) : Bool :=
  match resOf k with
  | none => false
  | some (c, i) =>
    if c = 0x02 ∧ k.blk ≠ .vid ∧ k.blk ≠ .cor then
      s.ops.any (fun o => match o.kind with | .calRun _ => false | x => x.holds s c i) || s.molts.any fun m => m.holds c i
    else indexHeld s c i

/-! ## Values (R18, R22, R99) -/

/-- The bits of a register's fields with one of some access codes. -/
def accMask (accs : List Acc) (k : RKey) : Word :=
  match fieldsOf k.blk k.off with
  | some fs => fs.foldl (fun m f => if accs.contains f.acc then m ||| fldMask f.hi f.lo else m) 0
  | none => 0
/-- What a write leaves stored (R22): RW, RWL and WOS fields take the data, W1C bits written 1 clear. -/
def mergeReg (k : RKey) (old v m : Word) : Word :=
  blend old v (m &&& accMask [.rw, .rwl, .wos] k) &&& ~~~(v &&& m &&& accMask [.w1c] k)
/-- A field of an enabled byte would take a reserved encoding (R18). -/
def reserved (k : RKey) (new m : Word) : Bool :=
  match fieldsOf k.blk k.off with
  | some fs => fs.any fun f => (f.acc == .rw || f.acc == .rwl || f.acc == .wos) && fldMask f.hi f.lo &&& m != 0 &&
      (decide (fld new f.hi f.lo < f.mn) || decide (f.mx < fld new f.hi f.lo))
  | none => false
/-- A register whose write needs MASK = 0xF (R81): a W1C, WOS or WO field, or an action on write in its field
table, and DMA CTL, whose chapter says so. -/
def wholeOnly (k : RKey) : Bool :=
  accMask [.w1c, .wos, .wo] k != 0 || k == pwrK || (k.blk == .ax && k.off == 0x24) || (k.blk == .dma && k.off == 0)

/-- A generator on an axis is armed. -/
def axisArmed (s : State) (a : Nat) : Bool := (List.range 16).any fun g => genArmed s g && rf s (gk g 0) 2 0 == a
/-- A channel of a tile is armed; a port of a tile is enabled. -/
def tileArmed (s : State) (t : Nat) : Bool := (tilePorts t).any (armed s)
def tileFfOn (s : State) (t : Nat) : Bool := (tilePorts t).any fun n => rb s (ffk n 0) 0
/-- The lock of a register with RWL fields, as its chapter names it. -/
def regLocked (s : State) (k : RKey) : Bool :=
  match k.blk with
  | .enc => (List.range 8).any fun a => priOf s a == some k.i || bkpOf s a == some k.i
  | .ax => axisArmed s k.i || (k.off == 0x24 && s.paq.any fun e => e.axis == k.i)
  | .gen => genArmed s k.i
  | .hcfg => match chanOf s k.i with | some n => armed s n | none => false
  | .swm => swState s != 0
  | .vid => armed s k.i
  | .tile => if k.off = 0 then tileArmed s k.i else tileFfOn s k.i
  | .dma => dmaState s k.i != 0
  | .pair => pairEn s k.i
  | .rule => rb s (ruk k.i 0) 0
  | .zone => rb s (zk k.i 0) 0
  | .strm => rb s (stk k.i 0) 0
  | .rring => rb s (rrk k.i 0) 0
  | .ff => rb s (ffk k.i 0) 0
  | .fab => regionState s k.i == 3 || regionState s k.i == 4
  | _ => false
/-- A write that acts beyond storing its value, which a lock refuses whatever the value (R99). -/
def lockWhole (k : RKey) (new : Word) : Bool :=
  (k.blk == .ax && k.off == 0x24) || (k.blk == .tile && k.off == 0 && bit new 16)
/-- A write is refused LOCKED (R99, R199), or WRITE_ONCE. -/
def lockBad (s : State) (k : RKey) (new : Word) : Bool :=
  regLocked s k && (lockWhole k new || (rd s k ^^^ new) &&& accMask [.rwl] k != 0)
def onceBad (s : State) (k : RKey) (new : Word) : Bool :=
  rd s k &&& accMask [.wos] k != 0 && (rd s k ^^^ new) &&& accMask [.wos] k != 0

/-! ## Conditions of single registers -/

/-- A head is LEFT of two enabled pairs, or RIGHT of two, or a chain of enabled pairs from `h` comes back to
`stop` within `f` pairs (R263). -/
def pairCycle (s : State) (stop : Nat) : Nat → Nat → Bool
  | 0, _ => false
  | f + 1, h =>
    match (List.range 96).find? fun k => pairEn s k && pairL s k == h with
    | some k => pairR s k == stop || pairCycle s stop f (pairR s k)
    | none => false
/-- Pair k may not be enabled (R263). -/
def pairBad (s : State) (k : Nat) : Bool :=
  pairEn s k && (pairL s k == pairR s k ||
    (List.range 96).any (fun j => j != k && pairEn s j && (pairL s j == pairL s k || pairR s j == pairR s k)) ||
    pairCycle s (pairL s k) 96 (pairL s k))
/-- Two ports share a head's line blocks, a head's records, ZSTRM, ACTREC or LEDGER (R290). -/
def routeBad (s : State) (k : Nat) : Bool :=
  (List.range 8).any fun j => j != k &&
    ((List.range 6).any (fun i => rd s (stk j (8 + 4 * i)) &&& rd s (stk k (8 + 4 * i)) != 0) ||
      [6, 7, 8].any (fun i => rb s (stk j 0) i && rb s (stk k 0) i))
/-- Two inputs of one converter hold one slot (R341). -/
def slotClash (s : State) (i : Nat) : Bool :=
  (List.range 16).any fun l => supIdx (supConv i) l != i && rd s (ink (supIdx (supConv i) l) 0) &&& rd s (ink i 0) != 0
/-- A clock source code is reserved (R357). -/
def clkSrcBad (w : Word) : Bool :=
  [0, 5, 10, 15].any fun i => decide (4 < fld w (i + 4) i) && decide (fld w (i + 4) i < 0x10)

/-- A TYPE or TARGET of ACT0 is a reserved encoding (R293). -/
def act0Bad (w : Word) : Bool :=
  let g := fld w 14 8
  match fld w 3 0 with
  | 1 => decide (31 < g)
  | 2 => g != 0
  | 3 => decide (7 < g)
  | 4 => decide (95 < g)
  | 5 => decide (15 < g)
  | _ => true
/-- An ACT1 is a reserved encoding of its TYPE (R293): a PULSE of no width, a RECORD to nowhere. -/
def act1Bad (a0 a1 : Word) : Bool :=
  (fld a0 3 0 == 1 && fld a1 15 0 == 0) || (fld a0 3 0 == 2 && fld a1 1 0 == 0)

/-- What a write may not leave, from its data `v`, the bits `m` that it writes and the state `s` with the value stored:
the code of the BAD_PARAM reply. -/
def crossBad (k : RKey) (v m : Word) (s : State) : Option Nat :=
  let w := rd s k
  let no (b : Bool) (c : Nat) : Option Nat := if b then some c else none
  match k.blk, k.off with
  | .ax, 0 =>
    if bit w 5 && bit w 13 && fld w 4 0 == fld w 12 8 then some 0x11 else no (bit w 13 && rd s (ak k.i 4) == 0) 0
  | .ax, 4 => no (w == 0 && rb s (ak k.i 0) 13) 0
  | .ax, 0xC => no (bit v 0 && bit v 1) 0x13
  | .vid, 0x14 => no (fld w 11 8 == 0 && fld w 3 0 != 0) 0
  | .vid, 0x1C => no (decide (rf s (tlk k.i 0x80) 14 0 < fld w 30 16)) 0x31
  | .tile, 0 => no (bit w 16 && !clkOk s w) 0x37
  | .cor, 0xC => no (decide (sext 16 (fld w 31 16) < sext 16 (fld w 15 0))) 0
  | .cor, 0x10 => no (decide (fld w 29 16 < fld w 13 0)) 0
  | .fil, 0xC => no (decide (16384 < fld w 13 0 + fld w 30 16)) 0x53
  | .fil, 0x1C => no (decide (fld w 9 0 < fld w 25 16)) 0x52
  | .thr, 4 => no (decide (sext 16 (fld w 31 16) < sext 16 (fld w 15 0))) 0x60
  | .thr, 0xC => no (decide (sext 16 (fld w 31 16) < sext 16 (fld w 15 0))) 0x60
  | .pair, _ => no (pairBad s k.i) 0x62
  | .strm, off => no (decide (off < 0x20) && routeBad s k.i) 0x70
  | .rring, 0 => no (decide (4096 < fld w 19 8 + fld w 28 20)) 0x71
  | .rule, 0x20 => no ((m &&& 0x7F0F != 0 && act0Bad w) || (m &&& 0xF != 0 && act1Bad w (rd s (ruk k.i 0x24)))) 0
  | .rule, 0x24 => no (m &&& 0xFFFF != 0 && act1Bad (rd s (ruk k.i 0x20)) w) 0
  | .head, 0 => no (bit m 0 && bit w 0 && ((headOf s k.i).isSome || fenced s k.i)) 0x99
  | .cmpw, 4 => no (decide (fld w 25 16 < fld w 9 0)) 0xA2
  | .supIn, 0 => if supOdd s k.i && w != 0 then some 0xB2 else no (slotClash s k.i) 0xB1
  | .supIn, 4 => no (bit w 0 && (k.i % 2 == 1 || decide (64 ≤ k.i))) 0
  | .fab, 0xC => no (decide (s.sclkHz * fld w 7 0 < 50000000 * fld w 15 8) || decide (400000000 * fld w 15 8 < s.sclkHz * fld w 7 0)) 0xC8
  | .fab, off => no (decide (0x10 ≤ off) && decide (off < 0x30) && clkSrcBad w) 0
  | .tile, off =>
    if 0x80 ≤ off ∧ off < 0xB0 then
      no (decide (16384 < ((List.range 12).map fun c => rf s (tk k.i (0x80 + 4 * c)) 14 0).sum) ||
        decide (fld w 14 0 < rf s (vk (12 * k.i + (off - 0x80) / 4) 0x1C) 30 16)) 0x31
    else if 0x100 ≤ off ∧ off < 0x130 then
      no (decide (4096 < ((List.range 12).map fun c => rf s (tk k.i (0x100 + 4 * c)) 12 0).sum)) 0x61
    else none
  | _, _ => none

/-- A partition owns a head and the channel serving it; a parked head is served by none. -/
def ownsHead (s : State) (p h : Nat) : Bool := decide (h < 96) && ownerOf s 0x03 h == p && servedBy s h p
/-- Ownership that a value asks for: the ports an axis leaves bound (R134), the heads of a pair (R263), the pages
of a record ring (R282), both inputs of a pair (R339). `s₀` is the state before the write. -/
def valueOwned (s₀ : State) (p : Nat) (k : RKey) (s : State) : Bool :=
  match k.blk, k.off with
  | .ax, 0 => (priOf s k.i).all (fun e => ownerOf s 0x05 e == p) && (bkpOf s k.i).all fun e => ownerOf s 0x05 e == p
  | .pair, _ =>
    (!pairEn s k.i && pairL s k.i == pairL s₀ k.i && pairR s k.i == pairR s₀ k.i) ||
      (ownsHead s p (pairL s k.i) && ownsHead s p (pairR s k.i))
  | .rring, 0 => (List.range (rf s k 28 20)).all fun i => ownerOf s 0x0E (rf s k 19 8 + i) == p
  | .supIn, 4 => !rb s k 0 || (ownerOf s 0x09 k.i == p && ownerOf s 0x09 (k.i + 1) == p)
  | _, _ => true
/-- A bound port of an axis is bound to another one (R124). -/
def portTaken (s : State) (a : Nat) : Bool :=
  (List.range 8).any fun b => b != a && [priOf s a, bkpOf s a].any fun e => e.isSome && (priOf s b == e || bkpOf s b == e)
/-- Refusals that follow those of ownership: status and code. -/
def lateBad (s₀ : State) (p : Nat) (k : RKey) (v : Word) (s : State) : Option (Nat × Nat) :=
  match k.blk, k.off with
  | .ax, 0 => if portTaken s k.i then some (0x06, 0x12) else none
  | .ax, 0xC => if bit v 1 && (priOf s k.i).any (losDet s) then some (0x06, 0x10) else none
  | .supIn, 4 => if rb s k 0 && rd s (ink (k.i + 1) 0) != 0 then some (0x06, 0xB2) else none
  | .tile, off =>
    if 0x100 ≤ off ∧ off < 0x130 ∧ rf s₀ k 12 0 < rf s k 12 0 ∧ rf s ⟨.part, 0, 0x400 + 32 * p + 4 * k.i⟩ 12 0 < credUsed s p k.i
    then some (0x0C, 0) else none
  | _, _ => none

/-! ## What a write does -/

/-- A staged register of FIL or THR is written (R235). Under HOLD its new value waits, and one that was free to take
effect before is still due at the next line start. With HOLD = 0 the new value takes effect there in place of one
written under HOLD = 1, which never does. -/
def stageHold (n : Nat) (k : RKey) (s : State) : State :=
  if !rb s (fk n 4) 0 then
    modChan n (fun c => { c with held := c.held.filter (· != k), freed := c.freed.filter (· != k) })
      { s with due := s.due.filter fun e => e.1 != k }
  else if !(chan s n).held.contains k then
    let s' := modChan n (fun c => { c with held := c.held ++ [k] }) s
    if act s k = rd s k then s' else { s' with due := s'.due ++ [(k, rd s k)] }
  else s
/-- HOLD is written. Values that waited and were freed by HOLD = 0 take effect at the next line start even if
HOLD is set again before it; APPLY takes that line. -/
def setHold (n : Nat) (new : Word) (s : State) : State :=
  let s := if bit new 0 && !rb s (fk n 4) 0 then
    let h := (chan s n).held
    modChan n (fun c => { c with held := [], freed := c.freed ++ h.filter (fun k => !c.freed.contains k) }) { s with due := s.due.filter fun e => !h.contains e.1 }
    else s
  wr (fk n 4) new s

/-- A register write takes effect: the value stored, and the action that the chapter gives. -/
def applyReg (p : Nat) (k : RKey) (v m : Word) (s : State) : State :=
  let old := rd s k
  let new := mergeReg k old v m
  if (fieldsOf k.blk k.off).isNone then s else
  match k.blk, k.off with
  | .dev, 0x100 => setPower (fld new 1 0) s
  | .enc, 0 =>
    let s := wr k new s
    if rb s (ek k.i 4) 1 && !usesB s k.i then encLos k.i true false s else s
  | .enc, 4 =>
    let s := wr k new s
    if rb s k 0 || rb s k 1 then setB k 2 true s else s
  | .ax, 0 =>
    let s' := wr k new s
    let s' := if priOf s' k.i = priOf s k.i ∧ bkpOf s' k.i = bkpOf s k.i then s' else rebase k.i s'
    axisCheck k.i s'
  | .ax, 4 => axisCheck k.i (divNow k.i (wr k new s))
  | .ax, 8 => axisCheck k.i (wr k new s)
  | .ax, 0xC =>
    let s := if bit v 0 then forceAxis k.i s else s
    if bit v 1 then restoreAxis k.i s else s
  | .ax, 0x24 => presetAxis k.i (BitVec.ofNat 48 (rd48 (wr k new s) (ak k.i 0x20) k)) (wr k new s)
  | .dma, 0 =>
    if bit new 0 then dmaPause k.i s else if bit old 0 then dmaResume k.i s else s
  | .pair, _ => recordsOut (releaseDone (wr k new s))
  | .zone, 0 => if bit old 0 && !bit new 0 then zoneOff k.i s else wr k new s
  | .rring, 0 =>
    let s := wr k new s
    if bit new 0 && !bit old 0 then wr (rrk k.i 4) 0 (wr (rrk k.i 8) 0 s) else s
  | .bank, _ => wr k (blend old new (bankOwn s k.i p)) s
  | .tbp, _ => { wr k new s with tbpLast := s.tb }
  | .irq, 0 => irqSel k.i new s
  | .irq, 4 => if bit v 0 && bit old 0 then irqClear k.i s else s
  | .supv, 0 => supvWrite new s
  | .supIn, 4 =>
    if bit new 0 = bit old 0 then s else accRestart (k.i + 1) (accRestart k.i (wr k new s))
  | .tile, 0 => clkWrite k.i new s
  | .tile, 0x14 => speedWarn k.i (wr k new s)
  | .tile, 0x308 =>
    wr k (blend old new (BitVec.ofNat 32 (((tilePorts k.i).map fun n => (ownerOf s 0x04 n == p).toNat * 2 ^ (n % 12)).sum))) s
  | .fil, 4 => setHold k.i new s
  | .fil, off => wr k new (if (filStaged k.i).contains (fk k.i off) then stageHold k.i k s else s)
  | .thr, off => wr k new (if (filStaged k.i).contains (thk k.i off) then stageHold k.i k s else s)
  | .ff, 0 => if bit new 0 && !bit old 0 then ffOn k.i s else if bit old 0 && !bit new 0 then ffOff k.i s else s
  | .cmpw, 0 => compEval k.i (wr k new s)
  | .cmpw, 4 => compEval k.i (wr k new s)
  | .fab, 0xC => setB (fbk k.i 0) 4 false (wr k new s)
  | .fab, off =>
    if 0x10 ≤ off ∧ off < 0x30 then netPin k.i ((off - 0x10) / 4) (wr k new (fabricRun k.i s)) else wr k new s
  | .pin, _ => wr k new (fabLook 0x0A k.i s)
  | _, _ => wr k new s

/-- One word of a register write: its address, data, byte mask as bits, and its payload word. -/
structure WOp where
  a : Nat
  v : Word
  m : Word
  wi : Nat
  deriving DecidableEq, Repr

/-- The value stored without any action, for the checks of the words after it. -/
def storePlain (o : WOp) (s : State) : State :=
  match locate o.a with
  | .reg k => if (fieldsOf k.blk k.off).isNone then s else wr k (mergeReg k (rd s k) o.v o.m) s
  | _ => s
/-- The addresses and values of a write are sound (R18, R50, R81): otherwise status, payload word and code. `e` is the
state with every word stored, in which the action words of a rule are judged together (R293). -/
def checkWords (e : State) : List WOp → State → Option (Nat × Nat × Nat)
  | [], _ => none
  | o :: os, s =>
    if o.a % 4 ≠ 0 then some (0x06, 0, 0) else
    match locate o.a with
    | .unmapped => some (0x06, 0, 0)
    | .reg k =>
      let s' := storePlain o s
      if wholeOnly k && o.m != 0xFFFFFFFF then some (0x09, 1, 0)
      else if reserved k (rd s' k) o.m then some (0x06, o.wi, 0)
      else match crossBad k o.v o.m (if k.blk == .rule then e else s') with
        | some c => some (0x06, o.wi, c)
        | none => checkWords e os s'
    | _ => checkWords e os s
/-- The check of a whole write. -/
def checkParams (os : List WOp) (s : State) : Option (Nat × Nat × Nat) :=
  checkWords (os.foldl (fun s o => storePlain o s) s) os s
/-- The first word whose address or value is not the partition's (R93). -/
def deniedAt (p : Nat) : List WOp → State → Option WOp
  | [], _ => none
  | o :: os, s =>
    let s' := storePlain o s
    let own := mayWrite s p (locate o.a) && (match locate o.a with | .reg k => valueOwned s p k s' | _ => true)
    if own then deniedAt p os s' else some o
/-- What a register write names beside the register's own resource is held (R73, R101): a bank and FFMASK the pins and
Firefly ports of the writer `p` under the byte mask, a record ring the partition and its pages, AX CFG its ports, PAIR
its heads, PAIRMODE both inputs. `e` is the state with the word stored. -/
def namedHeld (s : State) (p : Nat) (k : RKey) (m : Word) (e : State) : Bool :=
  match k.blk, k.off with
  | .bank, _ => (List.range 32).any fun i => bit m i && ownerOf s 0x0A (32 * k.i + i) == p && busy s 0x0A (32 * k.i + i)
  | .tile, 0x308 => (tilePorts k.i).any fun n => bit m (n % 12) && ownerOf s 0x04 n == p && busy s 0x04 n
  | .rring, off => (resetOp s k.i).isSome || (off == 0 && (List.range (rf e k 28 20)).any fun i => busy s 0x0E (rf e k 19 8 + i))
  | .ax, 0 => (priOf e k.i).any (busy s 0x05) || (bkpOf e k.i).any (busy s 0x05)
  | .pair, _ =>
    (pairEn e k.i || pairL e k.i != pairL s k.i || pairR e k.i != pairR s k.i) &&
      (busy s 0x03 (pairL e k.i) || busy s 0x03 (pairR e k.i))
  | .supIn, 4 => rb e k 0 && busy s 0x09 (k.i + 1)
  | _, _ => false
/-- A word names a held resource (R73). -/
def heldAt (s : State) (p : Nat) (o : WOp) : Bool :=
  match locate o.a with
  | .reg k => regHeld s k || namedHeld s p k o.m (storePlain o s)
  | .mem off => busy s 0x0E (off / 4096)
  | _ => false
/-- The status with which a lock refuses a word (R99, R199). -/
def lockAt (s : State) (o : WOp) : Option Nat :=
  match locate o.a with
  | .reg k =>
    let new := mergeReg k (rd s k) o.v o.m
    if onceBad s k new then some 0x08 else if lockBad s k new then some 0x07 else none
  | .corr _ _ _ => some 0x07
  | _ => none
/-- The conditions that follow: status, payload word and code. -/
def lateAt (p : Nat) : List WOp → State → Option (Nat × Nat × Nat)
  | [], _ => none
  | o :: os, s =>
    let s' := storePlain o s
    match locate o.a with
    | .reg k => match lateBad s p k o.v s' with
      | some x => some (x.1, o.wi, x.2)
      | none => lateAt p os s'
    | _ => lateAt p os s'
/-- One word takes effect. -/
def applyWord (p : Nat) (o : WOp) (s : State) : State :=
  match locate o.a with
  | .reg k => applyReg p k o.v o.m s
  | .mem off => putMemW off [blend (memW s off) o.v o.m] s
  | _ => s

/-- How a register write ends. -/
inductive WRes where
  | done (s : State)
  | fail (st word code : Nat)
  | denied (a : Nat)
  | locked (st word a : Nat)
  deriving DecidableEq, Repr

/-- A register write by partition `p` (R69, R75, R79): checked whole, then applied in ascending order. -/
def writeRegs (p : Nat) (os : List WOp) (s : State) : WRes :=
  match checkParams os s with
  | some (st, w, c) => .fail st w c
  | none =>
  match deniedAt p os s with
  | some o => .denied o.a
  | none =>
  match os.find? (heldAt s p) with
  | some o => .fail 0x02 o.wi 0
  | none =>
  match os.find? fun o => (lockAt s o).isSome with
  | some o => .locked ((lockAt s o).getD 0x07) o.wi o.a
  | none =>
  match lateAt p os s with
  | some (st, w, c) => .fail st w c
  | none => .done (os.foldl (fun s o => applyWord p o s) s)

/-- What a read of one address returns; unmapped addresses are refused before. -/
def readWord (w : Who) (a : Nat) (s : State) : Word × State :=
  match locate a with
  | .reg k => readReg w k s
  | .corr n b i => (corrGet s n b i, s)
  | .mem off => (memW s off, s)
  | .unmapped => (0, s)
/-- Words read in ascending order (R79). -/
def readWords (w : Who) : Nat → Nat → State → List Word × State
  | 0, _, s => ([], s)
  | n + 1, a, s =>
    let r := readWord w a s
    let t := readWords w n (a + 4) r.2
    (r.1 :: t.1, t.2)
/-- An address may not be named (R50). -/
def badAddr (a : Nat) : Bool := a % 4 != 0 || locate a == .unmapped

/-- The answer to a register write: `reply` follows OK. LOCKED and WRITE_ONCE raise their own sources (R99). -/
def wAnswer (c : Cmd) (s : State) (reply : List Word) : WRes → Ans
  | .done s' => Ans.ok s' reply
  | .fail st w code => Ans.fail s st w code []
  | .denied a => Ans.fail (report (cmdReport c (deniedSrc c.port) 1 0 (BitVec.ofNat 32 a)) s) 0x03 0 0 []
  | .locked st w a =>
    Ans.fail (report (cmdReport c (if st = 0x07 then 0x004 else 0x003) 1 w (BitVec.ofNat 32 a)) s) st w 0 []

/-- Command body of REG_READ. -/
def bodyRegRead (c : Cmd) (s : State) : Ans :=
  let a := (pw c 0).toNat
  let n := fld (pw c 1) 7 0
  let w : Who := ⟨c.part, c.q, 0⟩
  let as := (List.range n).map fun i => a + 4 * i
  if n = 0 ∨ 254 < n then Ans.fail s 0x06 1 0 []
  else if as.any badAddr then Ans.fail s 0x06 0 0 []
  else match as.find? fun x => !mayRead s w (locate x) with
    | some x => Ans.fail (report (cmdReport c (deniedSrc c.port) 0 0 (BitVec.ofNat 32 x)) s) 0x03 0 0 []
    | none => let r := readWords w n a s; Ans.ok r.2 r.1
/-- Command body of REG_PEEK. -/
def bodyRegPeek (c : Cmd) (s : State) : Ans :=
  let a := (pw c 0).toNat
  let n := fld (pw c 1) 7 0
  if n = 0 ∨ 254 < n then Ans.fail s 0x06 1 0 []
  else if ((List.range n).map fun i => a + 4 * i).any badAddr then Ans.fail s 0x06 0 0 []
  else if c.part ≠ 0 then Ans.fail (report (cmdReport c (deniedSrc c.port) 0 0 (pw c 0)) s) 0x03 0 0 []
  else let r := readWords ⟨0, c.q, 1⟩ n a s; Ans.ok r.2 r.1
/-- Command body of REG_WRITE. -/
def bodyRegWrite (c : Cmd) (s : State) : Ans :=
  let m := byteMask (BitVec.ofNat 4 (fld (pw c 1) 3 0))
  wAnswer c s [] (writeRegs c.part ((c.pay.drop 2).mapIdx fun i v => ⟨(pw c 0).toNat + 4 * i, v, m, 2 + i⟩) s)
/-- Command body of REG_MODIFY: a full write of (old AND NOT CLEAR) OR SET, the old value read without effect. -/
def bodyRegModify (c : Cmd) (s : State) : Ans :=
  let a := (pw c 0).toNat
  let r := readWord ⟨c.part, c.q, 1⟩ a s
  if badAddr a then Ans.fail s 0x06 0 0 []
  else wAnswer c s [r.1] (writeRegs c.part [⟨a, (r.1 &&& ~~~(pw c 1)) ||| pw c 2, 0xFFFFFFFF, 2⟩] r.2)

end Sys2Proof.Machine
end

