-- ==== Sys2Proof/Machine/HostPort.lean ====
section
/-! DEFINITION. The host ports, the management SPI port and the debug port (R51–R65, R76–R85): BAR0 and BAR2
accesses, doorbells, link loss, the processor restart, and the register accesses that rows of the table name. -/

namespace Sys2Proof.Machine

/-- A port's link. -/
def link (s : State) (k : Nat) : Link := vget s.links k
/-- Modify a port's link. -/
def modLink (k : Nat) (f : Link → Link) (s : State) : State := { s with links := vmod s.links k f }
/-- A host can access a port's BARs: a HOST port whose link is up, in D0 with memory space enabled (R54, R55). -/
def hostOn (s : State) (k : Nat) : Bool :=
  live s && roleOf s k == 1 && (link s k).up && (link s k).mse && !(link s k).d3

/-- After a link loss, once nothing doorbelled remains: every queue of the port is disabled, and LINKDROP is set
(R78). -/
def drainLink (k : Nat) (s : State) : State :=
  let qs := (List.range 8).map (8 * k + ·)
  if (link s k).drain && qs.all (fun q => !rb s (qk q 4) 0 || waitingWords s q == 0) &&
      s.insWait.all (fun w => w.q / 8 != k) then
    modLink k (fun l => { l with drain := false })
      (setB (bpk k 0) 3 true (forEach qs (fun q s => setB (qk q 4) 0 false s) s))
  else s
/-- A halt request takes effect once no command is being applied (R85). -/
def haltNow (s : State) : State :=
  if s.haltReq && s.insWait.isEmpty then { s with halted := true, haltReq := false } else s
/-- Every step at which a queue may have emptied ends so. -/
def finish (s : State) : State := haltNow (forEach (List.range 8) drainLink (endStep s))

/-- A DOORBELL write (R61, R62, R80). -/
def doorbell (q : Nat) (v : Word) (be : BitVec 4) (s : State) : State :=
  if be ≠ 0xF then s
  else
    let head := rf s (qk q 0x10) 9 0
    if fld v 31 10 ≠ 0 ∨ (q ≠ 64 ∧ rb s (qk q 4) 0 = false) ∨ (fld v 9 0 + 1024 - head) % 1024 < waitingWords s q then
      setB (qk q 0x34) 0 true s
    else setF (qk q 0x14) 9 0 (fld v 9 0) s
/-- A QCTL write (R59, R65). -/
def qctlWrite (q : Nat) (v : Word) (be : BitVec 4) (s : State) : State :=
  let new := mergeReg (qk q 4) (rd s (qk q 4)) v (byteMask be)
  let was := rb s (qk q 4) 0
  if was && !bit new 0 && (waitingWords s q != 0 || s.ops.any fun o => o.q == q) then setB (qk q 0x34) 1 true s
  else
    let s := wr (qk q 4) new s
    if bit new 0 && !was then wr (qk q 0x10) 0 (wr (qk q 0x14) 0 (wr (qk q 0x1C) 0 (wr (qk q 0x20) 0 s))) else s
/-- A word of a command ring takes the enabled bytes of a write. -/
def ringWriteW (q i : Nat) (v : Word) (be : BitVec 4) (s : State) : State :=
  { s with ring := spPut id (fun _ => 0) s.ring (q * 1024 + i) (blend (ringW s q i) v (byteMask be)) }
/-- A word of BAR0 of a port as it reads (R58, R80): rings, port registers, control blocks, the MSI-X table and its
pending bits; zero elsewhere. -/
def bar0Word (s : State) (k off : Nat) : Word :=
  let show_ (r : RKey) (w : Word) : Word := w &&& readMask r
  let x := off / 4 * 4
  if x < 0x8000 then ringW s (8 * k + x / 0x1000) (x % 0x1000 / 4)
  else if x < 0x8010 then show_ (bpk k (x % 16)) (viewPure ⟨0, 65, 2⟩ (bpk k (x % 16)) s)
  else if 0x8100 ≤ x ∧ x < 0x8300 then show_ (qk (8 * k + (x - 0x8100) / 0x40) (x % 0x40)) (rd s (qk (8 * k + (x - 0x8100) / 0x40) (x % 0x40)))
  else if 0x9000 ≤ x then show_ (bpk k x) (rd s (bpk k x))
  else 0
/-- A read of `n` bytes of BAR0 from an offset: the addressed bytes, whatever the width (R80). -/
def bar0Read (s : State) (k off n : Nat) : List Byte :=
  (List.range n).map fun i => (wordBytes (bar0Word s k (off + i))).getD ((off + i) % 4) 0
/-- A write to one 32-bit word of BAR0 (R58, R80); undefined offsets ignore it. A vector that is masked no more sends
its pending message. -/
def bar0Write (k off : Nat) (v : Word) (be : BitVec 4) (s : State) : State :=
  if off < 0x8000 then ringWriteW (8 * k + off / 0x1000) (off % 0x1000 / 4) v be s
  else if off < 0x8010 then wr (bpk k (off % 16 / 4 * 4)) (mergeReg (bpk k (off % 16 / 4 * 4)) (rd s (bpk k (off % 16 / 4 * 4))) v (byteMask be)) s
  else if 0x8100 ≤ off ∧ off < 0x8300 then
    let q := 8 * k + (off - 0x8100) / 0x40
    let o := off % 0x40 / 4 * 4
    if o = 0x18 then doorbell q v be s
    else if o = 4 then qctlWrite q v be s
    else if (fieldsOf .qcb o).isSome then wr (qk q o) (mergeReg (qk q o) (rd s (qk q o)) v (byteMask be)) s
    else s
  else if 0x9000 ≤ off ∧ off < 0x9100 then
    signalPending k (wr (bpk k (off / 4 * 4)) (mergeReg (bpk k (off / 4 * 4)) (rd s (bpk k (off / 4 * 4))) v (byteMask be)) s)
  else s

/-! ## Configuration space (R54–R56) -/

/-- The configuration space of a port answers; before, requests meet Configuration Request Retry Status (R55).
DEDUCED: the device is ready for them when PERST_N is released and boot step 1 has given the port its role. -/
def cfgReady (s : State) (k : Nat) : Bool := (link s k).perst && s.step1 && roleOf s k == 1
/-- A register of the configuration space as it reads; none for Retry Status. It reports the identity, and the payloads,
tags, rates, widths, power states and error reporting that R54 supports. PRESUMED: bits and codes as PCI Express gives
them; log entry 127. -/
def cfgRead (s : State) (k : Nat) (r : CfgReg) : Option Word :=
  let l := link s k
  if !cfgReady s k then none
  else some (match r with
    | .command => BitVec.ofNat 32 (2 * l.mse.toNat + 4 * l.bme.toNat + 2 ^ 20)
    | .bar0Lo => setFld (l.bar0.setWidth 32) 3 0 0x4
    | .bar0Hi => (l.bar0 >>> 32).setWidth 32
    | .bar2Lo => setFld (l.bar2.setWidth 32) 3 0 0xC
    | .bar2Hi => (l.bar2 >>> 32).setWidth 32
    | .deviceControl => l.devCtl.setWidth 32
    | .msixControl => BitVec.ofNat 32 (15 + 2 ^ 14 * l.msixMask.toNat + 2 ^ 15 * l.msixEn.toNat)
    | .powerControl => BitVec.ofNat 32 (3 * l.d3.toNat)
    | .ident => BitVec.ofNat 32 (Config.vendor.toNat + 65536 * 0x7A96)
    | .classCode => BitVec.ofNat 32 (Config.stepping.toNat + 256 * 0x118000)
    | .deviceCap => BitVec.ofNat 32 (2 + 32 + 2 ^ 15 + 2 ^ 28)
    | .linkCap => BitVec.ofNat 32 (4 + 16 * 4 + 1024 * 2 + 2 ^ 22)
    | .linkCap2 => BitVec.ofNat 32 (2 * 0xF)
    | .powerCap => BitVec.ofNat 32 (1 + 65536 * 3)
    | .msixTable => 0x9000
    | .msixPba => 0x9800
    | .aer => BitVec.ofNat 32 (1 + 65536 * 2))
/-- A configuration write (R54–R56). BAR0 decodes 64 KiB and BAR2 16 MiB; power states other than D0 and D3hot are
not supported, and a write of one changes nothing, as one of a payload above 512 bytes or a read request above 4,096 bytes
leaves that size as it was: DESIGN CHOICE, log entry 142. -/
def cfgWrite (k : Nat) (r : CfgReg) (v : Word) (m : BitVec 4) (s : State) : State :=
  match cfgRead s k r with
  | none => s
  | some old =>
    let w := blend old v (byteMask m)
    if !(link s k).up then s else
    match r with
    | .command => signalPending k (modLink k (fun l => { l with mse := bit w 1, bme := bit w 2 }) s)
    | .bar0Lo => modLink k (fun l => { l with bar0 := (l.bar0 &&& 0xFFFFFFFF00000000) ||| ((w &&& 0xFFFF0000).setWidth 64) }) s
    | .bar0Hi => modLink k (fun l => { l with bar0 := (l.bar0 &&& 0xFFFFFFFF) ||| (w.setWidth 64 <<< 32) }) s
    | .bar2Lo => modLink k (fun l => { l with bar2 := (l.bar2 &&& 0xFFFFFFFF00000000) ||| ((w &&& 0xFF000000).setWidth 64) }) s
    | .bar2Hi => modLink k (fun l => { l with bar2 := (l.bar2 &&& 0xFFFFFFFF) ||| (w.setWidth 64 <<< 32) }) s
    | .deviceControl =>
      let w := if 2 < fld w 7 5 then setFld w 7 5 (fld old 7 5) else w
      let w := if 5 < fld w 14 12 then setFld w 14 12 (fld old 14 12) else w
      modLink k (fun l => { l with devCtl := w.setWidth 16 }) s
    | .msixControl => signalPending k (modLink k (fun l => { l with msixMask := bit w 14, msixEn := bit w 15 }) s)
    | .powerControl =>
      if fld w 1 0 = 0 then signalPending k (modLink k (fun l => { l with d3 := false }) s)
      else if fld w 1 0 = 3 then modLink k (fun l => { l with d3 := true }) s
      else s
    | .ident | .classCode | .deviceCap | .linkCap | .linkCap2 | .powerCap | .msixTable | .msixPba | .aer => s

/-- A register write that a row names by itself: one word written by queue `q` as REG_WRITE writes it, its status
logged. Queues are served from READY on (R55, R420). -/
def busWrite (q : Nat) (k : Nat) (v : Word) (m : BitVec 4) (s : State) : State :=
  if !serving s || !bound s q then s else
  let a := bodyRegWrite ⟨q, partOf s q, portOf q, 0x11, 0, false, [BitVec.ofNat 32 k, BitVec.ofNat 32 m.toNat, v]⟩ s
  finish (emit (.status q a.code) a.st)
/-- A register read that a row names by itself: one word read by queue `q` as REG_READ reads it. -/
def busRead (q : Nat) (k : Nat) (s : State) : State :=
  if !serving s || !bound s q then s else
  let a := bodyRegRead ⟨q, partOf s q, portOf q, 0x10, 0, false, [BitVec.ofNat 32 k, 1]⟩ s
  finish (emit (if a.code = 0 then .data a.pay else .status q a.code) a.st)
/-- A write at the target of a row: through the internal address space, or in BAR0 of a port. -/
def targetWrite (t : WrTarget) (v : Word) (m : BitVec 4) (s : State) : State :=
  match t with
  | .ici q a => busWrite q.val a.toNat v m s
  | .bar0 k off => if hostOn s k.val then finish (bar0Write k.val off.toNat v m s) else s
  | .cfg k r => if live s then finish (cfgWrite k.val r v m s) else s

/-! ## Management SPI port (R82, R83) -/

/-- A byte of a transaction arrives at window address `x`; `bs` holds the bytes up to and with it, newest first. -/
def spiByte (x : Nat) (bs : List Byte) (s : State) : State :=
  let b : Word := (bs.headD 0).setWidth 32 <<< (8 * (x % 4))
  let m : BitVec 4 := BitVec.ofNat 4 (2 ^ (x % 4))
  if x < 0x1000 then ringWriteW 64 (x / 4) b m s
  else if x = 0x201B then
    if 4 ≤ bs.length then doorbell 64 (bytesWord (bs.take 4).reverse) 0xF s else s
  else if (0x2020 ≤ x ∧ x < 0x2024) ∨ (0x2034 ≤ x ∧ x < 0x2038) then
    let k := qk 64 (x / 4 * 4 - 0x2000)
    wr k (mergeReg k (rd s k) b (byteMask m)) s
  else s
/-- The bytes of a write transaction in ascending address order; the address wraps in the window. -/
def spiWrite : List Byte → List Byte → Nat → State → State
  | [], _, _, s => s
  | b :: bs, past, x, s => spiWrite bs (b :: past) ((x + 1) % 0x4000) (spiByte x (b :: past) s)
/-- A word of the SPI window as it reads. -/
def spiWord (s : State) (x : Nat) : Word :=
  if x < 0x1000 then ringW s 64 (x / 4)
  else if x < 0x2000 then spGet (fun _ => 0) s.rpl (x % 0x1000 / 4)
  else if x / 4 = 0x800 then
    setBit (setBit (setBit 0 0 (isReady s)) 1 (s.halted || s.restarting)) 2 (faultN s)
  else if 0x2010 ≤ x ∧ x < 0x2038 then rd s (qk 64 (x / 4 * 4 - 0x2000)) &&& readMask (qk 64 (x / 4 * 4 - 0x2000))
  else 0
/-- Bytes of the SPI window from an address. -/
def spiRead (s : State) (x n : Nat) : List Byte :=
  (List.range n).map fun i =>
    let a := (x + i) % 0x4000
    (wordBytes (spiWord s a)).getD (a % 4) 0

/-! ## BAR2 (R57) -/

/-- A partition is bound to a queue of a port. -/
def portHas (s : State) (k p : Nat) : Bool := (List.range 8).any fun j => bound s (8 * k + j) && partOf s (8 * k + j) == p
/-- A BAR2 read of `n` bytes. -/
def bar2Read (k off n : Nat) (s : State) : State :=
  let as := (List.range n).map fun i => (off + i) % 2 ^ 24
  let ok (a : Nat) : Bool := portHas s k (ownerOf s 0x0E (a / 4096))
  let s' := emit (.bytes (as.map fun a => if ok a then memRd memDflt s.mem a else 0)) s
  match as.find? fun a => !ok a with
  | some a => report ⟨0x018 + k, none, 0, k, 0, 0, BitVec.ofNat 32 (0x30000000 + a), 0x80000000, false, false, none⟩ s'
  | none => s'

/-! ## Links (R55, R78) -/

/-- The PCI Express state of a port is reset, the MSI-X table and pending bits with it (R54, R78). -/
def cfgReset (k : Nat) (s : State) : State :=
  let s := modLink k (fun l => { Link.reset with up := l.up, drain := l.drain, perst := l.perst, lastMsg := l.lastMsg, due := l.due }) s
  forEach ((List.range 64).map (0x9000 + 4 * ·) ++ [0x9800, 0x9804]) (fun o s => rstR (bpk k o) s) s
/-- A link goes down, or its port receives a hot reset or a function-level reset, after which the link is up (R78).
The completions of the operations outstanding now are lost. -/
def linkDown (k : Nat) (how : LinkLoss) (s : State) : State :=
  if roleOf s k = 1 ∧ (link s k).up then
    let s := cfgReset k (modLink k (fun l => { l with drain := true }) s)
    let s := { s with ops := s.ops.map fun o => if o.q / 8 == k && o.q != 64 then { o with lost := true } else o }
    if how = .down then causeOn (0x028 + k) none 0x28 0 0 (modLink k (fun l => { l with up := false }) s) else s
  else s
/-- A link comes up; the host sets memory space and Bus Master Enable after it (R55, R56). -/
def linkUp (k : Nat) (s : State) : State :=
  if roleOf s k = 1 ∧ (link s k).perst ∧ (link s k).up = false then
    causeOff (0x028 + k) none (modLink k (fun l => { l with up := true }) s)
  else s

/-! ## Completions and the processor (R64, R76, R85) -/

/-- The oldest held completion of a queue is written, or dropped. -/
def deliver1 (q : Nat) (s : State) : State :=
  match s.ops.find? fun o => o.q == q && o.held.isSome with
  | some o =>
    let ws := o.held.getD []
    if o.lost then dropOp q o.tag (incR (qk q 0x30) s)
    else if s.halted || s.restarting || (canWrite s q && decide (rplRoom s q < ws.length)) then s
    else dropOp q o.tag (putReply q (fld (ws.headD 0) 7 0) o.tag true o.notify (ws.drop 1) s)
  | none => s
/-- A command taken and not replied to is aborted: counted, and without effect. -/
def abortWaiting (w : Waiting) (s : State) : State :=
  let mine (c : Option Waiting) : Bool := c == some w
  let s := ledSub 7 w.q 4 1 (ledAdd 7 w.q 3 1 (incR (qk w.q 0x2C) s))
  let s := modSup (fun x => { x with
    pend := x.pend.filter fun r => !mine r.cmd
    dac := x.dac.filter fun d => !mine d.2.cmd
    urg := x.urg.map fun u => u.map fun r => if mine r.cmd then { r with cmd := none } else r }) s
  { s with clkstop := s.clkstop.filter fun x => x.2 != w, insWait := s.insWait.filter (· != w), insBuf := s.insBuf.filter fun i => !mine i.cmd }
/-- The packet at the head of a queue is taken and aborted. -/
def abortHead (q : Nat) (s : State) : State :=
  if turn s = some q then
    let n := if headWhole s q then headLen s q else waitingWords s q - 1
    ledSub 7 q 4 1 (ledAdd 7 q 3 1 (incR (qk q 0x2C) (take q n s)))
  else s
/-- The watchdog expires (R76); it is frozen while the processor is halted. -/
def restartBegin (applying : Option Nat) (s : State) : State :=
  if !live s || s.halted || s.restarting then s else
  let s := match s.insWait, applying with
    | w :: _, _ => abortWaiting w s
    | [], some q => abortHead q s
    | [], none => s
  raiseHw 0x000 none 0x00 0 { s with restarting := true, aftRst := BitVec.allOnes 65 }
/-- A lease's time has run out (R97). -/
def leaseExpired (l : Nat) (s : State) : State :=
  match leaseOf s l with
  | some x => if x.rem = 0 ∧ s.halted = false then leaseEnd l s else s
  | none => s
/-- A debug read (R84). -/
def debugReadWords (a n : Nat) (s : State) : State :=
  if s.dbgDis then emit (.data (List.replicate n 0)) s
  else
    let r := readWords ⟨0, 65, 2⟩ n (a / 4 * 4) s
    emit (.data r.1) r.2

end Sys2Proof.Machine
end

