-- ==== Sys2Proof/Machine/Commands.lean ====
section
/-! DEFINITION. The row of a host command, and the commands that read the device or act on lines: NOP, IDENT,
TIME, ARM, DISARM, SYNC, FREEZE, STATS_SNAP (R66, R190–R193, R220, R237, R274). -/

namespace Sys2Proof.Machine

/-- A host command's row: where the ring offers this packet to the processor and the packet selects this row, it is
taken, applied and answered (R60, R69–R72); otherwise the device is as it was. `after` follows the reply. -/
def hostRow (opc : Nat) (sel : List Word → Bool) (lenOk : List Word → Nat → Bool) (body : Cmd → State → Ans)
    (after : Cmd → Nat → State → State) (p : Pkt) (s : State) : State :=
  if offered opc p s && sel p.pay then
    let c := cmdOf opc p s
    let a := common (lenOk p.pay) body c (take p.q.val p.pay.length s)
    finish (after c a.code (answer c a))
  else s
/-- An event of the device: it does nothing in power-on reset, at RESET_N or after a power fail (R419, R423, R426). -/
def event (f : State → State) (s : State) : State := if live s then finish (f s) else s
/-- A row that is the only one of its opcode. -/
def anyPay (_ : List Word) : Bool := true
/-- LEN must be `n`. -/
def lenIs (n : Nat) (_ : List Word) (l : Nat) : Bool := l == n
/-- Nothing follows the reply. -/
def noAfter (_ : Cmd) (_ : Nat) (s : State) : State := s
/-- A row whose opcode is its own and whose LEN is fixed. -/
def plainRow (opc len : Nat) (body : Cmd → State → Ans) (p : Pkt) (s : State) : State :=
  hostRow opc anyPay (lenIs len) body noAfter p s
/-- The selector of a packet: bits [hi:lo] of payload word 0; `none` where it has no payload. -/
def selOf (hi lo : Nat) (l : List Word) : Option Nat := l.head?.map fun w => fld w hi lo

/-- A body behind the refusal of a reserved selector, from `n` up (R18). -/
def reservedSel (hi lo n : Nat) (body : Cmd → State → Ans) (c : Cmd) (s : State) : Ans :=
  if n ≤ fld (pw c 0) hi lo then Ans.fail s 0x06 0 0 [] else body c s

/-! ## NOP, IDENT, TIME -/

/-- Command body of NOP. -/
def bodyNop (_ : Cmd) (s : State) : Ans := Ans.ok s []
/-- GRADE of IDENT (IDENT table). -/
def gradeCode : Grade → Nat
  | .gradeI => 0x49
  | .gradeX => 0x58
/-- PATCHVER: of a loaded patch (R431), else 0. -/
def patchVer (s : State) : Nat := if rb s (nvk 0) 3 then (Config.patchVersion (nvmW s 0x1FFFC)).toNat else 0
/-- Command body of IDENT. -/
def bodyIdent (c : Cmd) (s : State) : Ans :=
  Ans.ok s [BitVec.ofNat 32 (0x7196 + 0x600000 + 16777216 * gradeCode Config.grade),
    BitVec.ofNat 32 (Config.stepping.toNat + 65536 * Config.romVer.toNat),
    BitVec.ofNat 32 (patchVer s + 65536 * Config.vendor.toNat),
    BitVec.ofNat 32 (c.q + 256 * c.part + 65536 * c.port)]
/-- Command body of TIME. -/
def bodyTime (_ : Cmd) (s : State) : Ans := Ans.ok s (words64 s.tb)

/-! ## ARM and DISARM (R190–R193, R135, R424) -/

/-- The first channel that cannot be armed, with its status and code. -/
def armRefused (s : State) (chs : List Nat) : Option (Nat × Nat × Nat) :=
  chs.findSome? fun n => (armRefusal s n).map fun x => (n, x.1, x.2)
/-- Command body of ARM and of DISARM with KIND 2 or 3: reserved. -/
def bodyArmKind (_ : Cmd) (s : State) : Ans := Ans.fail s 0x06 0 0 []
/-- Command body of ARM with KIND 0. -/
def bodyArmChannels (c : Cmd) (s : State) : Ans :=
  let chs := maskAt c 1
  match armBad c 0 with
  | some w => Ans.fail s 0x06 w 0 []
  | none => match firstOf chs fun n => ownerOf s 0x02 n != c.part with
  | some n => Ans.deny c s (maskWord 1 n) (numW n)
  | none => match armRefused s chs with
  | some (n, st, code) => Ans.fail s st (maskWord 1 n) code (numW n)
  | none =>
    if pwrCur s ≠ 0 then Ans.fail s 0x06 0 0xAA []
    else Ans.ok (forEach chs (fun n s => setB (vk n 0x20) 0 true s) s) []
/-- Command body of ARM with KIND 1. START is not used with CFG.SRC = 1 (R140), so its conditions are not judged there. -/
def bodyArmGenerator (c : Cmd) (s : State) : Ans :=
  let g := fld (pw c 0) 11 8
  let start := genStart s g
  if ownerOf s 0x07 g != c.part then Ans.deny c s 0 []
  else if busy s 0x07 g then Ans.fail s 0x02 0 0 []
  else if genArmed s g then Ans.fail s 0x06 0 0x38 []
  else if pwrCur s ≠ 0 then Ans.fail s 0x06 0 0xAA []
  else
    let pos := (axis s (rf s (gk g 0) 2 0)).pos
    if rb s (gk g 0) 4 then Ans.ok (armRing g (if rb s (gk g 0) 3 then pos + start else start) s) []
    else if rb s (gk g 0) 3 then
      if sext 48 start.toNat < 1 then Ans.fail s 0x06 0 0x39 [] else Ans.ok (armGen g (pos + start) s) []
    else if sdiff start pos ≤ 0 then Ans.fail s 0x0B 0 0 [] else Ans.ok (armGen g start s) []
/-- Command body of DISARM with KIND 0. -/
def bodyDisarmChannels (c : Cmd) (s : State) : Ans :=
  let chs := maskAt c 1
  match armBad c 0 with
  | some w => Ans.fail s 0x06 w 0 []
  | none => match firstOf chs fun n => ownerOf s 0x02 n != c.part with
  | some n => Ans.deny c s (maskWord 1 n) (numW n)
  | none => match firstOf chs (busy s 0x02) with
  | some n => Ans.fail s 0x02 (maskWord 1 n) 0 (numW n)
  | none => Ans.ok (forEach chs disarmChan s) []
/-- Command body of DISARM with KIND 1. -/
def bodyDisarmGenerator (c : Cmd) (s : State) : Ans :=
  let g := fld (pw c 0) 11 8
  if ownerOf s 0x07 g != c.part then Ans.deny c s 0 []
  else if busy s 0x07 g then Ans.fail s 0x02 0 0 []
  else if genArmed s g then Ans.ok (disarmGen g s) []
  else Ans.ok s []
/-- KIND of ARM and DISARM. -/
def armKind (l : List Word) : Option Nat := selOf 1 0 l
/-- LEN of ARM and DISARM by KIND; for a reserved KIND either. -/
def armLen (l : List Word) (n : Nat) : Bool :=
  match armKind l with
  | some 0 => n == 4
  | some 1 => n == 1
  | _ => n == 1 || n == 4
/-- The row of channels takes KIND 0 and what is reserved; the row of generators KIND 1. -/
def armRow (opc : Nat) (gens : Bool) (body : Cmd → State → Ans) (p : Pkt) (s : State) : State :=
  hostRow opc (fun l => (armKind l == some 1) == gens) armLen
    (fun c s => if armKind c.pay == some (if gens then 1 else 0) then body c s else bodyArmKind c s) noAfter p s

/-! ## SYNC and FREEZE (R220, R237, R238) -/

/-- A SYNC becomes pending in a channel. -/
def syncSet (imm trk : Bool) (l n : Nat) (s : State) : State :=
  let s := modChan n (fun x => { x with syncTrk := trk }) (setB (fk n 0x40) 4 true s)
  if imm then wr (fk n 0x60) 0x10000 (wr (fk n 0x5C) 0 s)
  else wr (fk n 0x60) (BitVec.ofNat 32 (l / 2 ^ 32)) (wr (fk n 0x5C) (lo32 l) s)
/-- Command body of SYNC. -/
def bodySync (c : Cmd) (s : State) : Ans :=
  let imm := bit (pw c 0) 0
  let l := lineAt c 1
  let chs := maskAt c 3
  if chs.isEmpty then Ans.fail s 0x06 3 0x50 []
  else match firstOf chs fun n => ownerOf s 0x02 n != c.part with
  | some n => Ans.deny c s (maskWord 3 n) (numW n)
  | none => match firstOf chs (busy s 0x02) with
  | some n => Ans.fail s 0x02 (maskWord 3 n) 0 (numW n)
  | none => match firstOf chs fun n => rb s (fk n 0x40) 4 with
  | some n => Ans.fail s 0x02 (maskWord 3 n) 0x51 (numW n)
  | none => match firstOf chs fun n => !imm && startedAt s n l with
  | some n => Ans.fail s 0x0B (maskWord 3 n) 0 (numW n)
  | none => Ans.ok (forEach chs (syncSet imm (bit (pw c 0) 1) l) s) []
/-- FRZ of a channel changes; a line whose reference window has been completed keeps the value it met (R220): the
window's last pixel reaches the tracker 24 sample periods after its sampling edge (R182), DEDUCED, log entry 58. -/
def setFrz (n : Nat) (on : Bool) (s : State) : State :=
  let old := rb s (fk n 0x40) 1
  if old == on then s else
  let s := match (chan s n).line with
    | some l =>
      let ts := samplePeriod s (n / 12)
      let e := (l.first + min l.count (af s (fk n 0xC) 13 0 + af s (fk n 0xC) 30 16)) * (rf s (vk n 0x14) 3 0 + 1) + 24
      if l.frz.isNone && decide (e * ts.1 ≤ (s.tb - l.t0) * ts.2) then
        modChan n (fun c => { c with line := some { l with frz := some old } }) s
      else s
    | none => s
  setB (fk n 0x40) 1 on s
/-- Command body of FREEZE. -/
def bodyFreeze (on : Bool) (c : Cmd) (s : State) : Ans :=
  let chs := maskAt c 1
  if chs.isEmpty then Ans.fail s 0x06 1 0x50 []
  else match firstOf chs fun n => ownerOf s 0x02 n != c.part with
  | some n => Ans.deny c s (maskWord 1 n) (numW n)
  | none => match firstOf chs (busy s 0x02) with
  | some n => Ans.fail s 0x02 (maskWord 1 n) 0 (numW n)
  | none => Ans.ok (forEach chs (setFrz · on) s) []

/-! ## STATS_SNAP (R274) -/

/-- The record of a zone's open interval; of a zone without one, LINES and COUNT are 0, and the first line is open. -/
def snapRecord (z : Nat) (s : State) : List Word × State :=
  let fast := rb s (zk z 4) 0
  let n := max 1 (rf s (zk z 0xC) 15 0)
  match zoneAcc s z with
  | some a => (zoneWords a fast true n, s)
  | none =>
    let h := rf s (zk z 4) 14 8
    let ws := zoneWords (zoneNew z 0 h (epochOf s h)) fast true n
    let x := takeFree s
    let y := takeFree x.2
    ((ws.set 1 x.1).set 2 (BitVec.ofNat 32 (fld y.1 15 0)), y.2)
/-- The records of zones from `z` are written from `dest`. -/
def snapZones : Nat → Nat → Nat → State → State
  | 0, _, _, s => s
  | n + 1, z, dest, s =>
    let r := snapRecord z s
    snapZones n (z + 1) (dest + 48) (putMemW dest r.1 r.2)
/-- Command body of STATS_SNAP. -/
def bodyStatsSnap (c : Cmd) (s : State) : Ans :=
  let first := fld (pw c 0) 9 0
  let n := fld (pw c 0) 26 16
  let a := (pw c 1).toNat
  let dest := a - 0x30000000
  if n = 0 ∨ 1024 < n ∨ 1024 < first + n then Ans.fail s 0x06 0 0x63 []
  else if a % 16 ≠ 0 ∨ a < 0x30000000 ∨ 0x31000000 < a + 48 * n then Ans.fail s 0x06 1 0x63 []
  else if (List.range n).any fun i => ownerOf s 0x08 (first + i) != c.part then Ans.deny c s 0 []
  else if (List.range ((dest + 48 * n - 1) / 4096 + 1)).any fun p =>
      decide (dest / 4096 ≤ p) && ownerOf s 0x0E p != c.part then Ans.deny c s 1 []
  else if (List.range n).any fun i => busy s 0x08 (first + i) then Ans.fail s 0x02 0 0 []
  else if (List.range ((dest + 48 * n - 1) / 4096 + 1 - dest / 4096)).any fun p => busy s 0x0E (dest / 4096 + p) then
    Ans.fail s 0x02 1 0 []
  else
    let t := s.tb
    Ans.ok (snapZones n first dest s) (words64 t ++ [BitVec.ofNat 32 n])

/-! ## Packets that make no command -/

/-- The opcodes of the table of R68; all others are reserved. -/
def opcodes : List Nat :=
  [0x00, 0x01, 0x02, 0x10, 0x11, 0x12, 0x13, 0x20, 0x21, 0x22, 0x23, 0x24, 0x25, 0x30, 0x31, 0x32, 0x33, 0x40, 0x41, 0x42,
   0x43, 0x44, 0x50, 0x51, 0x52, 0x60, 0x61, 0x62, 0x63, 0x70, 0x71, 0x72, 0x73, 0x74, 0x80, 0x81, 0x90, 0x91, 0x92, 0x93,
   0xA0, 0xA1, 0xA2, 0xB0, 0xB1, 0xC0, 0xC1, 0xD0, 0xD1, 0xE0]
/-- A packet with a reserved opcode (R69, R70). -/
def reservedRow (opc : Nat) (p : Pkt) (s : State) : State :=
  if !opcodes.contains opc && offered opc p s && bound s p.q.val then
    let c := cmdOf opc p s
    finish (answer c (Ans.fail (take p.q.val p.pay.length s) 0x04 0xFF 0 []))
  else s
/-- A packet of an enabled queue that is bound to no partition (R70). -/
def unboundRow (opc : Nat) (p : Pkt) (s : State) : State :=
  if offered opc p s && !bound s p.q.val then
    let c := cmdOf opc p s
    finish (answer c (Ans.fail (take p.q.val p.pay.length s) 0x03 0xFF 0x0F []))
  else s
/-- The packet at the head of a queue ends past the tail: it is taken whole to the tail (R61). -/
def incompleteRow (q : Nat) (s : State) : State :=
  if turn s == some q && !headWhole s q then
    let w := ringW s q (rf s (qk q 0x10) 9 0)
    let c : Cmd := ⟨q, partOf s q, portOf q, fld w 7 0, fld w 31 24, bit w 8, []⟩
    let s' := take q (waitingWords s q - 1) s
    finish (answer c (if bound s q then Ans.fail s' 0x05 0xFF 0 [] else Ans.fail s' 0x03 0xFF 0x0F []))
  else s

end Sys2Proof.Machine
end

