-- ==== Sys2Proof/Machine/Clock.lean ====
section
/-! DEFINITION. The nanosecond tick that an empty queue brings, and what events need beside their units
(R46, R59, R85, R97, R261, R295, R369, R410). -/

namespace Sys2Proof.Machine

/-- Time that runs out by the nanosecond: leases and load sessions, frozen while the processor is halted (R85, R369). -/
def countDown (s : State) : State :=
  { s with
    leases := if s.halted then s.leases else s.leases.map fun x => { x with rem := x.rem - 1 }
    sessions := if s.halted then s.sessions else s.sessions.map fun x => { x with rem := x.rem - 1 } }
/-- Every 100 ns for which the insert buffer is full counts, there and in every collector, for all of them stop
draining (R261, R295). -/
def stallTick (s : State) : State :=
  if s.insBuf.length < 1024 ∨ s.tb % 100 ≠ 0 then s
  else
    forEach (List.range 8) (fun t s => incR (tk t 0x144) s) (incR (pqk 0x14) s)
/-- The core takes records out of the Swarm receive bridge. Its speed is no rule of the spec (R42): how many it takes
of those held is a free value. -/
def swarmDrain (s : State) : State :=
  if s.sw.rx = 0 then s
  else let r := takeFree s; modSw (fun w => { w with rx := r.1.toNat % (s.sw.rx + 1) }) r.2
/-- The designs of regions whose outputs are active may try to drive pins that are not theirs (R94, R396). -/
def fabDrives (s : State) : State := forEach (List.range 256) fabPin s
/-- One nanosecond passes. In power-on reset the time base stands at zero; after a power fail the device does nothing
further (R426). -/
def tick (s : State) : State :=
  if s.por then s else
  if s.pfail then { s with tb := (s.tb + 1) % 2 ^ 64 } else finish (stallTick (fabDrives (swarmDrain (supSettle (countDown (writerTick { s with tb := (s.tb + 1) % 2 ^ 64 }))))))

/-! ## Register rows -/

/-- A read that a row names by itself, of a register that has the wanted effect. -/
def latchRowRead (q a : Nat) (s : State) : State :=
  match locate a with
  | .reg k => if (latchValue s k).isSome then busRead q a s else s
  | _ => s
/-- A read of a register with an RC field. -/
def peakRowRead (q a : Nat) (s : State) : State :=
  match locate a with
  | .reg k => if accMask [.rc] k ≠ 0 then busRead q a s else s
  | _ => s
/-- A whole write of one register by a row of its own. -/
def wholeWrite (q : Nat) (k : RKey) (v : Word) (s : State) : State := busWrite q k.addr v 0xF s
/-- A DOORBELL write as its port lets it through: the host's to queues 0–63, the SPI port's to queue 64. -/
def doorbellRow (q : Nat) (v : Word) (be : BitVec 4) (s : State) : State :=
  if (if q = 64 then live s && s.rails.getLsbD 24 else hostOn s (q / 8)) then finish (doorbell q v be s) else s
/-- A QCTL write of a host. -/
def qctlRow (q : Nat) (v : Word) (be : BitVec 4) (s : State) : State :=
  if hostOn s (q / 8) then finish (qctlWrite q v be s) else s
/-- An SPI transaction of the management port, whose pins have their supply. -/
def spiRow (write : Bool) (addr n : Nat) (bytes : List Byte) (s : State) : State :=
  if !live s || !s.rails.getLsbD 24 then s
  else if write then finish (spiWrite bytes [] (addr % 0x4000) s) else emit (.bytes (spiRead s (addr % 0x4000) n)) s
/-- Held completions are delivered, oldest first. -/
def deliverHeld (s : State) : State := forEach (s.ops.filter fun o => o.held.isSome) (fun o s => deliver1 o.q s) s
/-- A halt request, at the end of the command being applied, and a resume request, of the debug port (R84, R85). -/
def debugHalt (s : State) : State := if s.dbgDis then s else haltNow { s with haltReq := !s.halted }
def debugResume (s : State) : State := if s.dbgDis then s else deliverHeld { s with halted := false, haltReq := false }
/-- The processor has restarted (R76). -/
def restartDone (s : State) : State := if s.restarting then deliverHeld { s with restarting := false } else s

/-! ## Events of the inputs -/

/-- What a pin brings, where its supply is valid (R441). -/
def powered (p : Pin) (f : State → State) (s : State) : State := onlyIf (pinPowered s p) f s
/-- TRIP_N falls or rises: the level is kept whatever the state of the device. Without its supply the pin stays low. -/
def tripEdge (t : Nat) (low : Bool) (s : State) : State :=
  if (tile s t).trip = low || (!low && !pinPowered s (.tripN t)) then s
  else
    let s := modTile t (fun x => { x with trip := low }) s
    if live s then finish (if low then tripLow t s else tripHigh t s) else s
/-- The inputs of an encoder port read 0: a level that was high falls, whatever was its last change (R441). -/
def encDark (e : Nat) (s : State) : State :=
  let x := encP s e
  if !live s then modEnc e (fun y => { y with a := false, b := false, z := false }) s else
  let s := modEnc e (fun y => { y with chgA := none, chgB := none, chgZ := none }) s
  let s := if x.a || x.b then encSample e false false s else s
  if !x.z then s else if rb s (ek e 0) 13 then encZ e s else modEnc e (fun y => { y with z := false }) s
/-- A group 3 supply falls below its minimum (R441). Without VDD_ENC the encoder inputs, TRIP_N and PERST_N read 0 at once.
RESET_N and PFAIL_N do so too: the rows that bring their filtered lows (R423, R425) follow. -/
def supplyLost (k : Nat) (s : State) : State :=
  let s := railOff k s
  if k ≠ 24 then s else
  let s := forEach (List.range 8) (fun t s => if (tile s t).trip then s else
    let s := modTile t (fun x => { x with trip := true }) s
    if live s then tripLow t s else s) (forEach (List.range 32) encDark s)
  forEach (List.range 8) (fun p s => modLink p (fun l => { l with perst := false }) (if s.por then s else linkDown p .down s)) s
/-- A cause from outside begins (R404). -/
def outsideOn (src unit : Nat) (s : State) : State := if s.por then s else finish (causeOn src none unit 0 0 s)
/-- A cause from outside ends, whatever the state of the device. -/
def outsideOff (src : Nat) (s : State) : State := finish (causeOff src none s)
/-- A hold of the deglitcher ends (R327). -/
def deglitched (n : Nat) (s : State) : State := modFf n (fun f => { f with held := none }) s
/-- The stitcher takes an item unless the insert buffer is full or a record waits at the action rules (R261, R295). -/
def stitcherRow (s : State) : State := if !insFull s && s.ruleQ.isEmpty then recordsOut (stitcherTakes s) else s
/-- An interrupt pin's edge; pins of a bank without supply read 0 (R441). -/
def irqRow (k : Nat) (level : Bool) (s : State) : State :=
  if s.rails.getLsbD (16 + irqPin s k / 32) then irqEdge k level s else s
/-- A tile PLL locks; in STANDBY it is off. -/
def pllLockRow (t : Nat) (s : State) : State := if standby s then s else pllLock t s
/-- A wire pair of a member, where the source has it. -/
def wireRow (broken : Bool) (i m : Nat) (s : State) : State :=
  if srcUsed i && memValid i m then (if broken then wireBroken i m s else wireMended i m s) else s
/-- The die temperature falls 5 °C below the maximum. -/
def dieCool (t : Nat) (s : State) : State := causeOff (tileSrc t 0xF) none s
/-- An update edge of a port's Firefly clock. -/
def ffEdgeRow (n : Nat) (s : State) : State := if ffClock s (n / 12) then ffEdge n s else s

end Sys2Proof.Machine
end

