-- ==== Sys2Proof/Machine/UnitCommands.lean ====
section
/-! DEFINITION. Command bodies of the action queue, of Molt and fences, of Firefly and of the Swarm link
(R305, R306, R312–R314, R325, R336, R152, R161). -/

namespace Sys2Proof.Machine

/-! ## Action queue (R305, R306) -/

/-- The caller may insert: a member of the axis's use set, and owner of the action's target. -/
def actMay (c : Cmd) (s : State) : Bool :=
  inUse s 0x06 (fld (pw c 0) 2 0) c.part &&
    (match actTarget (pw c 3) with | some (cls, i) => ownerOf s cls i == c.part | none => true)
/-- Command body of ACT_INSERT: an insert that passes enters the buffer, and is replied to as it leaves it. -/
def bodyActInsert (c : Cmd) (s : State) : Ans :=
  if actBad (pw c 3) (pw c 4) then Ans.fail s 0x06 3 0x82 []
  else if !actMay c s then Ans.deny c s 0 []
  else if (actTarget (pw c 3)).any fun x => busy s x.1 x.2 then Ans.fail s 0x02 3 0 []
  else
    let key := BitVec.ofNat 48 ((pw c 1).toNat + 2 ^ 32 * fld (pw c 2) 15 0)
    let i : Insert := ⟨fld (pw c 0) 2 0, key, pw c 3, pw c 4, pw c 5, bit (pw c 0) 3, c.part, some ⟨c.q, c.tag, c.notify, c.part⟩⟩
    ⟨insPeak { s with insBuf := s.insBuf ++ [i] }, 0, [], true⟩
/-- Command body of ACT_CANCEL. -/
def bodyActCancel (c : Cmd) (s : State) : Ans :=
  if c.part != 0 && fld (pw c 0) 4 0 != c.part then Ans.deny c s 0 []
  else
    let n := (s.paq.filter (selects (pw c))).length
    Ans.ok (removeEntries (selects (pw c)) 3 s) [BitVec.ofNat 32 n]
/-- A key of ACT_QUERY and its axis. -/
def keyOf (e : Option Entry) : List Word × Nat :=
  match e with | some e => (words64 e.key.toNat, e.axis) | none => ([0, 0], 0)
/-- Command body of ACT_QUERY. -/
def bodyActQuery (c : Cmd) (s : State) : Ans :=
  if c.part != 0 && fld (pw c 0) 4 0 != c.part then Ans.deny c s 0 []
  else
    let es := s.paq.filter (selects (pw c))
    let near := keyOf (nearestE s es)
    let far := keyOf (farthestE s es)
    Ans.ok s ([BitVec.ofNat 32 es.length] ++ near.1 ++ far.1 ++ [BitVec.ofNat 32 (near.2 + 256 * far.2)])

/-! ## MOLT, FENCE, UNFENCE (R312–R314) -/

/-- Refuse with the number of a head or channel in a failure word. -/
def refuseNum (s : State) (st code n : Nat) : Option Ans := some (Ans.fail s st 0 code (numW n))
/-- The conditions of R314 on head `h`, its old channel and NEWCH, in table order. -/
def moltRefusal (c : Cmd) (s : State) (h : Nat) (old new : Option Nat) (imm : Bool) (l : Nat) : Option Ans :=
  let chs := old.toList ++ new.toList
  match (if ownerOf s 0x03 h != c.part then some h else firstOf chs fun n => ownerOf s 0x02 n != c.part) with
  | some n => some (Ans.deny c s 0 (numW n))
  | none => match firstOf new.toList fun n => !isSpare s n with
  | some n => refuseNum s 0x06 0x91 n
  | none => match firstOf new.toList fun n => old.any fun o => decide (rf s (tk (n / 12) (0x80 + 4 * (n % 12))) 14 0 < rf s (vk o 0x1C) 30 16) with
  | some n => refuseNum s 0x06 0x93 n
  | none => match firstOf old.toList fun o => imm && armed s o with
  | some o => refuseNum s 0x06 0x94 o
  | none =>
    if !imm && (!rb s (hcK h) 4 || !genArmed s (rf s (hcK h) 3 0)) then refuseNum s 0x06 0x95 h
    else match (if busy s 0x03 h then some h else firstOf chs (busy s 0x02)) with
    | some n => refuseNum s 0x02 0 n
    | none =>
      if oldInFlight s h then refuseNum s 0x02 0x96 h
      else if !imm && decide (l < nget 0 s.headLine h) then refuseNum s 0x0B 0 h
      else none
/-- Command body of MOLT. -/
def bodyMolt (c : Cmd) (s : State) : Ans :=
  let w := pw c 0
  let h := fld w 6 0
  let newch := fld w 14 8
  let new := if newch = 0x7F then none else some newch
  let old := chanOf s h
  let dl := fld (pw c 3) 15 0
  if 95 < h then Ans.fail s 0x06 0 0 []
  else if dl = 0 ∨ 60000 < dl then Ans.fail s 0x06 3 0 []
  else if newch ≠ 0x7F ∧ newch / 12 ≠ h / 12 then Ans.fail s 0x06 0 0x90 (numW newch)
  else match moltRefusal c s h old new (bit w 16) (lineAt c 1) with
  | some a => a
  | none =>
    if opsFull s c.q then Ans.fail s 0x02 0xFF 0 []
    else
      let m : MoltSt := ⟨h, old, new, bit w 16, bit w 17, lineAt c 1, s.tb + 1000000 * dl, false, false⟩
      Ans.long c (.molt h) { s with molts := s.molts ++ [m] }
/-- Command body of FENCE. -/
def bodyFence (c : Cmd) (s : State) : Ans :=
  let n := fld (pw c 0) 6 0
  let imm := bit (pw c 0) 16
  if 95 < n then Ans.fail s 0x06 0 0 []
  else if ownerOf s 0x02 n != c.part then Ans.deny c s 0 []
  else if busy s 0x02 n then Ans.fail s 0x02 0 0 []
  else if !imm && startedAt s n (lineAt c 1) then Ans.fail s 0x0B 0 0 []
  else Ans.ok (if imm then fenceNow n s else fenceAt n (lineAt c 1) s) []
/-- Command body of UNFENCE. -/
def bodyUnfence (c : Cmd) (s : State) : Ans :=
  let n := fld (pw c 0) 6 0
  if 95 < n then Ans.fail s 0x06 0 0 []
  else if ownerOf s 0x02 n != c.part then Ans.deny c s 0 []
  else if busy s 0x02 n then Ans.fail s 0x02 0 0 []
  else if !fenced s n then Ans.fail s 0x06 0 0x97 []
  else if (headOf s n).isSome || armed s n then Ans.fail s 0x06 0 0x98 []
  else Ans.ok (setB (hk n 0) 0 true (wr (hk n 0xC) 0 (wr (hk n 0x10) 0 (setB (hk n 8) 8 false s)))) []

/-- DEADLINE of a MOLT passes before its switch (R315). -/
def moltDue (h : Nat) (s : State) : State :=
  match moltOf s h with
  | some m => if m.deadline ≤ s.tb then moltTooLate m s else s
  | none => s

/-! ## FF_LOAD and FF_CLEAR (R325, R336) -/

/-- Entry `i` of FF_LOAD: END in [14], CODE in [13:0]. -/
def ffEntry (c : Cmd) (i : Nat) : Nat := fld (pw c (1 + i / 2)) (16 * (i % 2) + 14) (16 * (i % 2))
/-- Command body of FF_LOAD. -/
def bodyFfLoad (c : Cmd) (s : State) : Ans :=
  let w := pw c 0
  let n := fld w 6 0
  let flush := bit w 8
  let k := fld w 24 16
  if c.pay.length ≠ 1 + (k + 1) / 2 then Ans.fail s 0x05 0xFF 0 []
  else if 95 < n ∨ 256 < k then Ans.fail s 0x06 0 0 []
  else if k = 0 ∧ flush = false then Ans.fail s 0x06 0 0xA3 []
  else if ownerOf s 0x04 n != c.part then Ans.deny c s 0 []
  else if busy s 0x04 n then Ans.fail s 0x02 0 0 []
  else
    let free := 256 - (if flush then 0 else (ffP s n).q.length)
    if free < k then Ans.fail s 0x02 0 0xA0 (numW free)
    else
      let s := onlyIf flush (ffFlush n) s
      let s := ffPeak n (modFf n (fun f => { f with q := f.q ++ (List.range k).map (ffEntry c) }) s)
      Ans.ok s (numW (ffP s n).q.length)
/-- Command body of FF_CLEAR. -/
def bodyFfClear (c : Cmd) (s : State) : Ans :=
  let ts := bitsOf (pw c 0) 8
  let ps := maskAt c 1
  match firstOf ps fun n => ownerOf s 0x04 n != c.part with
  | some n => Ans.deny c s (maskWord 1 n) (numW n)
  | none =>
    if !ts.isEmpty && c.part != 0 then Ans.deny c s 0 []
    else if ts.isEmpty && ps.isEmpty then Ans.fail s 0x06 0 0xA3 []
    else
      match firstOf ps (busy s 0x04), firstOf ps (rawOf s), firstOf ts fun t => (tile s t).trip with
      | some n, _, _ => Ans.fail s 0x02 (maskWord 1 n) 0 (numW n)
      | none, some n, _ => Ans.fail s 0x10 (maskWord 1 n) 0 (numW n)
      | none, none, some t => Ans.fail s 0x10 0 0 (numW (0x80 + t))
      | none, none, none => Ans.ok (forEach ts tripClear (forEach ps latchClear s)) []

/-! ## SWARM_CTL and RESYNC (R152, R161) -/

/-- A TRAIN or RESYNC is outstanding: it holds the Swarm link. -/
def swHeld (s : State) : Bool :=
  s.ops.any fun o => match o.kind with | .train => true | .resync _ => true | _ => false
/-- Generators of this device that a TRAIN may not find armed: those it exports. -/
def exportArmed (s : State) : Bool := (List.range 16).any fun g => rb s (swk 0x10) (16 + g) && genArmed s g
/-- Command body of SWARM_CTL, by OP. Whether a follower has a generator with SRC = 1 armed, for which TRAIN is BUSY too
(R152), is no state of this device: it is a free value. -/
def bodySwarm (op : Nat) (c : Cmd) (s : State) : Ans :=
  if fld (pw c 0) 1 0 = 3 then Ans.fail s 0x06 0 0 []
  else if !holds s 16 c.part then Ans.deny c s 0 []
  else if swHeld s || opsFull s c.q then Ans.fail s 0x02 (if swHeld s then 0 else 0xFF) 0 []
  else if op = 0 then Ans.long c .finished (swarmOff s)
  else if swState s ≠ 0 ∨ rb s (swk 0) 3 ≠ (op == 2) then Ans.fail s 0x06 0 0x23 []
  else if op = 1 then Ans.long c .finished (setF (swk 0x20) 2 0 1 s)
  else if exportArmed s then Ans.fail s 0x02 0 0x20 []
  else
    let r := takeFree s
    if bit r.1 0 then Ans.fail r.2 0x02 0 0x20 [] else Ans.long c .train r.2
/-- STOP and LISTEN are complete once applied. -/
def swarmAfter (c : Cmd) (st : Nat) (s : State) : State := if st = 0x01 then complete c.q c.tag 0 [] s else s
/-- Command body of RESYNC. -/
def bodyResync (c : Cmd) (s : State) : Ans :=
  let dl := fld (pw c 0) 13 0
  if dl = 0 ∨ 10000 < dl then Ans.fail s 0x06 0 0 []
  else if !holds s 16 c.part then Ans.deny c s 0 []
  else if swHeld s || opsFull s c.q then Ans.fail s 0x02 (if swHeld s then 0 else 0xFF) 0 []
  else if rb s (swk 0) 3 || swState s != 5 then Ans.fail s 0x06 0 0x22 []
  else
    let gs := (List.range 16).filter fun g => rb s (gk g 0) 4
    Ans.long c (.resync (s.tb + 1000000 * dl)) (setF (swk 0x20) 2 0 6 (modSw (fun w =>
      { w with rsGens := gs, rsT := none, rsAxes := [], rsSave := [], rsStep := [] }) s))
/-- RESYNC's DEADLINE passes: TOO_LATE, and nothing has changed. -/
def resyncLate (q tag : Nat) (s : State) : State :=
  match opOf s q tag with
  | some o => match o.kind with
    | .resync d =>
      if d ≤ s.tb then complete q tag 0x0B [detail 0xFF 0] (resyncAbandon s) else s
    | _ => s
  | none => s

/-! ## The ledger stream (R281, R290) -/

/-- Blocks `i` to `i + n` − 1 of a section in records of as many blocks as fit a frame's payload. -/
def sectionRecords (s : State) (x : Snap) (n words : Nat) : Nat → Nat → Nat → List (List Word)
  | 0, _, _ => []
  | fuel + 1, i, left =>
    if left = 0 then []
    else
      let k := min left (max 1 (124 / words))
      (BitVec.ofNat 32 (9 + 256 * n + 65536 * k) :: BitVec.ofNat 32 i :: BitVec.ofNat 32 x.seq :: lo32 x.t ::
        (List.range k).flatMap fun j => ledBlock s x 0 n (i + j)) :: sectionRecords s x n words fuel (i + k) (left - k)
/-- The sections that the LEDGER option sends. -/
def streamSections : List Nat := [0, 1, 2, 3, 4, 5, 6, 7, 8, 0xA]
/-- After a LEDGER_SNAP by P0 its sections go to the stream port with LEDGER = 1. -/
def snapStream (c : Cmd) (st : Nat) (s : State) : State :=
  if st ≠ 0 ∨ c.part ≠ 0 then s
  else match portWith s 8, s.snaps.find? fun x => x.part == 0 with
    | some k, some x => forEach streamSections (fun n s => match section_ n with
        | some (insts, words) => forEach (sectionRecords s x n words insts 0 insts) (fun ws s => strmRec k 2 (fill4 ws) s) s
        | none => s) s
    | _, _ => s

end Sys2Proof.Machine
end

