-- ==== Sys2Proof/Machine/ExecAction.lean ====
section
/-! DEFINITION. Action queue commands, Molt, fences and the self-test (R185–R189, R303–R317). -/

namespace Sys2Proof.Machine

open Host (Outcome)

/-- ACT_INSERT (R305); it waits while the insert buffer is full (R295). -/
def execActInsert (p : Pkt) (s : State) : Outcome State Fault Refusal :=
  .next (if decide (1024 ≤ s.insBuf.length) &&
      (common (lenIs 6 p.pay) bodyActInsert (cmdOf 0x50 p s) (take p.q.val p.pay.length s)).later then s
    else plainRow 0x50 6 bodyActInsert p s)
/-- ACT_CANCEL (R303). -/
def execActCancel (p : Pkt) (s : State) : Outcome State Fault Refusal :=
  .next (plainRow 0x51 6 bodyActCancel p s)
/-- ACT_QUERY (R306). -/
def execActQuery (p : Pkt) (s : State) : Outcome State Fault Refusal :=
  .next (plainRow 0x52 6 bodyActQuery p s)
/-- MOLT (R314). -/
def execMolt (p : Pkt) (s : State) : Outcome State Fault Refusal :=
  .next (plainRow 0x60 4 bodyMolt p s)
/-- The copy of a MOLT is complete (R315). -/
def execMoltCopyDone (h : Fin 96) (s : State) : Outcome State Fault Refusal :=
  .next (event (moltCopied h.val) s)
/-- DEADLINE of a MOLT (R315). -/
def execMoltDeadline (h : Fin 96) (s : State) : Outcome State Fault Refusal :=
  .next (event (moltDue h.val) s)
/-- FENCE (R312). -/
def execFence (p : Pkt) (s : State) : Outcome State Fault Refusal :=
  .next (plainRow 0x61 3 bodyFence p s)
/-- UNFENCE (R313). -/
def execUnfence (p : Pkt) (s : State) : Outcome State Fault Refusal :=
  .next (plainRow 0x62 1 bodyUnfence p s)
/-- SELFTEST (R188). -/
def execSelftest (p : Pkt) (s : State) : Outcome State Fault Refusal :=
  .next (plainRow 0x63 1 bodySelftest p s)
/-- An attempt of SELFTEST ends with these deviations (R187). -/
def execSelftestAttemptEnd (n : Fin 96) (lo hi : Int) (s : State) : Outcome State Fault Refusal :=
  .next (event (selftestEnd n.val lo hi) s)

end Sys2Proof.Machine
end

