-- ==== Sys2Proof/Machine/ExecCommand.lean ====
section
/-! DEFINITION. Commands that every queue has: NOP to REG_PEEK, and packets that make no command (R60–R72, R79). -/

namespace Sys2Proof.Machine

open Host (Outcome)

/-- NOP. -/
def execNop (p : Pkt) (s : State) : Outcome State Fault Refusal :=
  .next (plainRow 0x00 0 bodyNop p s)
/-- IDENT (R2). -/
def execIdent (p : Pkt) (s : State) : Outcome State Fault Refusal :=
  .next (plainRow 0x01 0 bodyIdent p s)
/-- TIME (R47). -/
def execTime (p : Pkt) (s : State) : Outcome State Fault Refusal :=
  .next (plainRow 0x02 0 bodyTime p s)
/-- REG_READ (R79). -/
def execRegRead (p : Pkt) (s : State) : Outcome State Fault Refusal :=
  .next (plainRow 0x10 2 bodyRegRead p s)
/-- REG_WRITE (R79, R81), LEN 3–255. -/
def execRegWrite (p : Pkt) (s : State) : Outcome State Fault Refusal :=
  .next (hostRow 0x11 anyPay (fun _ n => decide (3 ≤ n)) bodyRegWrite noAfter p s)
/-- REG_MODIFY (R79). -/
def execRegModify (p : Pkt) (s : State) : Outcome State Fault Refusal :=
  .next (plainRow 0x12 3 bodyRegModify p s)
/-- REG_PEEK (R23). -/
def execRegPeek (p : Pkt) (s : State) : Outcome State Fault Refusal :=
  .next (plainRow 0x13 2 bodyRegPeek p s)
/-- A reserved opcode (R69). -/
def execReservedOpcode (opc : BitVec 8) (p : Pkt) (s : State) : Outcome State Fault Refusal :=
  .next (reservedRow opc.toNat p s)
/-- A command on a queue bound to no partition (R70). -/
def execUnboundQueueCommand (opc : BitVec 8) (p : Pkt) (s : State) : Outcome State Fault Refusal :=
  .next (unboundRow opc.toNat p s)
/-- A packet that ends past the tail (R61). -/
def execIncompletePacket (q : Fin 65) (s : State) : Outcome State Fault Refusal :=
  .next (incompleteRow q.val s)

end Sys2Proof.Machine
end

