-- ==== Sys2Proof/Machine/ExecCorrection.lean ====
section
/-! DEFINITION. Calibration and correction commands, and the events of their operations (R200–R212). -/

namespace Sys2Proof.Machine

open Host (Outcome)

/-- CAL_RUN (R200, R201). -/
def execCalRun (p : Pkt) (s : State) : Outcome State Fault Refusal :=
  .next (hostRow 0x30 anyPay (lenIs 8) bodyCalRun (fun c st s => if st = 0x01 then calBegin c.q c.tag s else s) p s)
/-- The compute stage ends (R204). -/
def execCalComputeDone (q : Fin 65) (tag : BitVec 8) (s : State) : Outcome State Fault Refusal :=
  .next (event (calCompute q.val tag.toNat) s)
/-- TMO of a CAL_RUN (R205). -/
def execCalRunTimeout (q : Fin 65) (tag : BitVec 8) (s : State) : Outcome State Fault Refusal :=
  .next (event (calTimeout q.val tag.toNat) s)
/-- CAL_COMMIT (R210). -/
def execCalCommit (p : Pkt) (s : State) : Outcome State Fault Refusal :=
  .next (hostRow 0x31 anyPay (lenIs 7) bodyCalCommit
    (fun c st s => if st = 0x01 && bit (pw c 0) 0 then commitNow c.q c.tag s else s) p s)
/-- DEADLINE of a CAL_COMMIT (R211). -/
def execCalCommitDeadline (q : Fin 65) (tag : BitVec 8) (s : State) : Outcome State Fault Refusal :=
  .next (event (commitDeadline q.val tag.toNat) s)
/-- CAL_STATUS (R212). -/
def execCalStatus (p : Pkt) (s : State) : Outcome State Fault Refusal :=
  .next (plainRow 0x32 1 bodyCalStatus p s)
/-- CORR_LOAD (R208). -/
def execCorrLoad (p : Pkt) (s : State) : Outcome State Fault Refusal :=
  .next (plainRow 0x33 3 bodyCorrLoad p s)
/-- The copied entries are checked (R208). -/
def execCorrLoadDone (n : Fin 96) (s : State) : Outcome State Fault Refusal :=
  .next (event (corrLoaded n.val) s)

end Sys2Proof.Machine
end

