-- ==== Sys2Proof/Machine/ExecDevice.lean ====
section
/-! DEFINITION. Fault wires, memories, temperature, clocks, supplies, power, resets and boot (R404, R405, R419–R429, R441, R444). -/

namespace Sys2Proof.Machine

open Host (Outcome)

/-- Two wires of a member stand equal for 100 ns (R405). -/
def execBrokenWire (src : Fin 512) (mem : BitVec 5) (s : State) : Outcome State Fault Refusal :=
  .next (finish (wireRow true src.val mem.toNat s))
/-- An ECC check fails, once or at both reads (R404). -/
def execSramEccError (src : Fin 512) (mem : BitVec 5) (unit : BitVec 8) (lasting : Bool) (s : State) : Outcome State Fault Refusal :=
  .next (event (eccRaise src.val mem.toNat unit.toNat lasting) s)
/-- A tile has been too hot for 10 µs (R404). -/
def execDieOverTemperature (t : Fin 8) (temp : BitVec 16) (s : State) : Outcome State Fault Refusal :=
  .next (if s.por then s else finish (dieHot t.val temp s))
/-- SCLK_REF is lost (R404). -/
def execSclkRefLost (s : State) : Outcome State Fault Refusal :=
  .next (outsideOn 0x008 0x2A s)
/-- The reference PLL unlocks (R404). -/
def execReferencePllUnlock (s : State) : Outcome State Fault Refusal :=
  .next (outsideOn 0x009 0x2A s)
/-- Four SYNC edges are absent (R444). -/
def execSyncMissing (s : State) : Outcome State Fault Refusal :=
  .next (outsideOn 0x00A 0x2A s)
/-- A power fail is detected, by PFAIL_N, by the monitor, or by both (R425, R426). -/
def execPowerFail (pin mon : Bool) (s : State) : Outcome State Fault Refusal :=
  .next (finish (powerFails (pin.toNat + 2 * mon.toNat) s))
/-- VDD_CORE falls below 0.65 V (R419). -/
def execPowerOnResetEntry (s : State) : Outcome State Fault Refusal :=
  .next (finish (porEnter s))
/-- Power-on reset is released (R419). -/
def execPowerOnResetRelease (s : State) : Outcome State Fault Refusal :=
  .next (finish (porRelease s))
/-- Boot step 1 ends (R420). -/
def execBootNvmLoadDone (s : State) : Outcome State Fault Refusal :=
  .next (event nvmLoaded s)
/-- Boot step 2 ends (R421). -/
def execBootSelftestDone (r : MemoryTest) (s : State) : Outcome State Fault Refusal :=
  .next (event (selftested r.failed r.transient) s)
/-- A boot map load ends (R370). -/
def execBootFabricLoadDone (sr : Fin 8) (f : FlashStream) (s : State) : Outcome State Fault Refusal :=
  .next (event (fabLoaded sr.val f) s)
/-- Steps 2, 4 and 5 have ended (R420). -/
def execReady (s : State) : Outcome State Fault Refusal :=
  .next (event bootReady s)
/-- RESET_N has been low for 1 µs (R423). -/
def execResetNAssert (s : State) : Outcome State Fault Refusal :=
  .next (finish (resetAssert s))
/-- RESET_N rises (R423). -/
def execResetNRelease (s : State) : Outcome State Fault Refusal :=
  .next (finish (powered .resetN resetRelease s))
/-- SCLK_REF runs again (R404). -/
def execSclkRefReturn (s : State) : Outcome State Fault Refusal :=
  .next (outsideOff 0x008 s)
/-- The reference PLL locks again (R404). -/
def execReferencePllLock (s : State) : Outcome State Fault Refusal :=
  .next (outsideOff 0x009 s)
/-- SYNC edges arrive again (R444). -/
def execSyncReturn (s : State) : Outcome State Fault Refusal :=
  .next (outsideOff 0x00A s)
/-- A tile has cooled (R404). -/
def execDieTemperatureNormal (t : Fin 8) (s : State) : Outcome State Fault Refusal :=
  .next (finish (dieCool t.val s))
/-- The wires of a member differ again (R405). -/
def execBrokenWireCleared (src : Fin 512) (mem : BitVec 5) (s : State) : Outcome State Fault Refusal :=
  .next (finish (wireRow false src.val mem.toNat s))
/-- A group 3 supply becomes valid (R328, R441). -/
def execDomainSupplyValid (rail : Fin 25) (s : State) : Outcome State Fault Refusal :=
  .next (finish (railOn rail.val s))
/-- A group 3 supply falls below its minimum (R441). -/
def execDomainSupplyLost (rail : Fin 25) (s : State) : Outcome State Fault Refusal :=
  .next (finish (supplyLost rail.val s))

end Sys2Proof.Machine
end

