-- ==== Sys2Proof/Machine/ExecFabric.lean ====
section
/-! DEFINITION. Logic fabric commands and the events of loads, readback and CLKSTOP (R366–R372). -/

namespace Sys2Proof.Machine

open Host (Outcome)

/-- BIT_BEGIN (R366). -/
def execBitBegin (p : Pkt) (s : State) : Outcome State Fault Refusal :=
  .next (plainRow 0x70 7 bodyBitBegin p s)
/-- BIT_DATA (R367). -/
def execBitData (p : Pkt) (s : State) : Outcome State Fault Refusal :=
  .next (plainRow 0x71 130 bodyBitData p s)
/-- BIT_END (R368). -/
def execBitEnd (p : Pkt) (s : State) : Outcome State Fault Refusal :=
  .next (hostRow 0x72 anyPay (fun _ n => n == 2 || n == 6) bodyBitEnd noAfter p s)
/-- The final check of a load (R368). -/
def execBitEndDone (sr : Fin 8) (s : State) : Outcome State Fault Refusal :=
  .next (event (bitEndDone sr.val) s)
/-- A session without BIT_DATA for 1 s (R369). -/
def execSessionTimeout (sr : Fin 8) (s : State) : Outcome State Fault Refusal :=
  .next (event (sessionTimeout sr.val) s)
/-- READBACK (R372). -/
def execReadback (p : Pkt) (s : State) : Outcome State Fault Refusal :=
  .next (plainRow 0x73 2 bodyReadback p s)
/-- The readback image is complete (R372). -/
def execReadbackDone (r : Fin 8) (s : State) : Outcome State Fault Refusal :=
  .next (event (readbackDone r.val) s)
/-- REGION_CTL RESET, and reserved OPs (R371). -/
def execRegionReset (p : Pkt) (s : State) : Outcome State Fault Refusal :=
  .next (hostRow 0x74 (fun l => [none, some 0, some 5, some 6, some 7].contains (selOf 10 8 l)) (lenIs 1)
    (reservedSel 10 8 5 (bodyRegion 0)) noAfter p s)
/-- REGION_CTL START (R355). -/
def execRegionStart (p : Pkt) (s : State) : Outcome State Fault Refusal :=
  .next (hostRow 0x74 (fun l => selOf 10 8 l == some 1) (lenIs 1) (bodyRegion 1) noAfter p s)
/-- REGION_CTL CLKSTOP (R371). -/
def execRegionClkstop (p : Pkt) (s : State) : Outcome State Fault Refusal :=
  .next (hostRow 0x74 (fun l => selOf 10 8 l == some 2) (lenIs 1) (bodyRegion 2) noAfter p s)
/-- A net still high 10 µs after CLKSTOP (R371). -/
def execClkstopForce (r : Fin 8) (s : State) : Outcome State Fault Refusal :=
  .next (event (clkForce r.val) s)
/-- REGION_CTL CLKRUN (R371). -/
def execRegionClkrun (p : Pkt) (s : State) : Outcome State Fault Refusal :=
  .next (hostRow 0x74 (fun l => selOf 10 8 l == some 3) (lenIs 1) (bodyRegion 3) noAfter p s)
/-- REGION_CTL CLEAR (R371). -/
def execRegionClear (p : Pkt) (s : State) : Outcome State Fault Refusal :=
  .next (hostRow 0x74 (fun l => selOf 10 8 l == some 4) (lenIs 1) (bodyRegion 4) noAfter p s)

end Sys2Proof.Machine
end

