-- ==== Sys2Proof/Machine/ExecFault.lean ====
section
/-! DEFINITION. Ledger and fault commands (R113–R116, R413–R417). -/

namespace Sys2Proof.Machine

open Host (Outcome)

/-- LEDGER_SNAP (R113), which the LEDGER option also streams (R290). -/
def execLedgerSnap (p : Pkt) (s : State) : Outcome State Fault Refusal :=
  .next (hostRow 0x80 anyPay (lenIs 0) bodySnap snapStream p s)
/-- LEDGER_READ (R116). -/
def execLedgerRead (p : Pkt) (s : State) : Outcome State Fault Refusal :=
  .next (plainRow 0x81 2 bodyLedRead p s)
/-- FAULT_READ OP 0, and the reserved OP (R417). -/
def execFaultReadRecords (p : Pkt) (s : State) : Outcome State Fault Refusal :=
  .next (hostRow 0x90 (fun l => [none, some 0, some 3].contains (selOf 1 0 l)) (lenIs 1)
    (reservedSel 1 0 3 (bodyFaultRead 0)) noAfter p s)
/-- FAULT_READ OP 1 (R417). -/
def execFaultReadCapture (p : Pkt) (s : State) : Outcome State Fault Refusal :=
  .next (hostRow 0x90 (fun l => selOf 1 0 l == some 1) (lenIs 1) (bodyFaultRead 1) noAfter p s)
/-- FAULT_READ OP 2 (R417). -/
def execFaultReadStatus (p : Pkt) (s : State) : Outcome State Fault Refusal :=
  .next (hostRow 0x90 (fun l => selOf 1 0 l == some 2) (lenIs 1) (bodyFaultRead 2) noAfter p s)
/-- FAULT_CLEAR (R413). -/
def execFaultClear (p : Pkt) (s : State) : Outcome State Fault Refusal :=
  .next (plainRow 0x91 1 bodyFaultClear p s)
/-- SEVERITY_SET (R415). -/
def execSeveritySet (p : Pkt) (s : State) : Outcome State Fault Refusal :=
  .next (plainRow 0x93 2 bodySeverity p s)
/-- INJECT MODE 0 (R416). -/
def execInjectRaise (p : Pkt) (s : State) : Outcome State Fault Refusal :=
  .next (hostRow 0x92 (fun l => [none, some 0].contains (selOf 25 24 l)) (lenIs 1) (bodyInject 0) noAfter p s)
/-- INJECT MODE 1 (R416). -/
def execInjectHold (p : Pkt) (s : State) : Outcome State Fault Refusal :=
  .next (hostRow 0x92 (fun l => selOf 25 24 l == some 1) (lenIs 1) (bodyInject 1) noAfter p s)
/-- INJECT MODE 2 (R416). -/
def execInjectBrokenWire (p : Pkt) (s : State) : Outcome State Fault Refusal :=
  .next (hostRow 0x92 (fun l => selOf 25 24 l == some 2) (lenIs 1) (bodyInject 2) noAfter p s)
/-- INJECT MODE 3 (R416). -/
def execInjectRelease (p : Pkt) (s : State) : Outcome State Fault Refusal :=
  .next (hostRow 0x92 (fun l => selOf 25 24 l == some 3) (lenIs 1) (bodyInject 3) noAfter p s)

end Sys2Proof.Machine
end

