-- ==== Sys2Proof/Machine/ExecHost.lean ====
section
/-! DEFINITION. The processor, the debug and SPI ports, BAR2 and the links (R55–R64, R76–R85, R97). -/

namespace Sys2Proof.Machine

open Host (Outcome)

/-- A held completion is written (R64). -/
def execCompletionDelivery (q : Fin 65) (s : State) : Outcome State Fault Refusal :=
  .next (event (deliver1 q.val) s)
/-- The watchdog expires while this queue's command is applied (R76). -/
def execProcessorRestart (applying : Option (Fin 65)) (s : State) : Outcome State Fault Refusal :=
  .next (event (restartBegin (applying.map (·.val))) s)
/-- A lease's time has run out (R97). -/
def execLeaseExpiry (l : Fin 128) (s : State) : Outcome State Fault Refusal :=
  .next (event (leaseExpired l.val) s)
/-- A debug-port read of some words (R84). -/
def execDebugRead (addr : Word) (count : BitVec 8) (s : State) : Outcome State Fault Refusal :=
  .next (event (powered .tck (debugReadWords addr.toNat count.toNat)) s)
/-- A halt request of the debug port (R85). -/
def execDebugHalt (s : State) : Outcome State Fault Refusal :=
  .next (event (powered .tck debugHalt) s)
/-- A resume request of the debug port (R85). -/
def execDebugResume (s : State) : Outcome State Fault Refusal :=
  .next (event (powered .tck debugResume) s)
/-- A transaction of the management SPI port (R82, R83). -/
def execSpiTransaction (write : Bool) (addr : BitVec 16) (bytes : List Byte) (n : Nat) (s : State) : Outcome State Fault Refusal :=
  .next (spiRow write addr.toNat n bytes s)
/-- A read of BAR2 (R57). -/
def execBar2Read (port : Fin 8) (off : BitVec 24) (n : Nat) (s : State) : Outcome State Fault Refusal :=
  .next (if hostOn s port.val then finish (bar2Read port.val off.toNat n s) else s)
/-- A write to BAR2, discarded and counted (R57). -/
def execBar2Write (port : Fin 8) (_off : BitVec 24) (s : State) : Outcome State Fault Refusal :=
  .next (if hostOn s port.val then finish (satF (bpk port.val 0xC) 31 0 s) else s)
/-- A HOST link goes down, or its port is reset (R78). -/
def execHostLinkDown (e : LinkEnd) (s : State) : Outcome State Fault Refusal :=
  .next (if s.por then s else finish (linkDown e.port.val e.how s))
/-- PERST_N of a port is released (R55). -/
def execPerstRelease (port : Fin 8) (s : State) : Outcome State Fault Refusal :=
  .next (finish (powered (.perstN port.val) (modLink port.val (fun l => { l with perst := true })) s))
/-- The notification interval ends (R59). -/
def execFaultNotifyDelayed (port : Fin 8) (s : State) : Outcome State Fault Refusal :=
  .next (event (notifyLate port.val) s)
/-- A HOST link comes up (R78). -/
def execHostLinkUp (port : Fin 8) (s : State) : Outcome State Fault Refusal :=
  .next (if s.por then s else finish (linkUp port.val s))
/-- The processor has restarted (R76). -/
def execProcessorRestartDone (s : State) : Outcome State Fault Refusal :=
  .next (event restartDone s)

end Sys2Proof.Machine
end

