-- ==== Sys2Proof/Machine/ExecLine.lean ====
section
/-! DEFINITION. Commands that arm, synchronise, freeze and sample the channels (R135, R139, R190–R193, R220, R237, R274). -/

namespace Sys2Proof.Machine

open Host (Outcome)

/-- ARM with KIND 0 (R190). -/
def execArmChannels (p : Pkt) (s : State) : Outcome State Fault Refusal :=
  .next (armRow 0x40 false bodyArmChannels p s)
/-- ARM with KIND 1 (R135). -/
def execArmGenerator (p : Pkt) (s : State) : Outcome State Fault Refusal :=
  .next (armRow 0x40 true bodyArmGenerator p s)
/-- DISARM with KIND 0 (R193). -/
def execDisarmChannels (p : Pkt) (s : State) : Outcome State Fault Refusal :=
  .next (armRow 0x41 false bodyDisarmChannels p s)
/-- DISARM with KIND 1 (R139). -/
def execDisarmGenerator (p : Pkt) (s : State) : Outcome State Fault Refusal :=
  .next (armRow 0x41 true bodyDisarmGenerator p s)
/-- SYNC (R237). -/
def execSync (p : Pkt) (s : State) : Outcome State Fault Refusal :=
  .next (plainRow 0x42 6 bodySync p s)
/-- FREEZE with OP 1 (R220). -/
def execFreeze (p : Pkt) (s : State) : Outcome State Fault Refusal :=
  .next (hostRow 0x43 (fun l => selOf 0 0 l != some 0) (lenIs 4) (bodyFreeze true) noAfter p s)
/-- FREEZE with OP 0 (R220). -/
def execFreezeRelease (p : Pkt) (s : State) : Outcome State Fault Refusal :=
  .next (hostRow 0x43 (fun l => selOf 0 0 l == some 0) (lenIs 4) (bodyFreeze false) noAfter p s)
/-- STATS_SNAP (R274). -/
def execStatsSnap (p : Pkt) (s : State) : Outcome State Fault Refusal :=
  .next (plainRow 0x44 2 bodyStatsSnap p s)

end Sys2Proof.Machine
end

