-- ==== Sys2Proof/Machine/ExecMotion.lean ====
section
/-! DEFINITION. Encoders, axes and trigger generators (R118–R144). -/

namespace Sys2Proof.Machine

open Host (Outcome)

/-- A filtered sample of A and B differs from the last (R119). -/
def execEncoderEdge (e : Fin 32) (a b : Bool) (s : State) : Outcome State Fault Refusal :=
  .next (event (fun s => powered (.encAP e.val) (encSample e.val a b) s) s)
/-- A deferred token's time has come (R137). -/
def execTokenDeferredDelivery (g : Fin 16) (s : State) : Outcome State Fault Refusal :=
  .next (event (deliverDeferred g.val) s)
/-- An accepted Z edge (R122). -/
def execEncoderZEdge (e : Fin 32) (s : State) : Outcome State Fault Refusal :=
  .next (event (fun s => powered (.encZP e.val) (encZ e.val) s) s)
/-- An input stays fail-safe for 1 µs (R123). -/
def execEncoderLossOfSignal (e : Fin 32) (onB : Bool) (s : State) : Outcome State Fault Refusal :=
  .next (event (encLos e.val onB true) s)
/-- The detector deasserts (R130). -/
def execEncoderSignalReturn (e : Fin 32) (onB : Bool) (s : State) : Outcome State Fault Refusal :=
  .next (event (encLos e.val onB false) s)
/-- The 10 µs update of RATE (R131). -/
def execAxisRateUpdate (a : Fin 8) (s : State) : Outcome State Fault Refusal :=
  .next (event (rateUpdate a.val) s)
/-- A trigger pulse ends (R144). -/
def execTriggerPulseEnd (g : Fin 16) (s : State) : Outcome State Fault Refusal :=
  .next (event (trigEnd g.val) s)
/-- A follower axis goes on at the last rate (R157). -/
def execHoldoverExtrapolation (a : Fin 8) (s : State) : Outcome State Fault Refusal :=
  .next (event (extrapolate a.val) s)
/-- A frame is due at its origin (R148). -/
def execSwarmFrameSend (kind : Fin 6) (idx : Fin 16) (s : State) : Outcome State Fault Refusal :=
  .next (event (swarmSend kind.val idx.val) s)
/-- A TOKEN frame (R153). -/
def execSwarmTokenFrame (f : SwFrame) (s : State) : Outcome State Fault Refusal :=
  .next (event (powered .swmRxEP (receive 1 f (onToken f))) s)
/-- A TIME frame (R157). -/
def execSwarmTimeFrame (f : SwFrame) (s : State) : Outcome State Fault Refusal :=
  .next (event (powered .swmRxEP (receive 2 f onTime)) s)
/-- A STATUS frame (R159). -/
def execSwarmStatusFrame (f : SwFrame) (s : State) : Outcome State Fault Refusal :=
  .next (event (powered .swmRxEP (receive 3 f (onStatus f))) s)
/-- A POS frame (R133). -/
def execSwarmPosFrame (f : SwFrame) (s : State) : Outcome State Fault Refusal :=
  .next (event (powered .swmRxEP (receive 4 f (onPos f))) s)
/-- A GDESC frame (R151). -/
def execSwarmGdescFrame (f : SwFrame) (s : State) : Outcome State Fault Refusal :=
  .next (event (powered .swmRxEP (receive 5 f (onGdesc f))) s)
/-- A NAK frame (R155). -/
def execSwarmNakFrame (f : SwFrame) (s : State) : Outcome State Fault Refusal :=
  .next (event (powered .swmRxEP (receive 6 f (onNak f))) s)
/-- A TRAIN frame: its data are the engine's own, and it goes on round the ring (R149, R152). -/
def execSwarmTrainFrame (f : SwFrame) (s : State) : Outcome State Fault Refusal :=
  .next (event (powered .swmRxEP (receive 7 f fun s => s)) s)
/-- A resend has not arrived in 2 µs (R155). -/
def execSwarmResendTimeout (seg : Bool) (s : State) : Outcome State Fault Refusal :=
  .next (event (resendTimeout seg) s)
/-- A segment loses alignment or commas (R156). -/
def execSwarmSegmentFail (seg : Bool) (s : State) : Outcome State Fault Refusal :=
  .next (event (fun s => onlyIf (swState s != 0) (segFail seg) s) s)
/-- The instant of a ring token (R153). -/
def execSwarmTokenDelivery (s : State) : Outcome State Fault Refusal :=
  .next (event deliverRing s)
/-- No good TIME frame for 2 µs (R157). -/
def execSwarmHoldoverStart (s : State) : Outcome State Fault Refusal :=
  .next (event holdoverStart s)
/-- HOLD.MS has passed (R158). -/
def execSwarmHoldoverEnd (s : State) : Outcome State Fault Refusal :=
  .next (event holdoverEnd s)
/-- No STATUS frame for 12 µs (R159). -/
def execSwarmFollowerLost (d : Fin 8) (s : State) : Outcome State Fault Refusal :=
  .next (event (followerLost d.val) s)
/-- A fault-summary record is refused (R162). -/
def execSwarmReceiveDiscard (s : State) : Outcome State Fault Refusal :=
  .next (event swarmRefused s)

end Sys2Proof.Machine
end

