-- ==== Sys2Proof/Machine/ExecOutput.lean ====
section
/-! DEFINITION. Firefly, strobes, trips, supervisory converters, fabric requests and GPIO (R321–R349, R356, R363, R398–R401). -/

namespace Sys2Proof.Machine

open Host (Outcome)

/-- A Firefly update edge of a port (R323). -/
def execFfUpdateEdge (n : Fin 96) (s : State) : Outcome State Fault Refusal :=
  .next (event (ffEdgeRow n.val) s)
/-- The deglitch hold ends (R327). -/
def execDeglitchHoldEnd (n : Fin 96) (s : State) : Outcome State Fault Refusal :=
  .next (event (deglitched n.val) s)
/-- A comparator's raw output goes active (R334). -/
def execComparatorTrip (x : SnsLevel) (s : State) : Outcome State Fault Refusal :=
  .next (event (compLevel x.n.val x.level) s)
/-- TRIP_N goes low (R335). -/
def execTripNLow (t : Fin 8) (s : State) : Outcome State Fault Refusal :=
  .next (tripEdge t.val true s)
/-- The output limiter has acted for 2 µs (R330). -/
def execFfShortCircuit (n : Fin 96) (s : State) : Outcome State Fault Refusal :=
  .next (event (ffFlag n.val 1 7 true) s)
/-- A current output reaches compliance (R330). -/
def execFfCompliance (n : Fin 96) (s : State) : Outcome State Fault Refusal :=
  .next (event (ffCompl n.val) s)
/-- A supervisory slot ends with these codes, one per converter (R340). -/
def execSupSlotEnd (codes : List Int) (s : State) : Outcome State Fault Refusal :=
  .next (event (slotEnd codes) s)
/-- A request pulse of a region is taken (R363). -/
def execFabricRequest (r : Fin 8) (k : Fin 16) (merged : BitVec 12) (s : State) : Outcome State Fault Refusal :=
  .next (event (fabRequest r.val k.val merged.toNat) s)
/-- A fabric PLL locks (R356). -/
def execFabricPllLock (r : Fin 8) (s : State) : Outcome State Fault Refusal :=
  .next (event (fabPllLock r.val) s)
/-- An edge at a watched pin (R400). -/
def execGpioIrqEdge (k : Fin 8) (level : Bool) (s : State) : Outcome State Fault Refusal :=
  .next (event (irqRow k.val level) s)
/-- The time base reaches a multiple of 2^K ns (R398). -/
def execTimeBasePulse (s : State) : Outcome State Fault Refusal :=
  .next (event tbPulse s)
/-- A time-base pulse ends (R398). -/
def execTimeBasePulseEnd (s : State) : Outcome State Fault Refusal :=
  .next (event tbPulseEnd s)
/-- The limiter stops acting (R330). -/
def execFfShortCircuitEnd (n : Fin 96) (s : State) : Outcome State Fault Refusal :=
  .next (event (ffFlag n.val 1 7 false) s)
/-- An output leaves its compliance limit (R330). -/
def execFfComplianceEnd (n : Fin 96) (s : State) : Outcome State Fault Refusal :=
  .next (event (ffFlag n.val 3 8 false) s)
/-- TRIP_N returns high (R335). -/
def execTripNHigh (t : Fin 8) (s : State) : Outcome State Fault Refusal :=
  .next (tripEdge t.val false s)
/-- A strobe pulse reaches START (R331). -/
def execStrobePulseBegin (n : Fin 96) (k : Fin 4) (s : State) : Outcome State Fault Refusal :=
  .next (event (pulseBegin n.val k.val) s)
/-- A strobe pulse reaches START plus WIDTH (R331). -/
def execStrobePulseEnd (n : Fin 96) (k : Fin 4) (s : State) : Outcome State Fault Refusal :=
  .next (event (pulseEnd n.val k.val) s)

end Sys2Proof.Machine
end

