-- ==== Sys2Proof/Machine/ExecPartition.lean ====
section
/-! DEFINITION. Commands of the Carapace: ownership, leases, quotas and partition reset (R86–R101). -/

namespace Sys2Proof.Machine

open Host (Outcome)

/-- ASSIGN (R90). -/
def execAssign (p : Pkt) (s : State) : Outcome State Fault Refusal :=
  .next (plainRow 0x20 2 bodyAssign p s)
/-- RELEASE (R91). -/
def execRelease (p : Pkt) (s : State) : Outcome State Fault Refusal :=
  .next (plainRow 0x21 2 bodyRelease p s)
/-- LOCK (R96). -/
def execLock (p : Pkt) (s : State) : Outcome State Fault Refusal :=
  .next (plainRow 0x22 2 bodyLock p s)
/-- UNLOCK with FORCE = 0 (R96). -/
def execUnlock (p : Pkt) (s : State) : Outcome State Fault Refusal :=
  .next (hostRow 0x23 (fun l => selOf 31 31 l != some 1) (lenIs 1) bodyUnlock noAfter p s)
/-- UNLOCK with FORCE = 1 (R96). -/
def execUnlockForce (p : Pkt) (s : State) : Outcome State Fault Refusal :=
  .next (hostRow 0x23 (fun l => selOf 31 31 l == some 1) (lenIs 1) bodyUnlockForce noAfter p s)
/-- QUOTA (R92). -/
def execQuota (p : Pkt) (s : State) : Outcome State Fault Refusal :=
  .next (plainRow 0x24 2 bodyQuota p s)
/-- PART_RESET (R101). -/
def execPartReset (p : Pkt) (s : State) : Outcome State Fault Refusal :=
  .next (plainRow 0x25 1 bodyPartReset p s)
/-- A partition reset is complete (R101). -/
def execPartResetComplete (part : Part) (s : State) : Outcome State Fault Refusal :=
  .next (event (partResetDone part.toNat) s)

end Sys2Proof.Machine
end

