-- ==== Sys2Proof/Machine/ExecPort.lean ====
section
/-! DEFINITION. Register rows: writes and reads that the table names by themselves (R22, R47, R62, R65, R79). -/

namespace Sys2Proof.Machine

open Host (Outcome)

/-- A write of DOORBELL (R62). -/
def execDoorbell (q : Fin 65) (v : Word) (be : BitVec 4) (s : State) : Outcome State Fault Refusal :=
  .next (doorbellRow q.val v be s)
/-- A write of QCTL (R65). -/
def execQctlWrite (q : Fin 64) (v : Word) (be : BitVec 4) (s : State) : Outcome State Fault Refusal :=
  .next (qctlRow q.val v be s)
/-- A whole write to a register with W1C fields (R22). -/
def execW1cWrite (tgt : WrTarget) (v : Word) (s : State) : Outcome State Fault Refusal :=
  .next (targetWrite tgt v 0xF s)
/-- A write to a register that has no row of its own (R22). -/
def execRegisterWrite (tgt : WrTarget) (v : Word) (mask : BitVec 4) (s : State) : Outcome State Fault Refusal :=
  .next (targetWrite tgt v mask s)
/-- A read of DEV.TB_LO (R47). -/
def execTbLoRead (q : Fin 65) (s : State) : Outcome State Fault Refusal :=
  .next (busRead q.val 0x10 s)
/-- A read of a _LO register that latches (R145). -/
def execLatchedLoRead (q : Fin 65) (addr : Word) (s : State) : Outcome State Fault Refusal :=
  .next (latchRowRead q.val addr.toNat s)
/-- A read of word 0 of a response descriptor (R250). -/
def execRdescSelectRead (q : Fin 65) (i : Fin 512) (s : State) : Outcome State Fault Refusal :=
  .next (busRead q.val (0x4000 + 32 * i.val) s)
/-- A read of an RC field (R22). -/
def execPeakRead (q : Fin 65) (addr : Word) (s : State) : Outcome State Fault Refusal :=
  .next (peakRowRead q.val addr.toNat s)
/-- A write of TILE[t].CLK with EN = 1 (R172). -/
def execTileClkStart (q : Fin 65) (t : Fin 8) (v : Word) (s : State) : Outcome State Fault Refusal :=
  .next (if bit v 16 then wholeWrite q.val (tk t.val 0) v s else s)
/-- A write of TILE[t].CLK with EN = 0 (R172). -/
def execTileClkStop (q : Fin 65) (t : Fin 8) (v : Word) (s : State) : Outcome State Fault Refusal :=
  .next (if bit v 16 then s else wholeWrite q.val (tk t.val 0) v s)
/-- A write of AX[a].CTL with FORCE = 1 (R128). -/
def execAxisForce (q : Fin 65) (a : Fin 8) (s : State) : Outcome State Fault Refusal :=
  .next (wholeWrite q.val (ak a.val 0xC) 1 s)
/-- A write of AX[a].CTL with RESTORE = 1 (R129). -/
def execAxisRestore (q : Fin 65) (a : Fin 8) (s : State) : Outcome State Fault Refusal :=
  .next (wholeWrite q.val (ak a.val 0xC) 2 s)
/-- A write of AX[a].PSET_HI (R132). -/
def execAxisPreset (q : Fin 65) (a : Fin 8) (v : Word) (s : State) : Outcome State Fault Refusal :=
  .next (wholeWrite q.val (ak a.val 0x24) v s)
/-- A write of FF[n].CTL.EN from 0 to 1 (R329). -/
def execFfEnable (q : Fin 65) (n : Fin 96) (s : State) : Outcome State Fault Refusal :=
  .next (if rb s (ffk n.val 0) 0 then s else wholeWrite q.val (ffk n.val 0) 1 s)
/-- A write of FF[n].CTL.EN from 1 to 0 (R329). -/
def execFfDisable (q : Fin 65) (n : Fin 96) (s : State) : Outcome State Fault Refusal :=
  .next (if rb s (ffk n.val 0) 0 then wholeWrite q.val (ffk n.val 0) 0 s else s)
/-- A write of TILE[t].FFMASK (R98). -/
def execStrobeMaskWrite (q : Fin 65) (t : Fin 8) (v : Word) (s : State) : Outcome State Fault Refusal :=
  .next (wholeWrite q.val (tk t.val 0x308) v s)
/-- A write of TILE CREDIT of a channel (R257). -/
def execCreditWrite (q : Fin 65) (n : Fin 96) (v : Word) (s : State) : Outcome State Fault Refusal :=
  .next (wholeWrite q.val (tlk n.val 0x100) v s)
/-- A write of a zone's CTL.EN = 1 (R273). -/
def execZoneEnable (q : Fin 65) (z : Fin 1024) (s : State) : Outcome State Fault Refusal :=
  .next (wholeWrite q.val (zk z.val 0) 1 s)
/-- A write of a zone's CTL.EN = 0 (R273). -/
def execZoneDisable (q : Fin 65) (z : Fin 1024) (s : State) : Outcome State Fault Refusal :=
  .next (wholeWrite q.val (zk z.val 0) 0 s)
/-- A write of RCFG with EN from 0 to 1 (R283). -/
def execRecordRingEnable (q : Fin 65) (part : Part) (v : Word) (s : State) : Outcome State Fault Refusal :=
  .next (if bit v 0 && !rb s (rrk part.toNat 0) 0 then wholeWrite q.val (rrk part.toNat 0) v s else s)
/-- A write of DMA CTL.PAUSE (R388). -/
def execDmaPauseBitWrite (q : Fin 65) (c : Fin 64) (v : Bool) (s : State) : Outcome State Fault Refusal :=
  .next (wholeWrite q.val (dmk c.val 0) (BitVec.ofNat 32 v.toNat) s)
/-- A write of DOUT or DIR of a bank (R395). -/
def execGpioBankWrite (q : Fin 65) (b : Fin 8) (dir : Bool) (v : Word) (s : State) : Outcome State Fault Refusal :=
  .next (wholeWrite q.val (bk b.val (if dir then 4 else 0)) v s)
/-- A write of SEL of an interrupt line (R400). -/
def execIrqSelWrite (q : Fin 65) (k : Fin 8) (v : Word) (s : State) : Outcome State Fault Refusal :=
  .next (wholeWrite q.val (iqk k.val 0) v s)
/-- A write of DEV.PWR with STATE 0 (R424). -/
def execPowerStateRun (q : Fin 65) (s : State) : Outcome State Fault Refusal :=
  .next (wholeWrite q.val pwrK 0 s)
/-- A write of DEV.PWR with STATE 1 (R424). -/
def execPowerStateIdle (q : Fin 65) (s : State) : Outcome State Fault Refusal :=
  .next (wholeWrite q.val pwrK 1 s)
/-- A write of DEV.PWR with STATE 2 (R424). -/
def execPowerStateStandby (q : Fin 65) (s : State) : Outcome State Fault Refusal :=
  .next (wholeWrite q.val pwrK 2 s)

end Sys2Proof.Machine
end

