-- ==== Sys2Proof/Machine/ExecStore.lean ====
section
/-! DEFINITION. Commands of the NVM and of the supervisory converters (R343–R349, R432, R433). -/

namespace Sys2Proof.Machine

open Host (Outcome)

/-- NVM_READ (R432). -/
def execNvmRead (p : Pkt) (s : State) : Outcome State Fault Refusal :=
  .next (plainRow 0xA0 2 bodyNvmRead p s)
/-- NVM_WRITE (R432), LEN 2–66. -/
def execNvmWrite (p : Pkt) (s : State) : Outcome State Fault Refusal :=
  .next (hostRow 0xA1 anyPay (fun _ n => decide (2 ≤ n) && decide (n ≤ 66)) bodyNvmWrite noAfter p s)
/-- The page is programmed and verified, or has failed for good (R432). -/
def execNvmWriteDone (ok : Bool) (s : State) : Outcome State Fault Refusal :=
  .next (event (nvmWritten ok) s)
/-- NVM_LOCK (R433). -/
def execNvmLock (p : Pkt) (s : State) : Outcome State Fault Refusal :=
  .next (plainRow 0xA2 1 bodyNvmLock p s)
/-- The lock bits are set (R433). -/
def execNvmLockDone (s : State) : Outcome State Fault Refusal :=
  .next (event (nvmLocked) s)
/-- SUP_SNAP (R347). -/
def execSupSnap (p : Pkt) (s : State) : Outcome State Fault Refusal :=
  .next (plainRow 0xB0 1 bodySupSnap p s)
/-- SUP_URGENT with TEST = 0 (R343). -/
def execSupUrgent (p : Pkt) (s : State) : Outcome State Fault Refusal :=
  .next (hostRow 0xB1 (fun l => selOf 8 8 l != some 1) (lenIs 1) (bodySupUrgent false) noAfter p s)
/-- SUP_URGENT with TEST = 1 (R349). -/
def execSupPathTest (p : Pkt) (s : State) : Outcome State Fault Refusal :=
  .next (hostRow 0xB1 (fun l => selOf 8 8 l == some 1) (lenIs 1) (bodySupUrgent true) noAfter p s)

end Sys2Proof.Machine
end

