-- ==== Sys2Proof/Machine/ExecTransfer.lean ====
section
/-! DEFINITION. DMA and stream events (R284–R288, R373–R391). -/

namespace Sys2Proof.Machine

open Host (Outcome)

/-- A channel reads the descriptor at PTR (R379). -/
def execDmaDescriptorRead (c : Fin 64) (host : HostBytes) (s : State) : Outcome State Fault Refusal :=
  .next (event (descRead c.val host) s)
/-- A quantum ends (R373). -/
def execDmaQuantumEnd (c : Fin 64) (host : HostBytes) (s : State) : Outcome State Fault Refusal :=
  .next (event (quantumEnd c.val host) s)
/-- A descriptor is returned (R381). -/
def execDmaDescriptorComplete (c : Fin 64) (s : State) : Outcome State Fault Refusal :=
  .next (event (descDone c.val) s)
/-- A host read fails (R389). -/
def execDmaHostReadError (c : Fin 64) (s : State) : Outcome State Fault Refusal :=
  .next (event (hostReadError c.val) s)
/-- The reads issued before a pause are done (R388). -/
def execDmaPauseDrainEnd (e : DrainEnd) (s : State) : Outcome State Fault Refusal :=
  .next (event (pauseDrained e.c.val e.host) s)
/-- The reads issued before a stop are done (R389). -/
def execDmaStopDrainEnd (c : Fin 64) (s : State) : Outcome State Fault Refusal :=
  .next (event (dmaStopped c.val) s)
/-- A stream port starts a frame (R285). -/
def execStreamFrameSend (k : Fin 8) (s : State) : Outcome State Fault Refusal :=
  .next (event (frameSend k.val) s)
/-- A credit block arrives (R287). -/
def execStreamCreditBlock (k : Fin 8) (w0 w1 : Word) (s : State) : Outcome State Fault Refusal :=
  .next (event (creditBlock k.val w0 w1) s)
/-- The reverse lane is lost (R284). -/
def execStreamLinkDown (k : Fin 8) (s : State) : Outcome State Fault Refusal :=
  .next (event (strmDown k.val) s)

end Sys2Proof.Machine
end

