-- ==== Sys2Proof/Machine/ExecUnit.lean ====
section
/-! DEFINITION. Commands of Firefly, the Swarm link and the DMA engine (R152, R161, R325, R336, R387–R393). -/

namespace Sys2Proof.Machine

open Host (Outcome)

/-- FF_LOAD (R325), LEN 1–129. -/
def execFfLoad (p : Pkt) (s : State) : Outcome State Fault Refusal :=
  .next (hostRow 0xC0 anyPay (fun _ n => decide (1 ≤ n) && decide (n ≤ 129)) bodyFfLoad noAfter p s)
/-- FF_CLEAR (R336). -/
def execFfClear (p : Pkt) (s : State) : Outcome State Fault Refusal :=
  .next (plainRow 0xC1 4 bodyFfClear p s)
/-- SWARM_CTL STOP, and the reserved OP (R152). -/
def execSwarmStop (p : Pkt) (s : State) : Outcome State Fault Refusal :=
  .next (hostRow 0xD0 (fun l => [none, some 0, some 3].contains (selOf 1 0 l)) (lenIs 1) (bodySwarm 0) swarmAfter p s)
/-- SWARM_CTL LISTEN (R152). -/
def execSwarmListen (p : Pkt) (s : State) : Outcome State Fault Refusal :=
  .next (hostRow 0xD0 (fun l => selOf 1 0 l == some 1) (lenIs 1) (bodySwarm 1) swarmAfter p s)
/-- SWARM_CTL TRAIN (R152). -/
def execSwarmTrain (p : Pkt) (s : State) : Outcome State Fault Refusal :=
  .next (hostRow 0xD0 (fun l => selOf 1 0 l == some 2) (lenIs 1) (bodySwarm 2) noAfter p s)
/-- Training ends (R152). -/
def execSwarmTrainDone (consecutive : Bool) (hops : List (BitVec 16 × BitVec 16)) (newTb : BitVec 64) (s : State) : Outcome State Fault Refusal :=
  .next (event (trainDone consecutive hops newTb.toNat) s)
/-- RESYNC (R161). -/
def execResync (p : Pkt) (s : State) : Outcome State Fault Refusal :=
  .next (hostRow 0xD1 anyPay (lenIs 1) bodyResync (fun _ _ s => resyncDone s) p s)
/-- DEADLINE of a RESYNC (R161). -/
def execResyncDeadline (q : Fin 65) (tag : BitVec 8) (s : State) : Outcome State Fault Refusal :=
  .next (event (resyncLate q.val tag.toNat) s)
/-- DMA_CTL KICK, and reserved OPs (R387). -/
def execDmaKick (p : Pkt) (s : State) : Outcome State Fault Refusal :=
  .next (hostRow 0xE0 (fun l => [none, some 0, some 6, some 7].contains (selOf 10 8 l)) (lenIs 1)
    (reservedSel 10 8 6 (bodyDmaCtl 0)) noAfter p s)
/-- DMA_CTL PAUSE (R388). -/
def execDmaPause (p : Pkt) (s : State) : Outcome State Fault Refusal :=
  .next (hostRow 0xE0 (fun l => selOf 10 8 l == some 1) (lenIs 1) (bodyDmaCtl 1) noAfter p s)
/-- DMA_CTL RESUME (R388). -/
def execDmaResume (p : Pkt) (s : State) : Outcome State Fault Refusal :=
  .next (hostRow 0xE0 (fun l => selOf 10 8 l == some 2) (lenIs 1) (bodyDmaCtl 2) noAfter p s)
/-- DMA_CTL ABORT (R389). -/
def execDmaAbort (p : Pkt) (s : State) : Outcome State Fault Refusal :=
  .next (hostRow 0xE0 (fun l => selOf 10 8 l == some 3) (lenIs 1) (bodyDmaCtl 3) noAfter p s)
/-- DMA_CTL ENABLE (R393). -/
def execDmaEnable (p : Pkt) (s : State) : Outcome State Fault Refusal :=
  .next (hostRow 0xE0 (fun l => selOf 10 8 l == some 4) (lenIs 1) (bodyDmaCtl 4) noAfter p s)
/-- DMA_CTL DISABLE (R393). -/
def execDmaDisable (p : Pkt) (s : State) : Outcome State Fault Refusal :=
  .next (hostRow 0xE0 (fun l => selOf 10 8 l == some 5) (lenIs 1) (bodyDmaCtl 5) noAfter p s)

end Sys2Proof.Machine
end

