-- ==== Sys2Proof/Machine/ExecVideo.lean ====
section
/-! DEFINITION. Lines, events, the stitcher and the action queue (R142, R176–R184, R255–R265, R296–R300), tile clocks and speed (R43, R172, R173). -/

namespace Sys2Proof.Machine

open Host (Outcome)

/-- A token reaches its line-start edge in a tile (R142). -/
def execLineStart (t : Fin 8) (left : List Nat) (s : State) : Outcome State Fault Refusal :=
  .next (event (tileLine t.val left) s)
/-- A line reaches the end of its window (R184). -/
def execLineEnd (n : Fin 96) (px : List Pixel) (s : State) : Outcome State Fault Refusal :=
  .next (event (lineFinish n.val px) s)
/-- An event reaches its collector (R258). -/
def execEventArrival (n : Fin 96) (s : State) : Outcome State Fault Refusal :=
  .next (event (eventArrives n.val) s)
/-- A marker reaches its collector (R259). -/
def execLineEndMarker (n : Fin 96) (s : State) : Outcome State Fault Refusal :=
  .next (event (markerArrives n.val) s)
/-- The stitcher takes one item (R261). -/
def execStitcherTake (s : State) : Outcome State Fault Refusal :=
  .next (event stitcherRow s)
/-- Candidates 20 µs after their marker (R265). -/
def execStitchTimeout (h : Fin 96) (s : State) : Outcome State Fault Refusal :=
  .next (event (fun s => recordsOut (stitchTimeouts h.val s)) s)
/-- An insert leaves the buffer (R296). -/
def execInsertTaken (s : State) : Outcome State Fault Refusal :=
  .next (event insertTake s)
/-- The action queue observes a new position (R297). -/
def execActionExecute (a : Fin 8) (s : State) : Outcome State Fault Refusal :=
  .next (event (observe a.val) s)
/-- A marker pulse ends (R294). -/
def execMarkerPulseEnd (pin : Fin 256) (s : State) : Outcome State Fault Refusal :=
  .next (event (markEnd pin.val) s)
/-- A speed measurement (R43). -/
def execSpeedUpdate (t : Fin 8) (ratio : BitVec 16) (s : State) : Outcome State Fault Refusal :=
  .next (event (speedRatio t.val ratio.toNat) s)
/-- A tile PLL locks (R172). -/
def execTilePllLock (t : Fin 8) (s : State) : Outcome State Fault Refusal :=
  .next (event (pllLockRow t.val) s)
/-- The initial calibration ends (R172). -/
def execTileCalibrationDone (t : Fin 8) (s : State) : Outcome State Fault Refusal :=
  .next (event (tileCalibrated t.val) s)
/-- A PLL has not locked 200 µs after its start (R173). -/
def execTilePllLockTimeout (t : Fin 8) (s : State) : Outcome State Fault Refusal :=
  .next (event (pllLate t.val) s)
/-- A tile PLL loses lock (R173). -/
def execTilePllLossOfLock (t : Fin 8) (s : State) : Outcome State Fault Refusal :=
  .next (event (pllLost t.val) s)

end Sys2Proof.Machine
end

