-- ==== Sys2Proof/Machine/Dispatch.lean ====
section
/-! DEFINITION. The effect of every command and event, one arm per row of the spec's table. -/

namespace Sys2Proof.Machine

def exec (i : Instr) (s : State) : Host.Outcome State Fault Refusal :=
  match i with
  | .nop p => Sys2Proof.Machine.execNop p s
  | .ident p => Sys2Proof.Machine.execIdent p s
  | .time p => Sys2Proof.Machine.execTime p s
  | .regRead p => Sys2Proof.Machine.execRegRead p s
  | .regWrite p => Sys2Proof.Machine.execRegWrite p s
  | .regModify p => Sys2Proof.Machine.execRegModify p s
  | .regPeek p => Sys2Proof.Machine.execRegPeek p s
  | .reservedOpcode opc p => Sys2Proof.Machine.execReservedOpcode opc p s
  | .unboundQueueCommand opc p => Sys2Proof.Machine.execUnboundQueueCommand opc p s
  | .incompletePacket q => Sys2Proof.Machine.execIncompletePacket q s
  | .assign p => Sys2Proof.Machine.execAssign p s
  | .release p => Sys2Proof.Machine.execRelease p s
  | .lock p => Sys2Proof.Machine.execLock p s
  | .unlock p => Sys2Proof.Machine.execUnlock p s
  | .unlockForce p => Sys2Proof.Machine.execUnlockForce p s
  | .quota p => Sys2Proof.Machine.execQuota p s
  | .partReset p => Sys2Proof.Machine.execPartReset p s
  | .partResetComplete part => Sys2Proof.Machine.execPartResetComplete part s
  | .calRun p => Sys2Proof.Machine.execCalRun p s
  | .calComputeDone q tag => Sys2Proof.Machine.execCalComputeDone q tag s
  | .calRunTimeout q tag => Sys2Proof.Machine.execCalRunTimeout q tag s
  | .calCommit p => Sys2Proof.Machine.execCalCommit p s
  | .calCommitDeadline q tag => Sys2Proof.Machine.execCalCommitDeadline q tag s
  | .calStatus p => Sys2Proof.Machine.execCalStatus p s
  | .corrLoad p => Sys2Proof.Machine.execCorrLoad p s
  | .corrLoadDone n => Sys2Proof.Machine.execCorrLoadDone n s
  | .armChannels p => Sys2Proof.Machine.execArmChannels p s
  | .armGenerator p => Sys2Proof.Machine.execArmGenerator p s
  | .disarmChannels p => Sys2Proof.Machine.execDisarmChannels p s
  | .disarmGenerator p => Sys2Proof.Machine.execDisarmGenerator p s
  | .sync p => Sys2Proof.Machine.execSync p s
  | .freeze p => Sys2Proof.Machine.execFreeze p s
  | .freezeRelease p => Sys2Proof.Machine.execFreezeRelease p s
  | .statsSnap p => Sys2Proof.Machine.execStatsSnap p s
  | .actInsert p => Sys2Proof.Machine.execActInsert p s
  | .actCancel p => Sys2Proof.Machine.execActCancel p s
  | .actQuery p => Sys2Proof.Machine.execActQuery p s
  | .molt p => Sys2Proof.Machine.execMolt p s
  | .moltCopyDone h => Sys2Proof.Machine.execMoltCopyDone h s
  | .moltDeadline h => Sys2Proof.Machine.execMoltDeadline h s
  | .fence p => Sys2Proof.Machine.execFence p s
  | .unfence p => Sys2Proof.Machine.execUnfence p s
  | .selftest p => Sys2Proof.Machine.execSelftest p s
  | .selftestAttemptEnd n lo hi => Sys2Proof.Machine.execSelftestAttemptEnd n lo hi s
  | .bitBegin p => Sys2Proof.Machine.execBitBegin p s
  | .bitData p => Sys2Proof.Machine.execBitData p s
  | .bitEnd p => Sys2Proof.Machine.execBitEnd p s
  | .bitEndDone sr => Sys2Proof.Machine.execBitEndDone sr s
  | .sessionTimeout sr => Sys2Proof.Machine.execSessionTimeout sr s
  | .readback p => Sys2Proof.Machine.execReadback p s
  | .readbackDone r => Sys2Proof.Machine.execReadbackDone r s
  | .regionReset p => Sys2Proof.Machine.execRegionReset p s
  | .regionStart p => Sys2Proof.Machine.execRegionStart p s
  | .regionClkstop p => Sys2Proof.Machine.execRegionClkstop p s
  | .clkstopForce r => Sys2Proof.Machine.execClkstopForce r s
  | .regionClkrun p => Sys2Proof.Machine.execRegionClkrun p s
  | .regionClear p => Sys2Proof.Machine.execRegionClear p s
  | .ledgerSnap p => Sys2Proof.Machine.execLedgerSnap p s
  | .ledgerRead p => Sys2Proof.Machine.execLedgerRead p s
  | .faultReadRecords p => Sys2Proof.Machine.execFaultReadRecords p s
  | .faultReadCapture p => Sys2Proof.Machine.execFaultReadCapture p s
  | .faultReadStatus p => Sys2Proof.Machine.execFaultReadStatus p s
  | .faultClear p => Sys2Proof.Machine.execFaultClear p s
  | .severitySet p => Sys2Proof.Machine.execSeveritySet p s
  | .injectRaise p => Sys2Proof.Machine.execInjectRaise p s
  | .injectHold p => Sys2Proof.Machine.execInjectHold p s
  | .injectBrokenWire p => Sys2Proof.Machine.execInjectBrokenWire p s
  | .injectRelease p => Sys2Proof.Machine.execInjectRelease p s
  | .nvmRead p => Sys2Proof.Machine.execNvmRead p s
  | .nvmWrite p => Sys2Proof.Machine.execNvmWrite p s
  | .nvmWriteDone ok => Sys2Proof.Machine.execNvmWriteDone ok s
  | .nvmLock p => Sys2Proof.Machine.execNvmLock p s
  | .nvmLockDone => Sys2Proof.Machine.execNvmLockDone s
  | .supSnap p => Sys2Proof.Machine.execSupSnap p s
  | .supUrgent p => Sys2Proof.Machine.execSupUrgent p s
  | .supPathTest p => Sys2Proof.Machine.execSupPathTest p s
  | .ffLoad p => Sys2Proof.Machine.execFfLoad p s
  | .ffClear p => Sys2Proof.Machine.execFfClear p s
  | .swarmStop p => Sys2Proof.Machine.execSwarmStop p s
  | .swarmListen p => Sys2Proof.Machine.execSwarmListen p s
  | .swarmTrain p => Sys2Proof.Machine.execSwarmTrain p s
  | .swarmTrainDone consecutive hops newTb => Sys2Proof.Machine.execSwarmTrainDone consecutive hops newTb s
  | .resync p => Sys2Proof.Machine.execResync p s
  | .resyncDeadline q tag => Sys2Proof.Machine.execResyncDeadline q tag s
  | .dmaKick p => Sys2Proof.Machine.execDmaKick p s
  | .dmaPause p => Sys2Proof.Machine.execDmaPause p s
  | .dmaResume p => Sys2Proof.Machine.execDmaResume p s
  | .dmaAbort p => Sys2Proof.Machine.execDmaAbort p s
  | .dmaEnable p => Sys2Proof.Machine.execDmaEnable p s
  | .dmaDisable p => Sys2Proof.Machine.execDmaDisable p s
  | .doorbell q v be => Sys2Proof.Machine.execDoorbell q v be s
  | .qctlWrite q v be => Sys2Proof.Machine.execQctlWrite q v be s
  | .w1cWrite tgt v => Sys2Proof.Machine.execW1cWrite tgt v s
  | .registerWrite tgt v mask => Sys2Proof.Machine.execRegisterWrite tgt v mask s
  | .tbLoRead q => Sys2Proof.Machine.execTbLoRead q s
  | .latchedLoRead q addr => Sys2Proof.Machine.execLatchedLoRead q addr s
  | .rdescSelectRead q n => Sys2Proof.Machine.execRdescSelectRead q n s
  | .peakRead q addr => Sys2Proof.Machine.execPeakRead q addr s
  | .tileClkStart q t v => Sys2Proof.Machine.execTileClkStart q t v s
  | .tileClkStop q t v => Sys2Proof.Machine.execTileClkStop q t v s
  | .axisForce q a => Sys2Proof.Machine.execAxisForce q a s
  | .axisRestore q a => Sys2Proof.Machine.execAxisRestore q a s
  | .axisPreset q a v => Sys2Proof.Machine.execAxisPreset q a v s
  | .ffEnable q n => Sys2Proof.Machine.execFfEnable q n s
  | .ffDisable q n => Sys2Proof.Machine.execFfDisable q n s
  | .strobeMaskWrite q t v => Sys2Proof.Machine.execStrobeMaskWrite q t v s
  | .creditWrite q n v => Sys2Proof.Machine.execCreditWrite q n v s
  | .zoneEnable q z => Sys2Proof.Machine.execZoneEnable q z s
  | .zoneDisable q z => Sys2Proof.Machine.execZoneDisable q z s
  | .recordRingEnable q part v => Sys2Proof.Machine.execRecordRingEnable q part v s
  | .dmaPauseBitWrite q c v => Sys2Proof.Machine.execDmaPauseBitWrite q c v s
  | .gpioBankWrite q b dir v => Sys2Proof.Machine.execGpioBankWrite q b dir v s
  | .irqSelWrite q k v => Sys2Proof.Machine.execIrqSelWrite q k v s
  | .powerStateRun q => Sys2Proof.Machine.execPowerStateRun q s
  | .powerStateIdle q => Sys2Proof.Machine.execPowerStateIdle q s
  | .powerStateStandby q => Sys2Proof.Machine.execPowerStateStandby q s
  | .completionDelivery q => Sys2Proof.Machine.execCompletionDelivery q s
  | .processorRestart applying => Sys2Proof.Machine.execProcessorRestart applying s
  | .leaseExpiry l => Sys2Proof.Machine.execLeaseExpiry l s
  | .debugRead addr count => Sys2Proof.Machine.execDebugRead addr count s
  | .debugHalt => Sys2Proof.Machine.execDebugHalt s
  | .debugResume => Sys2Proof.Machine.execDebugResume s
  | .spiTransaction write addr bytes n => Sys2Proof.Machine.execSpiTransaction write addr bytes n s
  | .bar2Read port off n => Sys2Proof.Machine.execBar2Read port off n s
  | .bar2Write port off => Sys2Proof.Machine.execBar2Write port off s
  | .hostLinkDown e => Sys2Proof.Machine.execHostLinkDown e s
  | .perstRelease port => Sys2Proof.Machine.execPerstRelease port s
  | .faultNotifyDelayed port => Sys2Proof.Machine.execFaultNotifyDelayed port s
  | .encoderEdge e a b => Sys2Proof.Machine.execEncoderEdge e a b s
  | .tokenDeferredDelivery g => Sys2Proof.Machine.execTokenDeferredDelivery g s
  | .encoderZEdge e => Sys2Proof.Machine.execEncoderZEdge e s
  | .encoderLossOfSignal e onB => Sys2Proof.Machine.execEncoderLossOfSignal e onB s
  | .encoderSignalReturn e onB => Sys2Proof.Machine.execEncoderSignalReturn e onB s
  | .axisRateUpdate a => Sys2Proof.Machine.execAxisRateUpdate a s
  | .triggerPulseEnd g => Sys2Proof.Machine.execTriggerPulseEnd g s
  | .lineStart t refuse => Sys2Proof.Machine.execLineStart t refuse s
  | .lineEnd n px => Sys2Proof.Machine.execLineEnd n px s
  | .eventArrival n => Sys2Proof.Machine.execEventArrival n s
  | .lineEndMarker n => Sys2Proof.Machine.execLineEndMarker n s
  | .stitcherTake => Sys2Proof.Machine.execStitcherTake s
  | .stitchTimeout h => Sys2Proof.Machine.execStitchTimeout h s
  | .insertTaken => Sys2Proof.Machine.execInsertTaken s
  | .actionExecute a => Sys2Proof.Machine.execActionExecute a s
  | .markerPulseEnd pin => Sys2Proof.Machine.execMarkerPulseEnd pin s
  | .ffUpdateEdge n => Sys2Proof.Machine.execFfUpdateEdge n s
  | .deglitchHoldEnd n => Sys2Proof.Machine.execDeglitchHoldEnd n s
  | .comparatorTrip x => Sys2Proof.Machine.execComparatorTrip x s
  | .tripNLow t => Sys2Proof.Machine.execTripNLow t s
  | .ffShortCircuit n => Sys2Proof.Machine.execFfShortCircuit n s
  | .ffCompliance n => Sys2Proof.Machine.execFfCompliance n s
  | .supSlotEnd codes => Sys2Proof.Machine.execSupSlotEnd codes s
  | .fabricRequest r k merged => Sys2Proof.Machine.execFabricRequest r k merged s
  | .dmaDescriptorRead c host => Sys2Proof.Machine.execDmaDescriptorRead c host s
  | .dmaQuantumEnd c host => Sys2Proof.Machine.execDmaQuantumEnd c host s
  | .dmaDescriptorComplete c => Sys2Proof.Machine.execDmaDescriptorComplete c s
  | .dmaHostReadError c => Sys2Proof.Machine.execDmaHostReadError c s
  | .dmaPauseDrainEnd c => Sys2Proof.Machine.execDmaPauseDrainEnd c s
  | .streamFrameSend k => Sys2Proof.Machine.execStreamFrameSend k s
  | .streamCreditBlock k w0 w1 => Sys2Proof.Machine.execStreamCreditBlock k w0 w1 s
  | .streamLinkDown k => Sys2Proof.Machine.execStreamLinkDown k s
  | .speedUpdate t ratio => Sys2Proof.Machine.execSpeedUpdate t ratio s
  | .tilePllLock t => Sys2Proof.Machine.execTilePllLock t s
  | .tileCalibrationDone t => Sys2Proof.Machine.execTileCalibrationDone t s
  | .tilePllLockTimeout t => Sys2Proof.Machine.execTilePllLockTimeout t s
  | .tilePllLossOfLock t => Sys2Proof.Machine.execTilePllLossOfLock t s
  | .fabricPllLock r => Sys2Proof.Machine.execFabricPllLock r s
  | .swarmFrameSend kind idx => Sys2Proof.Machine.execSwarmFrameSend kind idx s
  | .swarmTokenFrame f => Sys2Proof.Machine.execSwarmTokenFrame f s
  | .swarmTimeFrame f => Sys2Proof.Machine.execSwarmTimeFrame f s
  | .swarmStatusFrame f => Sys2Proof.Machine.execSwarmStatusFrame f s
  | .swarmPosFrame f => Sys2Proof.Machine.execSwarmPosFrame f s
  | .swarmGdescFrame f => Sys2Proof.Machine.execSwarmGdescFrame f s
  | .swarmNakFrame f => Sys2Proof.Machine.execSwarmNakFrame f s
  | .swarmTrainFrame f => Sys2Proof.Machine.execSwarmTrainFrame f s
  | .swarmResendTimeout seg => Sys2Proof.Machine.execSwarmResendTimeout seg s
  | .swarmSegmentFail seg => Sys2Proof.Machine.execSwarmSegmentFail seg s
  | .swarmTokenDelivery => Sys2Proof.Machine.execSwarmTokenDelivery s
  | .swarmHoldoverStart => Sys2Proof.Machine.execSwarmHoldoverStart s
  | .swarmHoldoverEnd => Sys2Proof.Machine.execSwarmHoldoverEnd s
  | .swarmFollowerLost d => Sys2Proof.Machine.execSwarmFollowerLost d s
  | .swarmReceiveDiscard => Sys2Proof.Machine.execSwarmReceiveDiscard s
  | .gpioIrqEdge k level => Sys2Proof.Machine.execGpioIrqEdge k level s
  | .timeBasePulse => Sys2Proof.Machine.execTimeBasePulse s
  | .timeBasePulseEnd => Sys2Proof.Machine.execTimeBasePulseEnd s
  | .brokenWire src mem => Sys2Proof.Machine.execBrokenWire src mem s
  | .sramEccError src mem unit lasting => Sys2Proof.Machine.execSramEccError src mem unit lasting s
  | .dieOverTemperature t temp => Sys2Proof.Machine.execDieOverTemperature t temp s
  | .sclkRefLost => Sys2Proof.Machine.execSclkRefLost s
  | .referencePllUnlock => Sys2Proof.Machine.execReferencePllUnlock s
  | .syncMissing => Sys2Proof.Machine.execSyncMissing s
  | .powerFail pin mon => Sys2Proof.Machine.execPowerFail pin mon s
  | .powerOnResetEntry => Sys2Proof.Machine.execPowerOnResetEntry s
  | .powerOnResetRelease => Sys2Proof.Machine.execPowerOnResetRelease s
  | .bootNvmLoadDone => Sys2Proof.Machine.execBootNvmLoadDone s
  | .bootSelftestDone r => Sys2Proof.Machine.execBootSelftestDone r s
  | .bootFabricLoadDone sr f => Sys2Proof.Machine.execBootFabricLoadDone sr f s
  | .ready => Sys2Proof.Machine.execReady s
  | .resetNAssert => Sys2Proof.Machine.execResetNAssert s
  | .resetNRelease => Sys2Proof.Machine.execResetNRelease s
  | .hostLinkUp port => Sys2Proof.Machine.execHostLinkUp port s
  | .sclkRefReturn => Sys2Proof.Machine.execSclkRefReturn s
  | .referencePllLock => Sys2Proof.Machine.execReferencePllLock s
  | .syncReturn => Sys2Proof.Machine.execSyncReturn s
  | .dieTemperatureNormal t => Sys2Proof.Machine.execDieTemperatureNormal t s
  | .ffShortCircuitEnd n => Sys2Proof.Machine.execFfShortCircuitEnd n s
  | .ffComplianceEnd n => Sys2Proof.Machine.execFfComplianceEnd n s
  | .tripNHigh t => Sys2Proof.Machine.execTripNHigh t s
  | .brokenWireCleared src mem => Sys2Proof.Machine.execBrokenWireCleared src mem s
  | .domainSupplyValid rail => Sys2Proof.Machine.execDomainSupplyValid rail s
  | .domainSupplyLost rail => Sys2Proof.Machine.execDomainSupplyLost rail s
  | .processorRestartDone => Sys2Proof.Machine.execProcessorRestartDone s
  | .dmaStopDrainEnd c => Sys2Proof.Machine.execDmaStopDrainEnd c s
  | .holdoverExtrapolation a => Sys2Proof.Machine.execHoldoverExtrapolation a s
  | .strobePulseBegin n k => Sys2Proof.Machine.execStrobePulseBegin n k s
  | .strobePulseEnd n k => Sys2Proof.Machine.execStrobePulseEnd n k s

end Sys2Proof.Machine
end

