-- ==== Sys2Proof/Safety.lean ====
section
/-! DEFINITION. What a sound state of the device is, in the terms the statements use. -/

namespace Sys2Proof.Machine

/-- The canonical form of a byte memory whose unlisted bytes read as `d`: addresses strictly rising, no entry equal
to what an unlisted address reads. -/
def Memory.wf (d : Nat → Byte) (m : List Host.Cell) : Bool := spWf id d m

/-- The canonical form of the register file: keys strictly rising in the address map's order, each within it, and no entry
equal to what an unlisted register reads. -/
def Regs.wf (m : List (RKey × Word)) : Bool := spWf RKey.code rstVal m && m.all fun e => decide (e.1.i < 2 ^ 24) && decide (e.1.off < 2 ^ 24)

/-- Between steps the collector has taken every report (R406, R410), and every lease is held by a partition that may
hold it (R95, R97). -/
def State.Sound (s : State) : Prop := s.rep = [] ∧ ∀ x ∈ s.leases, leaseUser s x.holder x.id = true

/-- Nothing is left that the end of a step would settle (R78, R85, R97, R201, R406): no report, no calibration run, no
lease that its holder may not hold, no port draining after a link loss, no halt that waits for nothing any more. -/
def State.Settled (s : State) : Prop :=
  s.rep = [] ∧ (∀ o ∈ s.ops, ∀ c, o.kind ≠ .calRun c) ∧ (∀ x ∈ s.leases, leaseUser s x.holder x.id = true) ∧
    (∀ k < 8, (link s k).drain = false) ∧ (s.haltReq = true → s.insWait ≠ [])

/-- The right-hand terms of a ledger class's identity, in the order of R105. -/
def ledRight : Nat → List Nat
  | 1 => [1, 2, 3, 4, 5]
  | 2 => [1, 2, 3]
  | 3 => [1, 2, 3, 4, 5, 6]
  | 7 => [1, 2, 3, 4]
  | _ => [1, 2]
/-- An instance of a ledger class balances (R103, R105): its first term is the sum of the others, in 64 bits. -/
abbrev balanced (c i : Nat) (s : State) : Prop :=
  ledGet s c i 0 % 2 ^ 64 = ((ledRight c).map (ledGet s c i)).sum % 2 ^ 64

end Sys2Proof.Machine
end

