-- ==== Sys2Proof/Certificates/Slice0/Obligations.lean ====
section
/-! DEFINITION. The statements for the provers, and the words they are written in. -/

namespace Sys2Proof.Machine

/-! ## The words of the statements -/

/-- Payload word `i` of a packet; 0 past its end. -/
def word (p : Pkt) (i : Nat) : Word := p.pay.getD i 0
/-- The processor takes this packet now, on a bound queue, with a TAG that is free (R60, R69–R72). -/
def runs (opc : Nat) (p : Pkt) (s : State) : Bool :=
  offered opc p s && bound s p.q.val && (opOf s p.q.val p.tag.toNat).isNone
/-- The partition of a packet's queue (R53). -/
def sender (p : Pkt) (s : State) : Nat := partOf s p.q.val
/-- The state with the packet taken from the ring (R60). -/
def taken (p : Pkt) (s : State) : State := take p.q.val p.pay.length s
/-- The first reply of a packet is written, and the step ends (R66, R72). -/
def replied (p : Pkt) (st : Nat) (pay : List Word) (s : State) : State :=
  finish (firstReply p.q.val st p.tag.toNat (p.flags.getLsbD 0) pay s)
/-- A long operation of a packet becomes outstanding (R72). One that starts while its link drains is lost with the link
(R78). -/
def started (p : Pkt) (part : Nat) (k : OpKind) (s : State) : State :=
  { s with ops := s.ops ++ [⟨p.q.val, p.tag.toNat, p.flags.getLsbD 0, part, k, none, p.q.val != 64 && (vget s.links (p.q.val / 8)).drain⟩] }
/-- The report of a packet's refusal DENIED under the source of its port (R93, R404, R409). -/
def deniedReport (opc acc wrd : Nat) (addr : Word) (p : Pkt) (s : State) : Report :=
  ⟨deniedSrc (portOf p.q.val), none, sender p s, portOf p.q.val, 0, acc, addr,
   BitVec.ofNat 32 (opc + 256 * wrd + 16777216 * p.tag.toNat), false, false, none⟩
/-- The one word that a register row writes. -/
def oneWord (k : RKey) (v : Word) (m : BitVec 4) : WOp := ⟨k.addr, v, byteMask m, 2⟩
/-- A register write by a queue passes every check of R75 and R81: the processor serves, the address and value are
sound, the partition may write it, nothing holds it, no lock closes it. -/
def writable (q : Nat) (k : RKey) (v : Word) (m : BitVec 4) (s : State) : Bool :=
  serving s && bound s q && (checkParams [oneWord k v m] s).isNone && (deniedAt (partOf s q) [oneWord k v m] s).isNone &&
    !heldAt s (partOf s q) (oneWord k v m) && (lockAt s (oneWord k v m)).isNone && (lateAt (partOf s q) [oneWord k v m] s).isNone
/-- The words of a REG_WRITE packet (R81). -/
def writeWords (p : Pkt) : List WOp :=
  (p.pay.drop 2).mapIdx fun i v => ⟨(word p 0).toNat + 4 * i, v, byteMask (BitVec.ofNat 4 (fld (word p 1) 3 0)), 2 + i⟩
/-- A register write by a partition fails one of its checks (R75, R81). -/
def writeRefusal (part : Nat) (os : List WOp) (s : State) : Bool :=
  (checkParams os s).isSome || (deniedAt part os s).isSome || (os.find? (heldAt s part)).isSome ||
    (os.find? fun o => (lockAt s o).isSome).isSome || (lateAt part os s).isSome
/-- The word that REG_MODIFY writes (R79). -/
def modifyWord (p : Pkt) (s : State) : WOp :=
  ⟨(word p 0).toNat, ((readWord ⟨sender p s, p.q.val, 1⟩ (word p 0).toNat (taken p s)).1 &&& ~~~word p 1) ||| word p 2,
   0xFFFFFFFF, 2⟩
/-- The status of a register row is given, and the step ends. -/
def wrote (q : Nat) (s : State) : State := finish (emit (.status q 0) s)
/-- The completion of a long operation can be written now, or is to be dropped (R64, R72, R78, R85). -/
def canComplete (o : LongOp) (n : Nat) (s : State) : Bool :=
  o.lost || !canWrite s o.q || (decide (n + 1 ≤ rplRoom s o.q) && !s.halted && !s.restarting)
/-- A long operation's completion is written, or lost with its link and counted, and it is outstanding no longer
(R72, R78). -/
def completed (o : LongOp) (st : Nat) (pay : List Word) (s : State) : State :=
  dropOp o.q o.tag (if o.lost then incR (qk o.q 0x30) s else putReply o.q st o.tag true o.notify pay s)

/-- The glitch filter may accept a change of either input of an encoder port now (R118). -/
def unfiltered (e : Nat) (s : State) : Bool := filterPassed s e 1 (encP s e).chgA && filterPassed s e 1 (encP s e).chgB
/-- The port has taken the sample, and the time at which an input changed (R118, R119). -/
def sampled (e : Nat) (a b : Bool) (s : State) : State :=
  modEnc e (fun y => { y with a := a, b := b, chgA := if (encP s e).a != a then some s.tb else y.chgA,
                              chgB := if (encP s e).b != b then some s.tb else y.chgB }) s
/-- No pin that carries encoder `e`'s inputs belongs to another partition than the port (R396). -/
def noEdgePins (e : Nat) (s : State) : Bool :=
  (List.range 256).all fun p => !(p % 32 == e && pinCarries s p 4 && ownerOf s 0x0A p != ownerOf s 0x05 e)
/-- The frames heard within the time in which their sequence numbers stand for them (R149). -/
def remembered (s : State) : List (Nat × Nat × Nat × Nat) := s.sw.seen.filter fun x => decide (s.tb < x.2.2.2 + seqLife x.1)
/-- A good frame that is no awaited resend, on a segment that has not failed, of which no copy was seen (R149, R155). In
OFF a device receives only the TRAIN frames of the training that it runs itself (R149, R152). -/
def fresh (typ : Nat) (f : SwFrame) (s : State) : Bool :=
  (swState s != 0 || (typ == 7 && training s)) && f.crcOk && !segFailed s f.seg && !f.resend &&
    (typ == 6 || !(remembered s).any fun x => x.1 == typ && x.2.1 == f.origin.val && x.2.2.1 == f.seq.toNat)
/-- The frame has gone on round the ring and is remembered (R149). -/
def heard (typ : Nat) (f : SwFrame) (s : State) : State :=
  modSw (fun w => { w with seen := remembered s ++ [(typ, f.origin.val, f.seq.toNat, s.tb)] })
    (if typ = 6 then s else forward typ f s)
/-- A follower's armed generator takes this token from the ring (R140, R153). -/
def followsToken (f : SwFrame) (s : State) : Bool :=
  !rb s (swk 0) 3 && rb s (gk (payNat f 0 1 % 16) 0) 4 && genArmed s (payNat f 0 1 % 16) && (swState s == 2 || swState s == 6)
/-- A token's instant is past as it arrives (R154). -/
def lateToken (f : SwFrame) (s : State) : Bool := decide (nearTime s (payNat f 7 4) < s.tb)
/-- The master has heard a follower, whose fault summary has entered the receive bridge (R39, R159). -/
def statusHeard (f : SwFrame) (s : State) : State :=
  setB (swk 0x24) f.origin.val false (modSw (fun w => { w with status := putAssoc w.status f.origin.val s.tb })
    (modSw (fun w => { w with rx := w.rx + 1 }) s))
/-- A NAK of a frame that failed its CRC waits to go out on the segment it came by, and the resend is awaited for 2 µs
(R155). -/
def nakMade (typ : Nat) (f : SwFrame) (s : State) : State :=
  let q := nget 0 s.sw.seqs 6
  modSw (fun w => { w with txNak := w.txNak ++ [(f.seg, frameBytes 6 (swNode s) q [BitVec.ofNat 8 f.origin.val, BitVec.ofNat 8 typ, f.seq])] })
    (modSw (fun w => { w with nak := w.nak ++ [(f.seg, typ + 16 * f.origin.val, f.seq.toNat, s.tb + 2000)],
                              seqs := nput 0 w.seqs 6 ((q + 1) % 256), goodE := if f.seg then 0 else w.goodE,
                              goodW := if f.seg then w.goodW else 0 }) s)
/-- A follower is in HOLDOVER: counted, with its cause (R157). What fell back to local ports stays so or not. -/
def inHoldover (fallen : Bool) (s : State) : State :=
  causeOn 0x0B2 none 0x23 0 0 (modSw (fun w => { w with hold0 := some s.tb, fall := fallen && w.fall, rsAxes := [] })
    (incR (swk 0x38) (setB (swk 0x20) 4 true (setF (swk 0x20) 2 0 3 s))))
/-- No good TIME frame has come for 2 µs (R157). -/
def timeLost (s : State) : Bool := match s.sw.lastTime with | some t => decide (t + 2000 ≤ s.tb) | none => true
/-- Holdover is over: local ports count (R158). -/
def holdoverOver (s : State) : State := modSw (fun w => { w with hold0 := none, fall := true }) s
/-- A follower axis has a local port bound (R158). -/
def anyLocal (s : State) : Bool :=
  ((List.range 8).filter (axSwarm s)).any fun a => (priOf s a).isSome || (bkpOf s a).isSome
/-- A ring token that the follower takes has been delivered at its instant (R153). -/
def ringDelivered (x : Nat × Token) (s : State) : State :=
  toTiles x.2 (trigPulse x.2.gen (modGen x.2.gen (fun g => { g with count := g.count + 1, lastDel := some s.tb, lastCount := some x.2.count })
    (modSw (fun w => { w with tokQ := w.tokQ.erase x }) s)))
/-- A token is above the last count that its generator delivered (R154). -/
def aboveLast (x : Nat × Token) (s : State) : Bool :=
  match (gen s x.2.gen).lastCount with | some l => decide (l < x.2.count) | none => true

/-- What a CAL_RUN packet asks for, from its first phase (R200, R201). -/
def calAsked (p : Pkt) (s : State) : CalSt :=
  let k : CalSt := ⟨mask96 (word p 1) (word p 2) (word p 3), bit (word p 0) 4, bit (word p 0) 5, bit (word p 0) 6, 2 ^ fld (word p 0) 3 0,
    fld (word p 0) 15 8, some (fld (word p 0) 29 16), s.tb + 1000000 * fld (word p 7) 15 0, 0, mask96 (word p 4) (word p 5) (word p 6)⟩
  { k with stage := calFirst k }
/-- The line number that a packet names in words `i` and `i` + 1. -/
def lineNo (p : Pkt) (i : Nat) : Nat := (word p i).toNat + 2 ^ 32 * fld (word p (i + 1)) 15 0
/-- Every one of the channels belongs to the partition, and nothing holds it (R73, R86). -/
def mayUse (part : Nat) (l : List Nat) (s : State) : Bool := l.all fun n => ownerOf s 0x02 n == part && !busy s 0x02 n

/-- The state with the words of a CORR_LOAD in the shadow bank of channel `n` (R208). -/
def loaded (n src first count : Nat) (s : State) : State :=
  corrFill n (1 - actBank s n) first ((List.range count).map fun i => memW s (src + 4 * i)) s
/-- The shadow entries of a channel below its window. -/
def shadow (n : Nat) (s : State) : List Word := bankEnts s n (1 - actBank s n)
/-- The state as a CORR_LOAD that passes its checks leaves the channel (R208). -/
def loadPassed (n : Nat) (s : State) : State :=
  setF (ck n 0) 15 8 0 (setF (ck n 0) 6 4 0 (setCounts n (countBad (shadow n s)) (countMoved s n (bankEnts s n (actBank s n)) (shadow n s))
    ((shadow n s).findIdx? entDef) s))

/-- The FLAGS of a snapshot of partition `q` (R114). -/
def snapFlags (q : Nat) (s : State) : Word :=
  BitVec.ofNat 32 ((s.injFlag.getLsbD q || injActive s).toNat + 2 * (prior s).toNat + 4 * (s.slowFlag.getLsbD q || slowNow s).toNat)
/-- The number of the snapshot that partition `q` takes next. -/
def snapNext (q : Nat) (s : State) : Nat := (nget 0 s.snapSeq q + 1) % 2 ^ 32
/-- The state with a new snapshot of partition `q` in place of its last (R113, R114). -/
def snapped (q : Nat) (s : State) : State :=
  { s with snaps := ⟨q, snapNext q s, s.tb, snapFlags q s, s.led, s.owner⟩ :: s.snaps.filter (fun y => y.part != q), snapSeq := nput 0 s.snapSeq q (snapNext q s), injFlag := setPart s.injFlag q (injActive s), slowFlag := setPart s.slowFlag q (slowNow s) }
/-- The command of a packet waits for an event to reply to it (R74). -/
def waits (p : Pkt) (part : Nat) (s : State) : State :=
  { s with insWait := s.insWait ++ [⟨p.q.val, p.tag.toNat, p.flags.getLsbD 0, part⟩] }

/-- The words that an NVM_WRITE stores: in the Firefly area only entries of the caller's ports change (R432). -/
def nvmWords (p : Pkt) (part : Nat) (s : State) : List Word :=
  if nvmArea (fld (word p 0) 17 0 / 256) = some 2 then
    (p.pay.drop 2).mapIdx fun i w => ffMerge s part (fld (word p 0) 17 0 + 4 * i) w
  else p.pay.drop 2
/-- The state as NVM_WRITE ends, before the page is programmed: not busy, and a transient failure counted or not (R432). -/
def nvmIdle (s : State) : State :=
  let u := takeFree (setB (nvk 0) 0 false s)
  if u.1.getLsbD 0 then incR (nvk 0xC) u.2 else u.2
/-- The queue of a port with the entries of an FF_LOAD appended, after a flush where one is asked (R325). -/
def ffFilled (n : Nat) (es : List Nat) (flush : Bool) (s : State) : State :=
  ffPeak n (modFf n (fun f => { f with q := f.q ++ es }) (if flush then ffFlush n s else s))
/-- The error budget of a ring in grid steps, as register BUDGET holds it (R152). -/
def trainBudget (hops : List (BitVec 16 × BitVec 16)) (s : State) : Nat :=
  (5 * longWay (swNode s) (swN s) hops + 4 * rf s (swk 8) 31 16 + 4 * max 1 (rf s (swk 4) 15 0) - 1) /
    (4 * max 1 (rf s (swk 4) 15 0)) * max 1 (rf s (swk 4) 15 0)
/-- The hop registers hold the measured hops (R152). -/
def hopsStored (hops : List (BitVec 16 × BitVec 16)) (s : State) : State :=
  forEach (hops.zipIdx) (fun h s => wr (swk (0x100 + 4 * h.2)) (BitVec.ofNat 32 (h.1.1.toNat + 65536 * h.1.2.toNat)) s) s
/-- The master is LINKED at its new time base and has just heard every follower (R152, R159). -/
def ringUp (budget newTb : Nat) (n : Nat) (s : State) : State :=
  let s := stepTb newTb (setF (swk 0x20) 2 0 2 (setF (swk 8) 15 0 (budget % 65536) s))
  modSw (fun w => { w with status := ((List.range n).filter (· != swNode s)).map (fun i => (i, s.tb)) }) s
/-- STATE and cause of a DMA channel, as DMA_CTL answers them (R393). -/
def dmaAnswer (c : Nat) (s : State) : List Word := [BitVec.ofNat 32 (dmaState s c + 256 * rf s (dmk c 0) 11 8)]

/-- A line-end marker has passed channel `n`: EVCNT holds the records of the line, the channel starts the next line's,
and the marker stands in the collector after the records (R259, R260). -/
def markerPassed (n : Nat) (t : LineTag) (q : List QItem) (s : State) : State :=
  let s := setF (thk n 0x24) 31 16 (min 65535 (chan s n).recs) s
  let s := modChan n (fun c => { c with evq := q, burst := none, recs := 0 }) s
  setColl (n / 12) (coll s (n / 12) ++ [(n, .mark t)]) s

/-- The conversions of sequenced slot `k` enter their inputs' accumulators and are counted (R340, R346, R112). -/
def slotTaken (codes : List Int) (k : Nat) (s : State) : State :=
  forEach (List.range 8) (fun t u => let l := nget 0 u.sup.map (32 * t + k)
    if l = 0 || supOdd u (supIdx t (l - 1)) then u else accTake (supIdx t (l - 1)) (supSeen u codes t (l - 1)) (supDone t u)) s

/-- The eight words of the descriptor at PTR: `host` holds the bytes of a host read (R377, R379). -/
def descWords (c : Nat) (host : HostBytes) (s : State) : List Word :=
  bytesWords 8 (if (dch s c).sp then host else (List.range 32).map fun i => intByte s (dmaPtr s c + i))
/-- The access to the descriptor at PTR is permitted to the channel's owner (R375, R376). -/
def mayFetch (c : Nat) (s : State) : Bool :=
  if (dch s c).sp then hostMay s (dmaOwner s c) (dmaPort s c) else intMay s (dmaOwner s c) false (dmaPtr s c) 32
/-- A channel that is running and due to read the descriptor at PTR (R379, R387). -/
def fetches (c : Nat) (s : State) : Bool :=
  dmaState s c == 2 && (dch s c).fetch && (dch s c).desc.isNone && (dch s c).stop.isNone && !dmaPaused s c
/-- The reads of host memory that bring the descriptor at PTR have been made (R374, R377). -/
def descAsked (c : Nat) (s : State) : State :=
  if (dch s c).sp then hostReads (dmaPort s c) 32 (dmaPtr s c) 32 s else s
/-- The channel holds a copy of a descriptor it owns: counted as begun, and its progress counters at zero (R379, R387). -/
def descHeld (c : Nat) (d : List Word) (s : State) : State :=
  let u := ledAdd 5 c 2 1 (ledAdd 5 c 0 1 (descAsked c s))
  let u := modDma c (fun _ => { dmaEmpty with desc := some d, at_ := dmaPtr s c, atHost := (dch s c).sp, sp := (dch s c).sp, done := bit (dW d 0) 1, rdR := [(dmaSpace s c (dch s c).sp, dmaPtr s c, 32)] }) u
  wr (dmk c 0x20) 0 (wr (dmk c 0x1C) 0 (wr (dmk c 0x18) 0 u))
/-- The channel's descriptor, all of whose data has moved, may be returned in the space it was read from (R376, R381). -/
def mayReturn (c : Nat) (s : State) : Bool :=
  if (dch s c).atHost then hostMay s (dmaOwner s c) (dmaPort s c) else intMay s (dmaOwner s c) true (dch s c).at_ 4
/-- The descriptor that a channel holds reads host memory, by its source, table or list (R377, R389). -/
def readsHost (c : Nat) (s : State) : Bool := match (dch s c).desc with | some d => dReadsHost d | none => false
/-- A pause has drained and the channel is off its mover: it is PAUSED, or runs on where PAUSE was cleared (R388). -/
def pauseEnded (c : Nat) (s : State) : State := schedule (if dmaPaused s c then setDmaState c 4 s else dmaRun c s)
/-- The number of bytes of a quantum whose reads had been issued when a pause began, in whole source units (R388). Free. -/
def issuedBytes (d : List Word) (s : State) : Nat := (takeFree s).1.toNat % 4097 / dSw d * dSw d
/-- W0 goes back with OWN = 0 to where the descriptor was read (R381). -/
def ownBack (c : Nat) (d : List Word) (s : State) : State :=
  if (dch s c).atHost then emit (.hostWr (dmaPort s c) (dch s c).at_ (wordBytes (setBit (dW d 0) 0 false))) s
  else match locate (dch s c).at_ with
    | .mem o => putMemW o [setBit (dW d 0) 0 false] s
    | _ => s

/-- The completions of a port's outstanding operations are lost with its link (R78). -/
def opsLost (k : Nat) (s : State) : State :=
  { s with ops := s.ops.map fun o => if o.q / 8 == k && o.q != 64 then { o with lost := true } else o }

/-- The oldest token of a tile has left its queue: the token tap, the nets and the load strobe have seen it, and the
due MOLTs of its lines have switched (R142, R316, R326, R361). -/
def moltsSwitched (t : Nat) (k : Token) (ks : List Token) (s : State) : State :=
  forEach (tilePorts t) (fun h u => headMolt h k u)
    (loadStrobe t k.gen (netToken t k (tapToken t k (modTile t (fun x => { x with toks := ks }) s))))
/-- Each head of the tile that a channel serves starts its line, in ascending head (R178, R288). -/
def headsStarted (t : Nat) (k : Token) (left : List Nat) (s : State) : State × List Nat :=
  (forEach ((tilePorts t).filterMap fun h => (chanOf s h).map fun n => (h, n)) (fun hn u => headStart hn.1 hn.2 k (left.getD (hn.2 % 12) 0) u) s,
   ((tilePorts t).filter fun n => (chan s n).line.isNone).filter fun n => (chan (forEach ((tilePorts t).filterMap fun h => (chanOf s h).map fun n => (h, n))
     (fun hn u => headStart hn.1 hn.2 k (left.getD (hn.2 % 12) 0) u) s) n).line.isSome)
/-- The fast tap takes the lines that began, and those of no pixels end (R177, R361). -/
def tapsOffered (x : State × List Nat) : State := forEach x.2 lineEmpty (forEach x.2 lineTap x.1)

/-- RESET_N has stopped the device in order (R423): long operations are cancelled, generators and channels disarmed, the
command being applied completed, the waiting packets of every queue discarded, the conversions stopped, the inserts of the
action queue lost, and the reports made so far collected. -/
def stoppedByReset (s : State) : State :=
  let s := forEach (List.range 96) disarmChan (forEach (List.range 16) disarmGen { s with ops := [] })
  let s := finishCommand (s.insBuf.length + 40) s
  collect (paqLose (fun _ => true) (supStop (forEach (List.range 65) discardQueue s)))
/-- The lines in progress, which RSTCUT counts as the device resets (R423). -/
def linesCut (s : State) : Nat := (s.chans.toList.filter fun c => c.line.isSome).length
/-- Registers that RESET_N keeps beside RSTAT and RSTCUT (R51, R104, R422): the port roles, the counters of the queues
(ACCEPTED, CNT_DISC, CNT_ABORT, RDISC), the PCI Express state and counters of BAR0, the NVM's page registers, and the
counters kept since power-on reset: SWAPS, FOVCNT and the discard counters of the tiles. -/
def keptByReset (k : RKey) : Bool :=
  k.blk == .pmode || (k.blk == .nvm && k.off != 0 && k.off != 0xC && k.off != 0x10) ||
    (k.blk == .qcb && decide (0x24 ≤ k.off) && decide (k.off ≤ 0x30)) || (k.blk == .bport && (k.off == 0xC || decide (0x9000 ≤ k.off))) ||
    (k.blk == .cor && k.off == 0x60) || (k.blk == .ax && k.off == 0x2C) || (k.blk == .tile && decide (0x40 ≤ k.off) && decide (k.off < 0x70))

/-- A page whose erase or program a power fail abandons (R427). -/
def writesLost (s : State) : State :=
  forEach s.ops (fun o u => match o.kind with
    | .nvmWrite a _ => pageLost (a / 256) u
    | _ => u) s
/-- The NVM register's flags as step 1 reads them: the areas whose CRC holds, the lock bits, the key (R431, R433). -/
def nvmFlagged (s : State) : State :=
  setB (nvk 0) 4 (bit (lockWord s) 3) (setF (nvk 0) 10 8 (fld (lockWord s) 2 0)
    (setB (nvk 0) 3 (areaOk s 0x10000 65532) (setB (nvk 0) 2 (areaOk s 0x4100 192) (setB (nvk 0) 1 (bmOk s) s))))
/-- What a valid boot map says beside the roles: the debug and fabric restrictions, the entries to load, the tile clocks (R172, R370, R431). -/
def bootMapped (ok : Bool) (s : State) : State :=
  bootClocks ok { s with dbgDis := ok && bit (bmW s 1) 24, fabAuth := ok && bit (bmW s 1) 25, bootFabs := (if ok then (List.range 4).filter fun e => bit (bmW s (11 + 2 * e)) 31 else []) }

/-- The last-gasp slot is prepared, where none is yet (R428). -/
def slotReady (s : State) : State := if s.gaspSlot then s else gaspPrepare s

/-- A speed ratio is kept, with the lowest since MIN was read; one below 1.000 marks the next snapshot of every partition
(R43, R44, R114). -/
def speedStored (t r : Nat) (s : State) : State :=
  setF (tk t 0x10) 31 16 (min (rf s (tk t 0x10) 31 16) r) (setF (tk t 0x10) 15 0 r
    { modTile t (fun x => { x with measured := true }) s with slowFlag := if r < 0x1000 then BitVec.allOnes 32 else s.slowFlag })

/-- The events of the board, which act whatever the state of the device: supplies, resets, the power fail, links, TRIP_N,
temperature, wires, SCLK_REF, the reference PLL and SYNC (R404, R419, R423, R425, R441, R444). -/
def ofTheBoard : Instr → Bool
  | .brokenWire .. | .brokenWireCleared .. | .dieOverTemperature .. | .dieTemperatureNormal .. | .sclkRefLost | .sclkRefReturn => true
  | .referencePllUnlock | .referencePllLock | .syncMissing | .syncReturn | .powerFail .. | .powerOnResetEntry | .powerOnResetRelease => true
  | .resetNAssert | .resetNRelease | .domainSupplyValid .. | .domainSupplyLost .. | .hostLinkDown .. | .hostLinkUp .. | .perstRelease .. => true
  | .tripNLow .. | .tripNHigh .. => true
  | _ => false

/-- A register that a write stores to and does nothing else (the other registers' actions stand in their own statements). -/
def noAction (k : RKey) : Bool :=
  (fieldsOf k.blk k.off).isSome && !([Blk.pair, .bank, .tbp, .fil, .thr, .pin].contains k.blk) && !(k.blk == .fab && decide (0x10 ≤ k.off) && decide (k.off < 0x30)) &&
    !([(Blk.dev, 0x100), (.enc, 0), (.enc, 4), (.ax, 0), (.ax, 4), (.ax, 8), (.ax, 0xC), (.ax, 0x24), (.dma, 0), (.zone, 0), (.rring, 0), (.irq, 0), (.irq, 4),
      (.supv, 0), (.supIn, 4), (.tile, 0), (.tile, 0x14), (.tile, 0x308), (.ff, 0), (.cmpw, 0), (.cmpw, 4), (.fab, 0xC)].contains (k.blk, k.off))

end Sys2Proof.Machine

open Sys2Proof Sys2Proof.Machine

/-! ## The statements -/

/-- NOP, IDENT and TIME reply and change nothing else -/
def Obligations.NopReplies : Prop :=
  (∀ (p : Pkt) (s : State),
     runs 0x00 p s = true →
     p.pay.length = 0 →
     exec (.nop p) s = .next (replied p 0 [] (taken p s))) ∧
  (∀ (p : Pkt) (s : State),
     runs 0x01 p s = true →
     p.pay.length = 0 →
     exec (.ident p) s = .next (replied p 0
       [BitVec.ofNat 32 (0x7196 + 0x600000 + 16777216 * gradeCode Config.grade),
        BitVec.ofNat 32 (Config.stepping.toNat + 65536 * Config.romVer.toNat),
        BitVec.ofNat 32 (patchVer (taken p s) + 65536 * Config.vendor.toNat),
        BitVec.ofNat 32 (p.q.val + 256 * sender p s + 65536 * portOf p.q.val)] (taken p s))) ∧
  (∀ (p : Pkt) (s : State),
     runs 0x02 p s = true →
     p.pay.length = 0 →
     exec (.time p) s = .next (replied p 0 [lo32 s.tb, hi32 s.tb] (taken p s)))

/-- REG_READ, REG_WRITE, REG_MODIFY and REG_PEEK act as one access, or are DENIED and change nothing -/
def Obligations.RegisterCommandsAct : Prop :=
  (∀ (p : Pkt) (s : State),
     runs 0x10 p s = true →
     p.pay.length = 2 →
     1 ≤ fld (word p 1) 7 0 →
     fld (word p 1) 7 0 ≤ 254 →
     ((List.range (fld (word p 1) 7 0)).map fun i => (word p 0).toNat + 4 * i).any badAddr = false →
     ((List.range (fld (word p 1) 7 0)).map fun i => (word p 0).toNat + 4 * i).find? (fun x => !mayRead (taken p s) ⟨sender p s, p.q.val, 0⟩ (locate x)) = none →
     exec (.regRead p) s = .next (replied p 0 (readWords ⟨sender p s, p.q.val, 0⟩ (fld (word p 1) 7 0) (word p 0).toNat (taken p s)).1
       (readWords ⟨sender p s, p.q.val, 0⟩ (fld (word p 1) 7 0) (word p 0).toNat (taken p s)).2)) ∧
  (∀ (p : Pkt) (s : State),
     runs 0x13 p s = true →
     p.pay.length = 2 →
     1 ≤ fld (word p 1) 7 0 →
     fld (word p 1) 7 0 ≤ 254 →
     ((List.range (fld (word p 1) 7 0)).map fun i => (word p 0).toNat + 4 * i).any badAddr = false →
     sender p s = 0 →
     exec (.regPeek p) s = .next (replied p 0 (readWords ⟨0, p.q.val, 1⟩ (fld (word p 1) 7 0) (word p 0).toNat (taken p s)).1
       (readWords ⟨0, p.q.val, 1⟩ (fld (word p 1) 7 0) (word p 0).toNat (taken p s)).2)) ∧
  (∀ (p : Pkt) (s : State),
     runs 0x11 p s = true →
     3 ≤ p.pay.length →
     writeRefusal (sender p s) (writeWords p) (taken p s) = false →
     exec (.regWrite p) s = .next (replied p 0 [] ((writeWords p).foldl (fun t o => applyWord (sender p s) o t) (taken p s)))) ∧
  (∀ (p : Pkt) (s : State),
     runs 0x12 p s = true →
     p.pay.length = 3 →
     badAddr (word p 0).toNat = false →
     writeRefusal (sender p s) [modifyWord p s] (readWord ⟨sender p s, p.q.val, 1⟩ (word p 0).toNat (taken p s)).2 = false →
     exec (.regModify p) s = .next (replied p 0 [(readWord ⟨sender p s, p.q.val, 1⟩ (word p 0).toNat (taken p s)).1]
       (applyWord (sender p s) (modifyWord p s) (readWord ⟨sender p s, p.q.val, 1⟩ (word p 0).toNat (taken p s)).2))) ∧
  (∀ (p : Pkt) (s : State) (x : Nat),
     runs 0x10 p s = true →
     p.pay.length = 2 →
     1 ≤ fld (word p 1) 7 0 →
     fld (word p 1) 7 0 ≤ 254 →
     ((List.range (fld (word p 1) 7 0)).map fun i => (word p 0).toNat + 4 * i).any badAddr = false →
     ((List.range (fld (word p 1) 7 0)).map fun i => (word p 0).toNat + 4 * i).find? (fun x => !mayRead (taken p s) ⟨sender p s, p.q.val, 0⟩ (locate x)) = some x →
     exec (.regRead p) s = .next (replied p 3 [0] (report (deniedReport 0x10 0 0 (BitVec.ofNat 32 x) p s) (taken p s)))) ∧
  (∀ (p : Pkt) (s : State),
     runs 0x13 p s = true →
     p.pay.length = 2 →
     1 ≤ fld (word p 1) 7 0 →
     fld (word p 1) 7 0 ≤ 254 →
     ((List.range (fld (word p 1) 7 0)).map fun i => (word p 0).toNat + 4 * i).any badAddr = false →
     sender p s ≠ 0 →
     exec (.regPeek p) s = .next (replied p 3 [0] (report (deniedReport 0x13 0 0 (word p 0) p s) (taken p s)))) ∧
  (∀ (p : Pkt) (s : State) (o : WOp),
     runs 0x11 p s = true →
     3 ≤ p.pay.length →
     checkParams (writeWords p) (taken p s) = none →
     deniedAt (sender p s) (writeWords p) (taken p s) = some o →
     exec (.regWrite p) s = .next (replied p 3 [0] (report (deniedReport 0x11 1 0 (BitVec.ofNat 32 o.a) p s) (taken p s)))) ∧
  (∀ (p : Pkt) (s : State) (o : WOp),
     runs 0x12 p s = true →
     p.pay.length = 3 →
     badAddr (word p 0).toNat = false →
     checkParams [modifyWord p s] (readWord ⟨sender p s, p.q.val, 1⟩ (word p 0).toNat (taken p s)).2 = none →
     deniedAt (sender p s) [modifyWord p s] (readWord ⟨sender p s, p.q.val, 1⟩ (word p 0).toNat (taken p s)).2 = some o →
     exec (.regModify p) s = .next (replied p 3 [0] (report (deniedReport 0x12 1 0 (BitVec.ofNat 32 o.a) p s) (taken p s))))

/-- Reserved opcodes, unbound queues and cut packets are answered and do nothing else -/
def Obligations.PacketsThatMakeNoCommand : Prop :=
  (∀ (opc : BitVec 8) (p : Pkt) (s : State),
     opcodes.contains opc.toNat = false →
     offered opc.toNat p s = true →
     bound s p.q.val = true →
     exec (.reservedOpcode opc p) s = .next (replied p 0x04 [0xFF] (taken p s))) ∧
  (∀ (opc : BitVec 8) (p : Pkt) (s : State),
     offered opc.toNat p s = true →
     bound s p.q.val = false →
     exec (.unboundQueueCommand opc p) s = .next (replied p 0x03 [0x0FFF] (taken p s))) ∧
  (∀ (q : Fin 65) (s : State),
     turn s = some q.val →
     headWhole s q.val = false →
     bound s q.val = true →
     exec (.incompletePacket q) s = .next (finish (firstReply q.val 0x05
       (fld (ringW s q.val (rf s (qk q.val 0x10) 9 0)) 31 24) (bit (ringW s q.val (rf s (qk q.val 0x10) 9 0)) 8) [0xFF]
       (take q.val (waitingWords s q.val - 1) s))))

/-- LOCK takes or renews a lease; UNLOCK ends it -/
def Obligations.LeasesAreTaken : Prop :=
  (∀ (p : Pkt) (s : State),
     runs 0x22 p s = true →
     p.pay.length = 2 →
     leaseValid (fld (word p 0) 6 0) = true →
     1 ≤ fld (word p 1) 9 0 →
     fld (word p 1) 9 0 ≤ 1000 →
     leaseUser (taken p s) (sender p s) (fld (word p 0) 6 0) = true →
     (match leaseOf (taken p s) (fld (word p 0) 6 0) with | some x => x.holder == sender p s | none => true) = true →
     exec (.lock p) s = .next (replied p 0 [BitVec.ofNat 32 (fld (word p 1) 9 0)] { taken p s with leases := (taken p s).leases.filter (fun x => x.id != fld (word p 0) 6 0) ++
         [⟨fld (word p 0) 6 0, sender p s, 1000000 * fld (word p 1) 9 0⟩] })) ∧
  (∀ (p : Pkt) (s : State),
     runs 0x23 p s = true →
     p.pay.length = 1 →
     bit (word p 0) 31 = false →
     leaseValid (fld (word p 0) 6 0) = true →
     holds (taken p s) (fld (word p 0) 6 0) (sender p s) = true →
     exec (.unlock p) s = .next (replied p 0 [] { taken p s with leases := (taken p s).leases.filter (fun x => x.id != fld (word p 0) 6 0) })) ∧
  (∀ (p : Pkt) (s : State),
     runs 0x23 p s = true →
     p.pay.length = 1 →
     bit (word p 0) 31 = true →
     leaseValid (fld (word p 0) 6 0) = true →
     sender p s = 0 →
     exec (.unlockForce p) s = .next (replied p 0 [] { taken p s with leases := (taken p s).leases.filter (fun x => x.id != fld (word p 0) 6 0) }))

/-- QUOTA stores a quota of a partition (KIND 0 and 1 read VALUE on bits 17:0, the model's reading of a field table that gives 16:0: log entry 34) -/
def Obligations.QuotasAreSet : Prop :=
  (∀ (p : Pkt) (s : State),
     runs 0x24 p s = true →
     p.pay.length = 2 →
     bit (word p 0) 8 = false →
     fld (word p 0) 11 9 = 0 →
     fld (word p 1) 17 0 ≤ 131072 →
     sender p s = 0 →
     exec (.quota p) s = .next (replied p 0 [] (setF ⟨.part, 0, 0x200 + 4 * fld (word p 0) 4 0⟩ 17 0 (fld (word p 1) 17 0) (taken p s)))) ∧
  (∀ (p : Pkt) (s : State),
     runs 0x24 p s = true →
     p.pay.length = 2 →
     bit (word p 0) 8 = true →
     fld (word p 1) 17 0 ≤ 4096 →
     sender p s = 0 →
     rf (taken p s) ⟨.part, 0, 0x400 + 32 * fld (word p 0) 4 0 + 4 * fld (word p 0) 11 9⟩ 12 0 ≤ fld (word p 1) 17 0 ∨ credUsed (taken p s) (fld (word p 0) 4 0) (fld (word p 0) 11 9) ≤ fld (word p 1) 17 0 →
     exec (.quota p) s = .next (replied p 0 [] (setF ⟨.part, 0, 0x400 + 32 * fld (word p 0) 4 0 + 4 * fld (word p 0) 11 9⟩ 12 0 (fld (word p 1) 17 0) (taken p s)))) ∧
  (∀ (p : Pkt) (s : State),
     runs 0x24 p s = true →
     p.pay.length = 2 →
     (bit (word p 0) 8 || fld (word p 0) 11 9 == 0) = true →
     fld (word p 1) 17 0 ≤ (if bit (word p 0) 8 then 4096 else 131072) →
     sender p s ≠ 0 →
     exec (.quota p) s = .next (replied p 3 [0] (report (deniedReport 0x24 2 0 0 p s) (taken p s))))

/-- ASSIGN gives and RELEASE takes back each resource of a range -/
def Obligations.ResourcesChangeOwner : Prop :=
  (∀ (p : Pkt) (s : State),
     runs 0x20 p s = true →
     p.pay.length = 2 →
     names64 (cmdOf 0x20 p s) = false →
     rangeBad (cmdOf 0x20 p s) = none →
     (fld (word p 0) 7 0 == 1 && (rangeOf (cmdOf 0x20 p s)).any (fun q => q != 64 && roleOf (taken p s) (q / 8) != 1)) = false →
     sender p s = 0 →
     (if isUseSet (fld (word p 0) 7 0) then none else firstOf (rangeOf (cmdOf 0x20 p s)) fun i => ownerOf (taken p s) (fld (word p 0) 7 0) i != 0) = none →
     (if fld (word p 0) 7 0 = 1 then firstOf (rangeOf (cmdOf 0x20 p s)) fun q => q == (taken p s).bootQ || q == 64 else none) = none →
     (if fld (word p 0) 7 0 = 1 then firstOf (rangeOf (cmdOf 0x20 p s)) (queueWork (taken p s)) else none) = none →
     firstOf (rangeOf (cmdOf 0x20 p s)) (indexHeld (taken p s) (fld (word p 0) 7 0)) = none →
     exec (.assign p) s = .next (replied p 0 [] (forEach (rangeOf (cmdOf 0x20 p s)) (assignOne (fld (word p 0) 7 0) (fld (word p 0) 12 8)) (taken p s)))) ∧
  (∀ (p : Pkt) (s : State),
     runs 0x21 p s = true →
     p.pay.length = 2 →
     names64 (cmdOf 0x21 p s) = false →
     rangeBad (cmdOf 0x21 p s) = none →
     (sender p s != 0 && fld (word p 0) 12 8 != sender p s) = false →
     (if fld (word p 0) 7 0 = 1 then firstOf (rangeOf (cmdOf 0x21 p s)) fun q => q == (taken p s).bootQ || q == 64 else none) = none →
     (firstOf (rangeOf (cmdOf 0x21 p s)) fun i => !ownsIdx (taken p s) (fld (word p 0) 7 0) (fld (word p 0) 12 8) i) = none →
     (if fld (word p 0) 7 0 = 1 then firstOf (rangeOf (cmdOf 0x21 p s)) (queueWork (taken p s)) else none) = none →
     firstOf (rangeOf (cmdOf 0x21 p s)) (indexHeld (taken p s) (fld (word p 0) 7 0)) = none →
     exec (.release p) s = .next (replied p 0 [] (forEach (rangeOf (cmdOf 0x21 p s)) (releaseOne (fld (word p 0) 7 0) (fld (word p 0) 12 8)) (taken p s)))) ∧
  (∀ (p : Pkt) (s : State),
     runs 0x20 p s = true →
     p.pay.length = 2 →
     names64 (cmdOf 0x20 p s) = false →
     rangeBad (cmdOf 0x20 p s) = none →
     (fld (word p 0) 7 0 == 1 && (rangeOf (cmdOf 0x20 p s)).any (fun q => q != 64 && roleOf (taken p s) (q / 8) != 1)) = false →
     sender p s ≠ 0 →
     exec (.assign p) s = .next (replied p 3 [0] (report (deniedReport 0x20 2 0 0 p s) (taken p s)))) ∧
  (∀ (c p i j : Nat) (s : State),
     isUseSet c = false →
     j < 65536 →
     i < 65536 →
     ownerOf (assignOne c p i s) c j = if j = i then p else ownerOf s c j) ∧
  (∀ (c p i : Nat) (s : State),
     isUseSet c = true →
     p < 32 →
     c = 0x0F ∨ i < 8 →
     inUse (assignOne c p i s) c i p = true) ∧
  (∀ (p i : Nat) (s : State),
     p < 32 →
     i < 64 →
     bound (assignOne 1 p i s) i = true ∧ partOf (assignOne 1 p i s) i = p) ∧
  (∀ (c p i : Nat) (s : State),
     isUseSet c = false →
     ownerOf (releaseOne c p i s) c i = 0) ∧
  (∀ (c p i : Nat) (s : State),
     isUseSet c = true →
     p < 32 →
     inUse (releaseOne c p i s) c i p = false)

/-- PART_RESET is accepted with its effects, and completes later -/
def Obligations.PartResetBegins : Prop :=
  (∀ (p : Pkt) (s : State),
     runs 0x25 p s = true →
     p.pay.length = 1 →
     fld (word p 0) 4 0 ≠ 0 →
     (sender p s != 0 && sender p s != fld (word p 0) 4 0) = false →
     (resetOp (taken p s) (fld (word p 0) 4 0)).isSome = false →
     opsFull (taken p s) p.q.val = false →
     exec (.partReset p) s = .next (replied p 1 [] (started p (sender p s) (.partReset (fld (word p 0) 4 0)) (partResetNow (fld (word p 0) 4 0) (taken p s))))) ∧
  (∀ (part : Part) (o : LongOp) (s : State),
     live s = true →
     resetOp s part.toNat = some o →
     opOf s o.q o.tag = some o →
     canComplete o 0 s = true →
     exec (.partResetComplete part) s = .next (finish (completed o 0 [] s))) ∧
  (∀ (part : Part) (o : LongOp) (s : State),
     live s = true →
     resetOp s part.toNat = some o →
     opOf s o.q o.tag = some o →
     canComplete o 0 s = false →
     exec (.partResetComplete part) s = .next (finish { s with ops := s.ops.map (fun x => if x.q == o.q && x.tag == o.tag then { x with kind := .finished, held := some [0] } else x) })) ∧
  (∀ (part : Part) (s : State),
     live s = true →
     resetOp s part.toNat = none →
     exec (.partResetComplete part) s = .next (finish s)) ∧
  (∀ (q : Nat) (s : State),
     rf (discardQueue q s) (qk q 0x10) 9 0 = rf s (qk q 0x14) 9 0 ∧ rd (discardQueue q s) (qk q 0x28) = rd s (qk q 0x28) + BitVec.ofNat 32 (packetsIn s q 1024 (rf s (qk q 0x10) 9 0) (waitingWords s q))) ∧
  (∀ (p : Nat) (s : State) (x : Lease),
     x ∈ (leasesEnd p s).leases →
     x.holder ≠ p)

/-- DOORBELL and QCTL writes move a queue and flag what they cannot do -/
def Obligations.DoorbellMovesTail : Prop :=
  (∀ (q : Fin 65) (v : Word) (s : State),
     (if q.val = 64 then live s && s.rails.getLsbD 24 else hostOn s (q.val / 8)) = true →
     fld v 31 10 = 0 →
     q.val = 64 ∨ rb s (qk q.val 4) 0 = true →
     waitingWords s q.val ≤ (fld v 9 0 + 1024 - rf s (qk q.val 0x10) 9 0) % 1024 →
     exec (.doorbell q v 0xF) s = .next (finish (setF (qk q.val 0x14) 9 0 (fld v 9 0) s))) ∧
  (∀ (q : Fin 65) (v : Word) (s : State),
     (if q.val = 64 then live s && s.rails.getLsbD 24 else hostOn s (q.val / 8)) = true →
     fld v 31 10 ≠ 0 ∨ (q.val ≠ 64 ∧ rb s (qk q.val 4) 0 = false) ∨ (fld v 9 0 + 1024 - rf s (qk q.val 0x10) 9 0) % 1024 < waitingWords s q.val →
     exec (.doorbell q v 0xF) s = .next (finish (setB (qk q.val 0x34) 0 true s))) ∧
  (∀ (q : Fin 64) (v : Word) (be : BitVec 4) (s : State),
     hostOn s (q.val / 8) = true →
     rb s (qk q.val 4) 0 = false →
     bit (mergeReg (qk q.val 4) (rd s (qk q.val 4)) v (byteMask be)) 0 = true →
     exec (.qctlWrite q v be) s = .next (finish (wr (qk q.val 0x10) 0 (wr (qk q.val 0x14) 0 (wr (qk q.val 0x1C) 0 (wr (qk q.val 0x20) 0
       (wr (qk q.val 4) (mergeReg (qk q.val 4) (rd s (qk q.val 4)) v (byteMask be)) s))))))) ∧
  (∀ (q : Fin 64) (v : Word) (be : BitVec 4) (s : State),
     hostOn s (q.val / 8) = true →
     rb s (qk q.val 4) 0 = true →
     bit (mergeReg (qk q.val 4) (rd s (qk q.val 4)) v (byteMask be)) 0 = false →
     waitingWords s q.val ≠ 0 →
     exec (.qctlWrite q v be) s = .next (finish (setB (qk q.val 0x34) 1 true s))) ∧
  (∀ (q : Fin 64) (v : Word) (be : BitVec 4) (s : State),
     hostOn s (q.val / 8) = true →
     rb s (qk q.val 4) 0 = true →
     bit (mergeReg (qk q.val 4) (rd s (qk q.val 4)) v (byteMask be)) 0 = false →
     (s.ops.any fun o => o.q == q.val) = true →
     exec (.qctlWrite q v be) s = .next (finish (setB (qk q.val 0x34) 1 true s))) ∧
  (∀ (q : Fin 64) (v : Word) (be : BitVec 4) (s : State),
     hostOn s (q.val / 8) = true →
     rb s (qk q.val 4) 0 = true →
     bit (mergeReg (qk q.val 4) (rd s (qk q.val 4)) v (byteMask be)) 0 = false →
     waitingWords s q.val = 0 →
     (s.ops.any fun o => o.q == q.val) = false →
     exec (.qctlWrite q v be) s = .next (finish (wr (qk q.val 4) (mergeReg (qk q.val 4) (rd s (qk q.val 4)) v (byteMask be)) s)))

/-- A register write that passes its checks takes effect as its field table says -/
def Obligations.RegisterWriteStores : Prop :=
  (∀ (q : Fin 65) (k : RKey) (v : Word) (m : BitVec 4) (s : State),
     writable q.val k v m s = true →
     locate k.addr = .reg k →
     k.addr < 2 ^ 32 →
     exec (.registerWrite (.ici q (BitVec.ofNat 32 k.addr)) v m) s = .next (wrote q.val (applyReg (partOf s q.val) k v (byteMask m) s))) ∧
  (∀ (q : Fin 65) (k : RKey) (v : Word) (s : State),
     writable q.val k v 0xF s = true →
     locate k.addr = .reg k →
     k.addr < 2 ^ 32 →
     exec (.w1cWrite (.ici q (BitVec.ofNat 32 k.addr)) v) s = .next (wrote q.val (applyReg (partOf s q.val) k v 0xFFFFFFFF s))) ∧
  (∀ (port : Fin 8) (off : BitVec 16) (v : Word) (m : BitVec 4) (s : State),
     hostOn s port.val = true →
     0x8000 ≤ off.toNat →
     off.toNat < 0x8010 →
     exec (.registerWrite (.bar0 port off) v m) s = .next (finish (wr (bpk port.val (off.toNat % 16 / 4 * 4))
       (mergeReg (bpk port.val (off.toNat % 16 / 4 * 4)) (rd s (bpk port.val (off.toNat % 16 / 4 * 4))) v (byteMask m)) s))) ∧
  (∀ (k : RKey) (old v m : Word) (i : Nat),
     bit (accMask [.w1c] k) i = true →
     i < 32 →
     bit (mergeReg k old v m) i = (bit (blend old v (m &&& accMask [.rw, .rwl, .wos] k)) i && !(bit v i && bit m i))) ∧
  (∀ (k : RKey) (old v m : Word) (i : Nat),
     bit (accMask [.rw, .rwl, .wos] k) i = false →
     bit (accMask [.w1c] k) i = false →
     bit (mergeReg k old v m) i = bit old i) ∧
  (∀ (port : Fin 8) (off : BitVec 16) (v : Word) (m : BitVec 4) (s : State),
     hostOn s port.val = true →
     off.toNat < 0x8000 →
     True →
     exec (.registerWrite (.bar0 port off) v m) s = .next (finish ({ s with ring := spPut id (fun _ => 0) s.ring ((8 * port.val + off.toNat / 0x1000) * 1024 + off.toNat % 0x1000 / 4) (blend (ringW s (8 * port.val + off.toNat / 0x1000) (off.toNat % 0x1000 / 4)) v (byteMask m)) }))) ∧
  (∀ (port : Fin 8) (off : BitVec 16) (v : Word) (m : BitVec 4) (s : State),
     hostOn s port.val = true →
     0x8100 ≤ off.toNat →
     off.toNat < 0x8300 →
     (off.toNat % 0x40 / 4 * 4) ≠ 0x18 →
     (off.toNat % 0x40 / 4 * 4) ≠ 4 →
     (fieldsOf .qcb (off.toNat % 0x40 / 4 * 4)).isSome = true →
     exec (.registerWrite (.bar0 port off) v m) s = .next (finish (wr (qk (8 * port.val + (off.toNat - 0x8100) / 0x40) (off.toNat % 0x40 / 4 * 4)) (mergeReg (qk (8 * port.val + (off.toNat - 0x8100) / 0x40) (off.toNat % 0x40 / 4 * 4)) (rd s (qk (8 * port.val + (off.toNat - 0x8100) / 0x40) (off.toNat % 0x40 / 4 * 4))) v (byteMask m)) s))) ∧
  (∀ (port : Fin 8) (off : BitVec 16) (v : Word) (m : BitVec 4) (s : State),
     hostOn s port.val = true →
     0x8100 ≤ off.toNat →
     off.toNat < 0x8300 →
     (off.toNat % 0x40 / 4 * 4) ≠ 0x18 →
     (off.toNat % 0x40 / 4 * 4) ≠ 4 →
     (fieldsOf .qcb (off.toNat % 0x40 / 4 * 4)).isSome = false →
     exec (.registerWrite (.bar0 port off) v m) s = .next (finish (s))) ∧
  (∀ (port : Fin 8) (off : BitVec 16) (v : Word) (m : BitVec 4) (s : State),
     hostOn s port.val = true →
     0x9000 ≤ off.toNat →
     off.toNat < 0x9100 →
     exec (.registerWrite (.bar0 port off) v m) s = .next (finish (signalPending port.val (wr (bpk port.val (off.toNat / 4 * 4)) (mergeReg (bpk port.val (off.toNat / 4 * 4)) (rd s (bpk port.val (off.toNat / 4 * 4))) v (byteMask m)) s)))) ∧
  (∀ (port : Fin 8) (off : BitVec 16) (v : Word) (m : BitVec 4) (s : State),
     hostOn s port.val = true →
     0x8010 ≤ off.toNat →
     off.toNat < 0x8100 ∨ (0x8300 ≤ off.toNat ∧ off.toNat < 0x9000) ∨ 0x9100 ≤ off.toNat →
     exec (.registerWrite (.bar0 port off) v m) s = .next (finish (s))) ∧
  (∀ (port : Fin 8) (off : BitVec 16) (v : Word) (m : BitVec 4) (s : State),
     hostOn s port.val = false →
     exec (.registerWrite (.bar0 port off) v m) s = .next s) ∧
  (∀ (port : Fin 8) (v old : Word) (m : BitVec 4) (s : State),
     live s = true →
     (link s port.val).up = true →
     cfgRead s port.val .command = some old →
     exec (.registerWrite (.cfg port .command) v m) s = .next (finish (signalPending port.val (modLink port.val (fun l => { l with mse := bit (blend old v (byteMask m)) 1, bme := bit (blend old v (byteMask m)) 2 }) s)))) ∧
  (∀ (port : Fin 8) (v old : Word) (m : BitVec 4) (s : State),
     live s = true →
     (link s port.val).up = true →
     cfgRead s port.val .bar0Lo = some old →
     exec (.registerWrite (.cfg port .bar0Lo) v m) s = .next (finish (modLink port.val (fun l => { l with bar0 := (l.bar0 &&& 0xFFFFFFFF00000000) ||| (((blend old v (byteMask m)) &&& 0xFFFF0000).setWidth 64) }) s))) ∧
  (∀ (port : Fin 8) (v old : Word) (m : BitVec 4) (s : State),
     live s = true →
     (link s port.val).up = true →
     cfgRead s port.val .bar0Hi = some old →
     exec (.registerWrite (.cfg port .bar0Hi) v m) s = .next (finish (modLink port.val (fun l => { l with bar0 := (l.bar0 &&& 0xFFFFFFFF) ||| ((blend old v (byteMask m)).setWidth 64 <<< 32) }) s))) ∧
  (∀ (port : Fin 8) (v old : Word) (m : BitVec 4) (s : State),
     live s = true →
     (link s port.val).up = true →
     cfgRead s port.val .bar2Lo = some old →
     exec (.registerWrite (.cfg port .bar2Lo) v m) s = .next (finish (modLink port.val (fun l => { l with bar2 := (l.bar2 &&& 0xFFFFFFFF00000000) ||| (((blend old v (byteMask m)) &&& 0xFF000000).setWidth 64) }) s))) ∧
  (∀ (port : Fin 8) (v old : Word) (m : BitVec 4) (s : State),
     live s = true →
     (link s port.val).up = true →
     cfgRead s port.val .bar2Hi = some old →
     exec (.registerWrite (.cfg port .bar2Hi) v m) s = .next (finish (modLink port.val (fun l => { l with bar2 := (l.bar2 &&& 0xFFFFFFFF) ||| ((blend old v (byteMask m)).setWidth 64 <<< 32) }) s))) ∧
  (∀ (port : Fin 8) (v old : Word) (m : BitVec 4) (s : State),
     live s = true →
     (link s port.val).up = true →
     cfgRead s port.val .deviceControl = some old →
     exec (.registerWrite (.cfg port .deviceControl) v m) s = .next (finish (modLink port.val (fun l => { l with devCtl :=
       (let w := if 2 < fld (blend old v (byteMask m)) 7 5 then setFld (blend old v (byteMask m)) 7 5 (fld old 7 5) else (blend old v (byteMask m)); if 5 < fld w 14 12 then setFld w 14 12 (fld old 14 12) else w).setWidth 16 }) s))) ∧
  (∀ (port : Fin 8) (v old : Word) (m : BitVec 4) (s : State),
     live s = true →
     (link s port.val).up = true →
     cfgRead s port.val .powerControl = some old →
     fld (blend old v (byteMask m)) 1 0 ≠ 0 →
     fld (blend old v (byteMask m)) 1 0 ≠ 3 →
     exec (.registerWrite (.cfg port .powerControl) v m) s = .next (finish (s))) ∧
  (∀ (port : Fin 8) (v old : Word) (m : BitVec 4) (s : State),
     live s = true →
     (link s port.val).up = true →
     cfgRead s port.val .msixControl = some old →
     exec (.registerWrite (.cfg port .msixControl) v m) s = .next (finish (signalPending port.val (modLink port.val (fun l => { l with msixMask := bit (blend old v (byteMask m)) 14, msixEn := bit (blend old v (byteMask m)) 15 }) s)))) ∧
  (∀ (port : Fin 8) (v old : Word) (m : BitVec 4) (s : State),
     live s = true →
     (link s port.val).up = true →
     cfgRead s port.val .powerControl = some old →
     fld (blend old v (byteMask m)) 1 0 = 0 →
     exec (.registerWrite (.cfg port .powerControl) v m) s = .next (finish (signalPending port.val (modLink port.val (fun l => { l with d3 := false }) s)))) ∧
  (∀ (port : Fin 8) (v old : Word) (m : BitVec 4) (s : State),
     live s = true →
     (link s port.val).up = true →
     cfgRead s port.val .powerControl = some old →
     fld (blend old v (byteMask m)) 1 0 = 3 →
     exec (.registerWrite (.cfg port .powerControl) v m) s = .next (finish (modLink port.val (fun l => { l with d3 := true }) s))) ∧
  (∀ (port : Fin 8) (r : CfgReg) (v : Word) (m : BitVec 4) (s : State),
     live s = true →
     [CfgReg.ident, .classCode, .deviceCap, .linkCap, .linkCap2, .powerCap, .msixTable, .msixPba, .aer].contains r = true →
     exec (.registerWrite (.cfg port r) v m) s = .next (finish s)) ∧
  (∀ (port : Fin 8) (r : CfgReg) (v : Word) (m : BitVec 4) (s : State),
     live s = true →
     cfgReady s port.val = false ∨ (link s port.val).up = false →
     exec (.registerWrite (.cfg port r) v m) s = .next (finish s))

/-- Reads with an effect return the value and do what the field says -/
def Obligations.RegisterReadsReturn : Prop :=
  (∀ (q : Fin 65) (s : State),
     serving s = true →
     bound s q.val = true →
     exec (.tbLoRead q) s = .next (finish (emit (.data [lo32 s.tb]) (setLatch ⟨partOf s q.val, q.val, 0⟩ ⟨.dev, 0, 0x10⟩ (hi32 s.tb) s)))) ∧
  (∀ (q : Fin 65) (addr : Word) (k : RKey) (x : Word × Word) (s : State),
     serving s = true →
     bound s q.val = true →
     addr.toNat % 4 = 0 →
     locate addr.toNat = .reg k →
     latchValue s k = some x →
     (fieldsOf k.blk k.off).isSome = true →
     mayRead s ⟨partOf s q.val, q.val, 0⟩ (.reg k) = true →
     exec (.latchedLoRead q addr) s = .next (finish (emit (.data [x.1 &&& readMask k]) (setLatch ⟨partOf s q.val, q.val, 0⟩ k x.2 s)))) ∧
  (∀ (q : Fin 65) (i : Fin 512) (s : State),
     serving s = true →
     bound s q.val = true →
     exec (.rdescSelectRead q i) s = .next (finish (emit (.data [romDesc i.val 0 &&& readMask ⟨.dev, 0, 0x4000 + 32 * i.val⟩]) { s with sel := nput 0 s.sel q.val i.val }))) ∧
  (∀ (q : Fin 65) (t : Fin 8) (s : State),
     serving s = true →
     bound s q.val = true →
     mayRead s ⟨partOf s q.val, q.val, 0⟩ (.reg (tk t.val 0x140)) = true →
     exec (.peakRead q (BitVec.ofNat 32 (tk t.val 0x140).addr)) s =
       .next (finish (emit (.data [setFld (rd s (tk t.val 0x140)) 12 0 (collFill s t.val) &&& readMask (tk t.val 0x140)]) (setF (tk t.val 0x140) 28 16 (collFill s t.val) s)))) ∧
  (∀ (q : Fin 65) (t : Fin 8) (s : State),
     serving s = true →
     bound s q.val = true →
     mayRead s ⟨partOf s q.val, q.val, 0⟩ (.reg (tk t.val 0x10)) = true →
     exec (.peakRead q (BitVec.ofNat 32 (tk t.val 0x10).addr)) s =
       .next (finish (emit (.data [rd s (tk t.val 0x10) &&& readMask (tk t.val 0x10)]) (setF (tk t.val 0x10) 31 16 0xFFFF s)))) ∧
  (∀ (q : Fin 65) (s : State),
     serving s = true →
     bound s q.val = true →
     mayRead s ⟨partOf s q.val, q.val, 0⟩ (.reg (pqk 0xC)) = true →
     exec (.peakRead q (BitVec.ofNat 32 (pqk 0xC).addr)) s =
       .next (finish (emit (.data [rd s (pqk 0xC) &&& readMask (pqk 0xC)]) (setF (pqk 0xC) 17 0 s.paq.length s)))) ∧
  (∀ (q : Fin 65) (s : State),
     serving s = true →
     bound s q.val = true →
     mayRead s ⟨partOf s q.val, q.val, 0⟩ (.reg (pqk 0x10)) = true →
     exec (.peakRead q (BitVec.ofNat 32 (pqk 0x10).addr)) s =
       .next (finish (emit (.data [setFld (rd s (pqk 0x10)) 10 0 s.insBuf.length &&& readMask (pqk 0x10)]) (setF (pqk 0x10) 26 16 s.insBuf.length s)))) ∧
  (∀ (q : Fin 65) (k : Fin 8) (s : State),
     serving s = true →
     bound s q.val = true →
     mayRead s ⟨partOf s q.val, q.val, 0⟩ (.reg (stk k.val 0x20)) = true →
     exec (.peakRead q (BitVec.ofNat 32 (stk k.val 0x20).addr)) s =
       .next (finish (emit (.data [setFld (rd s (stk k.val 0x20)) 17 0 (strmFillOf s k.val) &&& readMask (stk k.val 0x20)]) (setF (stk k.val 0x20) 31 18 (strmFillOf s k.val / 1024) s)))) ∧
  (∀ (q : Fin 65) (n : Fin 96) (s : State),
     serving s = true →
     bound s q.val = true →
     mayRead s ⟨partOf s q.val, q.val, 0⟩ (.reg (ffk n.val 0x10)) = true →
     exec (.peakRead q (BitVec.ofNat 32 (ffk n.val 0x10).addr)) s =
       .next (finish (emit (.data [setFld (rd s (ffk n.val 0x10)) 8 0 (ffP s n.val).q.length &&& readMask (ffk n.val 0x10)]) (setF (ffk n.val 0x10) 24 16 (ffP s n.val).q.length s)))) ∧
  (∀ (q : Fin 65) (m : Fin 4) (s : State),
     serving s = true →
     bound s q.val = true →
     mayRead s ⟨partOf s q.val, q.val, 0⟩ (.reg (⟨.mover, m.val, 0⟩ : RKey)) = true →
     vget s.movers m.val = none →
     exec (.peakRead q (BitVec.ofNat 32 (⟨.mover, m.val, 0⟩ : RKey).addr)) s =
       .next (finish (emit (.data [setFld (rd s (⟨.mover, m.val, 0⟩ : RKey)) 6 0 0 &&& readMask (⟨.mover, m.val, 0⟩ : RKey)]) (setF (⟨.mover, m.val, 0⟩ : RKey) 25 16 0 s)))) ∧
  (∀ (q : Fin 65) (m : Fin 4) (c : Nat) (s : State),
     serving s = true →
     bound s q.val = true →
     mayRead s ⟨partOf s q.val, q.val, 0⟩ (.reg (⟨.mover, m.val, 0⟩ : RKey)) = true →
     vget s.movers m.val = some c →
     exec (.peakRead q (BitVec.ofNat 32 (⟨.mover, m.val, 0⟩ : RKey).addr)) s =
       .next (finish (emit (.data [setFld (setFld (rd s (⟨.mover, m.val, 0⟩ : RKey)) 6 0 (64 + c)) 25 16 (max (fld (setFld (rd s (⟨.mover, m.val, 0⟩ : RKey)) 6 0 (64 + c)) 25 16) ((takeFree s).1.toNat % 513)) &&& readMask (⟨.mover, m.val, 0⟩ : RKey)]) (setF (⟨.mover, m.val, 0⟩ : RKey) 25 16 ((takeFree (takeFree s).2).1.toNat % 513) (takeFree (takeFree s).2).2))))

/-- Rows that write one control register have the effect of that register -/
def Obligations.ControlRegisterWrites : Prop :=
  (∀ (q : Fin 65) (a : Fin 8) (s : State),
     writable q.val (ak a.val 0xC) (1) 0xF s = true →
     exec (.axisForce q a) s = .next (wrote q.val (failover a.val 3 s))) ∧
  (∀ (q : Fin 65) (a : Fin 8) (s : State),
     writable q.val (ak a.val 0xC) (2) 0xF s = true →
     exec (.axisRestore q a) s = .next (wrote q.val (updNoSrc a.val (rebase a.val (causeOff (0x088 + a.val) none
       (modAxis a.val (fun x => { x with noPort := false }) (setB (ak a.val 0x10) 0 false s))))))) ∧
  (∀ (q : Fin 65) (a : Fin 8) (v : Word) (s : State),
     writable q.val (ak a.val 0x24) (v) 0xF s = true →
     exec (.axisPreset q a v) s = .next (wrote q.val (rebase a.val (modAxis a.val (fun x => { x with pos := BitVec.ofNat 48 (rd48 (wr (ak a.val 0x24) (mergeReg (ak a.val 0x24) (rd s (ak a.val 0x24)) (v) 0xFFFFFFFF) s) (ak a.val 0x20) (ak a.val 0x24)), frac := 0 })
       { wr (ak a.val 0x24) (mergeReg (ak a.val 0x24) (rd s (ak a.val 0x24)) (v) 0xFFFFFFFF) s with obs := vset s.obs a.val (BitVec.ofNat 48 (rd48 (wr (ak a.val 0x24) (mergeReg (ak a.val 0x24) (rd s (ak a.val 0x24)) (v) 0xFFFFFFFF) s) (ak a.val 0x20) (ak a.val 0x24))) })))) ∧
  (∀ (q : Fin 65) (t : Fin 8) (v : Word) (s : State),
     writable q.val (tk t.val 0) (v) 0xF s = true →
     bit v 16 = true →
     exec (.tileClkStart q t v) s = .next (wrote q.val (clkWrite t.val (mergeReg (tk t.val 0) (rd s (tk t.val 0)) (v) 0xFFFFFFFF) s))) ∧
  (∀ (q : Fin 65) (t : Fin 8) (v : Word) (s : State),
     writable q.val (tk t.val 0) (v) 0xF s = true →
     bit v 16 = false →
     exec (.tileClkStop q t v) s = .next (wrote q.val (clkWrite t.val (mergeReg (tk t.val 0) (rd s (tk t.val 0)) (v) 0xFFFFFFFF) s))) ∧
  (∀ (q : Fin 65) (n : Fin 96) (s : State),
     writable q.val (ffk n.val 0) (1) 0xF s = true →
     rb s (ffk n.val 0) 0 = false →
     exec (.ffEnable q n) s = .next (wrote q.val (ffOn n.val s))) ∧
  (∀ (q : Fin 65) (n : Fin 96) (s : State),
     writable q.val (ffk n.val 0) (0) 0xF s = true →
     rb s (ffk n.val 0) 0 = true →
     exec (.ffDisable q n) s = .next (wrote q.val (ffOff n.val s))) ∧
  (∀ (q : Fin 65) (t : Fin 8) (v : Word) (s : State),
     writable q.val (tk t.val 0x308) (v) 0xF s = true →
     exec (.strobeMaskWrite q t v) s = .next (wrote q.val (wr (tk t.val 0x308) (blend (rd s (tk t.val 0x308)) (mergeReg (tk t.val 0x308) (rd s (tk t.val 0x308)) (v) 0xFFFFFFFF)
       (BitVec.ofNat 32 (((tilePorts t.val).map fun n => (ownerOf s 0x04 n == partOf s q.val).toNat * 2 ^ (n % 12)).sum))) s))) ∧
  (∀ (q : Fin 65) (n : Fin 96) (v : Word) (s : State),
     writable q.val (tlk n.val 0x100) (v) 0xF s = true →
     exec (.creditWrite q n v) s = .next (wrote q.val (wr (tlk n.val 0x100) (mergeReg (tlk n.val 0x100) (rd s (tlk n.val 0x100)) (v) 0xFFFFFFFF) s))) ∧
  (∀ (q : Fin 65) (z : Fin 1024) (s : State),
     writable q.val (zk z.val 0) (1) 0xF s = true →
     exec (.zoneEnable q z) s = .next (wrote q.val (wr (zk z.val 0) (mergeReg (zk z.val 0) (rd s (zk z.val 0)) (1) 0xFFFFFFFF) s))) ∧
  (∀ (q : Fin 65) (z : Fin 1024) (s : State),
     writable q.val (zk z.val 0) (0) 0xF s = true →
     rb s (zk z.val 0) 0 = true →
     exec (.zoneDisable q z) s = .next (wrote q.val (zoneOff z.val s))) ∧
  (∀ (q : Fin 65) (part : Part) (v : Word) (s : State),
     writable q.val (rrk part.toNat 0) v 0xF s = true →
     bit v 0 = true →
     rb s (rrk part.toNat 0) 0 = false →
     exec (.recordRingEnable q part v) s = .next (wrote q.val (wr (rrk part.toNat 4) 0 (wr (rrk part.toNat 8) 0 (wr (rrk part.toNat 0) (mergeReg (rrk part.toNat 0) (rd s (rrk part.toNat 0)) (v) 0xFFFFFFFF) s))))) ∧
  (∀ (q : Fin 65) (c : Fin 64) (s : State),
     writable q.val (dmk c.val 0) (BitVec.ofNat 32 true.toNat) 0xF s = true →
     exec (.dmaPauseBitWrite q c true) s = .next (wrote q.val (dmaPause c.val s))) ∧
  (∀ (q : Fin 65) (c : Fin 64) (s : State),
     writable q.val (dmk c.val 0) (BitVec.ofNat 32 false.toNat) 0xF s = true →
     rb s (dmk c.val 0) 0 = true →
     exec (.dmaPauseBitWrite q c false) s = .next (wrote q.val (dmaResume c.val s))) ∧
  (∀ (q : Fin 65) (b : Fin 8) (v : Word) (s : State),
     writable q.val (bk b.val 0) (v) 0xF s = true →
     exec (.gpioBankWrite q b false v) s = .next (wrote q.val (wr (bk b.val 0) (blend (rd s (bk b.val 0)) (mergeReg (bk b.val 0) (rd s (bk b.val 0)) (v) 0xFFFFFFFF)
       (bankOwn s b.val (partOf s q.val))) s))) ∧
  (∀ (q : Fin 65) (b : Fin 8) (v : Word) (s : State),
     writable q.val (bk b.val 4) (v) 0xF s = true →
     exec (.gpioBankWrite q b true v) s = .next (wrote q.val (wr (bk b.val 4) (blend (rd s (bk b.val 4)) (mergeReg (bk b.val 4) (rd s (bk b.val 4)) (v) 0xFFFFFFFF)
       (bankOwn s b.val (partOf s q.val))) s))) ∧
  (∀ (q : Fin 65) (k : Fin 8) (v : Word) (s : State),
     writable q.val (iqk k.val 0) (v) 0xF s = true →
     exec (.irqSelWrite q k v) s = .next (wrote q.val (irqSel k.val (mergeReg (iqk k.val 0) (rd s (iqk k.val 0)) (v) 0xFFFFFFFF) s))) ∧
  (∀ (q : Fin 65) (s : State),
     writable q.val (pwrK) (0) 0xF s = true →
     exec (.powerStateRun q) s = .next (wrote q.val (setPower 0 s))) ∧
  (∀ (q : Fin 65) (s : State),
     writable q.val (pwrK) (1) 0xF s = true →
     exec (.powerStateIdle q) s = .next (wrote q.val (setPower 1 s))) ∧
  (∀ (q : Fin 65) (s : State),
     writable q.val (pwrK) (2) 0xF s = true →
     exec (.powerStateStandby q) s = .next (wrote q.val (setPower 2 s))) ∧
  (∀ (t : Fin 8) (v : Word) (s : State),
     rd (clkWrite t.val v s) (tk t.val 0) = (v &&& 0x1FFFF) ∧ rf (clkWrite t.val v s) (tk t.val 4) 1 0 = 0 ∧ (tile (clkWrite t.val v s) t.val).toks = [] ∧
     (tile (clkWrite t.val v s) t.val).pllStart = (if bit v 16 then some s.tb else none) ∧ ∀ k, k ≠ tk t.val 0 → k ≠ tk t.val 4 → rd (clkWrite t.val v s) k = rd s k) ∧
  (∀ (n : Fin 96) (s : State),
     rb (ffOn n.val s) (ffk n.val 0) 0 = true ∧ rb (ffOn n.val s) (ffk n.val 0xC) 0 = false ∧ (ffP (ffOn n.val s) n.val).enable = true ∧ (ffP (ffOn n.val s) n.val).wait = true ∧
     ∀ k, k ≠ ffk n.val 0 → k ≠ ffk n.val 0xC → rd (ffOn n.val s) k = rd s k) ∧
  (∀ (n : Fin 96) (s : State),
     (∃ u, ffOff n.val s = ffSettle n.val u ∧ rb u (ffk n.val 0) 0 = false ∧ rb u (ffk n.val 0xC) 0 = false ∧ (ffP u n.val).enable = false ∧ (ffP u n.val).dac = none ∧ (ffP u n.val).wait = true ∧
     ∀ k, k ≠ ffk n.val 0 → k ≠ ffk n.val 0xC → rd u k = rd s k) ∧ ∀ k, k.blk ≠ .ff → rd (ffOff n.val s) k = rd s k) ∧
  (∀ (z : Fin 1024) (s : State),
     rb (zoneOff z.val s) (zk z.val 0) 0 = false ∧ rb (zoneOff z.val s) (zk z.val 0x14) 1 = false ∧ (zoneOff z.val s).zones = s.zones.filter (fun x => x.z != z.val) ∧
     ∀ k, k ≠ zk z.val 0 → k ≠ zk z.val 0x14 → rd (zoneOff z.val s) k = rd s k) ∧
  (∀ (c : Fin 64) (s : State),
     dmaPaused (dmaPause c.val s) c.val = true ∧ dmaState (dmaPause c.val s) c.val = (if dmaState s c.val = 1 ∨ dmaState s c.val = 2 then 3 else dmaState s c.val) ∧
     ∀ k, k ≠ dmk c.val 0 → rd (dmaPause c.val s) k = rd s k) ∧
  (∀ (c : Fin 64) (s : State),
     dmaState s c.val ≠ 4 →
     dmaResume c.val s = setB (dmk c.val 0) 0 false s) ∧
  (∀ (c : Fin 64) (s : State),
     dmaState s c.val = 4 →
     ((dch s c.val).desc.isSome || (dch s c.val).fetch || (dch s c.val).stop.isSome) = true →
     dmaResume c.val s = schedule (setDmaState c.val 2 (setB (dmk c.val 0) 0 false s))) ∧
  (∀ (c : Fin 64) (s : State),
     dmaState s c.val = 4 →
     ((dch s c.val).desc.isSome || (dch s c.val).fetch || (dch s c.val).stop.isSome) = false →
     dmaResume c.val s = if rb s (dmk c.val 0) 1 then setDmaState c.val 2 (modDma c.val (fun d => { d with fetch := true }) (setB (dmk c.val 0) 1 false (setB (dmk c.val 0) 0 false s))) else setDmaState c.val 1 (setB (dmk c.val 0) 0 false s)) ∧
  (∀ (k : Fin 8) (v : Word) (s : State),
     rd (irqSel k.val v s) (iqk k.val 0) = v ∧ rd (irqSel k.val v s) (iqk k.val 4) = 0 ∧ rd (irqSel k.val v s) (iqk k.val 8) = 0 ∧ rd (irqSel k.val v s) (iqk k.val 0xC) = 0 ∧
     ∀ x, x ≠ iqk k.val 0 → x ≠ iqk k.val 4 → x ≠ iqk k.val 8 → x ≠ iqk k.val 0xC → rd (irqSel k.val v s) x = rd s x) ∧
  (∀ (s : State),
     pwrCur s ≠ 2 →
     setPower 0 s = setF pwrK 9 8 0 (setF pwrK 1 0 0 s)) ∧
  (∀ (s : State),
     pwrCur s ≠ 2 →
     setPower 1 s = setF pwrK 9 8 1 (setF pwrK 1 0 1 (forEach (List.range 96) disarmChan (forEach (List.range 16) disarmGen s)))) ∧
  (∀ (s : State),
     pwrCur s ≠ 2 →
     setPower 2 s = forEach (List.range 96) (fun n u => ffSettle n (ffBlock n u)) (forEach (List.range 8) regionStandby (forEach (List.range 8) pllOff
       (setF pwrK 9 8 2 (setF pwrK 1 0 2 (supStop (forEach (List.range 96) disarmChan (forEach (List.range 16) disarmGen s)))))))) ∧
  (∀ (v : Fin 2) (s : State),
     pwrCur s = 2 →
     setPower v.val s = let u := setF pwrK 9 8 v.val (setF pwrK 1 0 v.val (if v.val = 1 then forEach (List.range 96) disarmChan (forEach (List.range 16) disarmGen s) else s))
     supKick (forEach ((List.range 8).filter fun t => rb u (tk t 0) 16) (fun t u => modTile t (fun x => { x with pllStart := some u.tb }) u) u)) ∧
  (∀ (g : Fin 16) (s : State),
     genArmed (disarmGen g.val s) g.val = false ∧ (gen (disarmGen g.val s) g.val).backlog = [] ∧ ∀ k, k ≠ gk g.val 0x10 → rd (disarmGen g.val s) k = rd s k) ∧
  (∀ (n : Fin 96) (s : State),
     armed s n.val = true →
     calCollecting (setB (vk n.val 0x20) 0 false s) n.val = false →
     (chan s n.val).line.isNone = false →
     disarmChan n.val s = setB (vk n.val 0x20) 0 false s) ∧
  (∀ (n : Fin 96) (s : State),
     armed s n.val = false →
     disarmChan n.val s = s)

/-- An encoder edge counts as the mode says; a Z edge latches the count -/
def Obligations.EncoderEdgesCount : Prop :=
  (∀ (e : Fin 32) (a b : Bool) (d : Int) (s : State),
     live s = true →
     pinPowered s (.encAP e.val) = true →
     noEdgePins e.val s = true →
     (((encP s e.val).a != a) && ((encP s e.val).b != b)) = false →
     edgeCount (rf s (ek e.val 0) 2 0) (encP s e.val).a (encP s e.val).b a b = some d →
     (match (encP s e.val).lastEdge with | some l => decide (s.tb < l + 20) | none => false) = false →
     unfiltered e.val s = true →
     exec (.encoderEdge e a b) s = .next (finish (portCount e.val (if rb s (ek e.val 0) 3 then -d else d)
       (wr (ek e.val 8) (rd s (ek e.val 8) + intW (if rb s (ek e.val 0) 3 then -d else d))
         (modEnc e.val (fun y => { y with lastEdge := some s.tb }) (sampled e.val a b s)))))) ∧
  (∀ (e : Fin 32) (s : State),
     live s = true →
     pinPowered s (.encZP e.val) = true →
     (decide (1 ≤ rf s (ek e.val 0) 2 0) && decide (rf s (ek e.val 0) 2 0 ≤ 3) && rb s (ek e.val 0) 12 && !((encP s e.val).a && (encP s e.val).b)) = false →
     filterPassed s e.val (if (encP s e.val).z == !rb s (ek e.val 0) 13 then 2 else 1) (encP s e.val).chgZ = true →
     exec (.encoderZEdge e) s = .next (finish (incR (ek e.val 0x14) (wr (ek e.val 0xC) (rd s (ek e.val 8))
       (modEnc e.val (fun y => { y with z := !rb s (ek e.val 0) 13, chgZ := some s.tb }) s))))) ∧
  (∀ (e : Fin 32) (a b : Bool) (s : State),
     live s = true →
     pinPowered s (.encAP e.val) = false →
     exec (.encoderEdge e a b) s = .next (finish s)) ∧
  (∀ (e : Fin 32) (s : State),
     live s = true →
     pinPowered s (.encZP e.val) = false →
     exec (.encoderZEdge e) s = .next (finish s))

/-- Loss and return of an encoder signal set the flags and let the axes judge them -/
def Obligations.SignalLossIsJudged : Prop :=
  (∀ (e : Fin 32) (onB : Bool) (s : State),
     live s = true →
     (onB && !usesB s e.val) = false →
     exec (.encoderLossOfSignal e onB) s = .next (finish (forEach ((List.range 8).filter fun a => priOf s a == some e.val || bkpOf s a == some e.val) axisCheck
       (causeOn (0x040 + e.val) none 0x20 (ownerOf s 0x05 e.val) 0 (setB (ek e.val 4) 2 true (setB (ek e.val 4) (if onB then 1 else 0) true s)))))) ∧
  (∀ (e : Fin 32) (onB : Bool) (s : State),
     live s = true →
     rb (setB (ek e.val 4) (if onB then 1 else 0) false s) (ek e.val 4) 0 = false →
     rb (setB (ek e.val 4) (if onB then 1 else 0) false s) (ek e.val 4) 1 = false →
     exec (.encoderSignalReturn e onB) s = .next (finish (forEach ((List.range 8).filter fun a => priOf s a == some e.val || bkpOf s a == some e.val) axisCheck
       (causeOff (0x040 + e.val) none (setB (ek e.val 4) (if onB then 1 else 0) false s)))))

/-- A failover makes the backup active once, with its cause, and counts -/
def Obligations.FailoverRule : Prop :=
  (∀ (a c : Nat) (s : State),
     onBackup s a = false →
     a < 8 →
     c < 4 →
     rb s (ak a 0) 16 = false →
     onBackup (failover a c s) a = true ∧ rf (failover a c s) (ak a 0x10) 2 1 = c ∧ rd (failover a c s) (ak a 0x2C) = rd s (ak a 0x2C) + 1 ∧ (axis (failover a c s) a).pos = (axis s a).pos) ∧
  (∀ (a c : Nat) (s : State),
     onBackup s a = true →
     failover a c s = s)

/-- RATE updates, deferred tokens and the ends of trigger pulses -/
def Obligations.AxisAndGeneratorEvents : Prop :=
  (∀ (a : Fin 8) (s : State),
     live s = true →
     followsMaster s a.val = false →
     (((axis s a.val).odo - (((axis s a.val).odo :: (axis s a.val).hist).take 1025).getD (2 ^ rf s (ak a.val 0) 23 20) 0) * 1600000) % ((2 ^ rf s (ak a.val 0) 23 20 : Nat) : Int) = 0 →
     exec (.axisRateUpdate a) s = .next (finish (wr (ak a.val 0x1C) (intW ((((axis s a.val).odo -
         (((axis s a.val).odo :: (axis s a.val).hist).take 1025).getD (2 ^ rf s (ak a.val 0) 23 20) 0) * 1600000) / ((2 ^ rf s (ak a.val 0) 23 20 : Nat) : Int)))
       (modAxis a.val (fun y => { y with hist := ((axis s a.val).odo :: (axis s a.val).hist).take 1025 }) s)))) ∧
  (∀ (g : Fin 16) (t : Token) (ts : List Token) (d : Nat) (s : State),
     live s = true →
     (gen s g.val).backlog = t :: ts →
     (gen s g.val).lastDel = some d →
     d + 4000 ≤ s.tb →
     genMay s g.val = true →
     (gen s g.val).lock = false →
     exec (.tokenDeferredDelivery g) s = .next (finish (deliver t (modGen g.val (fun y => { y with backlog := ts }) s)))) ∧
  (∀ (g : Fin 16) (t : Token) (ts : List Token) (d : Nat) (s : State),
     live s = true →
     (gen s g.val).backlog = t :: ts →
     (gen s g.val).lastDel = some d →
     d + 4000 ≤ s.tb →
     genMay s g.val = false →
     (gen s g.val).lock = false →
     exec (.tokenDeferredDelivery g) s = .next (finish (raiseHw 0x002 none 0x22 (ownerOf s 0x07 g.val) (incR ⟨.part, 0, 0x300 + 4 * ownerOf s 0x07 g.val⟩ (modGen g.val (fun y => { y with backlog := ts }) s))))) ∧
  (∀ (g : Fin 16) (s : State),
     live s = true →
     (gen s g.val).lock = true →
     exec (.tokenDeferredDelivery g) s = .next (finish s)) ∧
  (∀ (g : Fin 16) (e : Nat) (s : State),
     live s = true →
     (gen s g.val).pulseEnd = some e →
     e ≤ s.tb →
     exec (.triggerPulseEnd g) s = .next (finish (modGen g.val (fun x => { x with pulseEnd := none }) s))) ∧
  (∀ (t : Token) (s : State),
     exported s t.gen = false →
     deliver t s = toTiles t (trigPulse t.gen
       (modGen t.gen (fun x => { x with count := x.count + 1, lastDel := some s.tb, lastCount := some t.count }) s)))

/-- An origin sends each kind of frame both ways round the ring (payload places, TIME's state byte and TRAIN's bytes: log entries 91, 105, 53) -/
def Obligations.SwarmFramesAreSent : Prop :=
  (∀ (i : Fin 16) (g k t : Nat) (ts : List (Nat × Nat × Nat)) (s : State),
     live s = true →
     s.sw.txTok = (g, k, t) :: ts →
     exec (.swarmFrameSend 0 i) s = .next (finish (sendNaks (originate 1 (leBytes g 1 ++ leBytes k 6 ++ leBytes t 4) (modSw (fun w => { w with txTok := ts }) s))))) ∧
  (∀ (i : Fin 16) (s : State),
     live s = true →
     swMaster s = true →
     outranked s 1 = false →
     exec (.swarmFrameSend 1 i) s = .next (finish (sendNaks (sendFrame 1 0 2 (leBytes s.tb 8 ++ leBytes (swState s) 1 ++ [0, 0]) s)))) ∧
  (∀ (i : Fin 16) (s : State),
     live s = true →
     rb s (swk 0) 3 = false →
     2 ≤ swState s →
     outranked s 2 = false →
     exec (.swarmFrameSend 2 i) s = .next (finish (sendNaks (sendFrame 2 0 3 (leBytes (swState s) 1 ++ leBytes (activeSummary s).1 1 ++ leBytes (activeSummary s).2 2 ++ leBytes (rf s (swk 0x20) 4 4) 1) s)))) ∧
  (∀ (i : Fin 16) (s : State),
     live s = true →
     swMaster s = true →
     rb s (swk 0x10) (i.val % 8) = true →
     outranked s 3 = false →
     exec (.swarmFrameSend 3 i) s = .next (finish (sendNaks (sendFrame 3 (i.val % 8) 4 (leBytes (i.val % 8) 1 ++ leBytes (axis s (i.val % 8)).pos.toNat 6 ++ leBytes (rd s (ak (i.val % 8) 0x1C)).toNat 4) s)))) ∧
  (∀ (i : Fin 16) (s : State),
     live s = true →
     swMaster s = true →
     rb s (swk 0x10) (16 + i.val) = true →
     outranked s 4 = false →
     exec (.swarmFrameSend 4 i) s = .next (finish (sendNaks (sendFrame 4 i.val 5 (leBytes i.val 1 ++ leBytes (((gen s i.val).nextT - BitVec.ofNat 64 ((gen s i.val).next * (rd s (gk i.val 4)).toNat)).toNat / 65536) 6 ++
       leBytes (rd s (gk i.val 4)).toNat 4) s)))) ∧
  (∀ (i : Fin 16) (s : State),
     live s = true →
     training s = true →
     outranked s 6 = false →
     exec (.swarmFrameSend 5 i) s = .next (finish (sendNaks (originate 7 (((freeWords 3 s).1.flatMap wordBytes).take 11) (freeWords 3 s).2)))) ∧
  (∀ (kind : Fin 6) (i : Fin 16) (s : State),
     live s = true →
     outranked s (if kind.val = 5 then 6 else kind.val) = true →
     exec (.swarmFrameSend kind i) s = .next (finish s)) ∧
  (∀ (s : State),
     outranked s 5 = false →
     sendNaks s = forEach s.sw.txNak (fun x u => sendOn x.1 x.2 u) (modSw (fun w => { w with txNak := [] }) s)) ∧
  (∀ (s : State),
     outranked s 5 = true →
     sendNaks s = s) ∧
  (∀ (east : Bool) (bs : List Byte) (s : State),
     s.rails.getLsbD 24 = true →
     sendOn east bs s = emit (.swarm east bs) (modSw (fun w =>
       if east then { w with sentE := (bs :: w.sentE).take 16 } else { w with sentW := (bs :: w.sentW).take 16 }) s))

/-- The first good copy of a frame goes on round the ring and has the effect of its kind (payload places: log entry 91; TRAIN only goes on: log entry 53) -/
def Obligations.SwarmFramesAreReceived : Prop :=
  (∀ (f : SwFrame) (s : State),
     live s = true →
     fresh 1 f s = true →
     followsToken f (heard 1 f s) = true →
     lateToken f (heard 1 f s) = false →
     (gdescPoint (heard 1 f s) (payNat f 0 1 % 16) (payNat f 1 6)).isSome = true →
     pinPowered s .swmRxEP = true →
     exec (.swarmTokenFrame f) s = .next (finish (modSw (fun w => { w with tokQ := w.tokQ ++ [(nearTime (heard 1 f s) (payNat f 7 4),
         ⟨payNat f 0 1 % 16, payNat f 1 6, ceilPos ((gdescPoint (heard 1 f s) (payNat f 0 1 % 16) (payNat f 1 6)).getD 0), false⟩)] }) (heard 1 f s)))) ∧
  (∀ (f : SwFrame) (s : State),
     live s = true →
     fresh 1 f s = true →
     followsToken f (heard 1 f s) = true →
     lateToken f (heard 1 f s) = true →
     (gdescPoint (heard 1 f s) (payNat f 0 1 % 16) (payNat f 1 6)).isSome = true →
     pinPowered s .swmRxEP = true →
     exec (.swarmTokenFrame f) s = .next (finish (modSw (fun w => { w with tokQ := w.tokQ ++ [(gridUp (incR (swk 0x3C) (heard 1 f s)) (heard 1 f s).tb,
         ⟨payNat f 0 1 % 16, payNat f 1 6, ceilPos ((gdescPoint (heard 1 f s) (payNat f 0 1 % 16) (payNat f 1 6)).getD 0), true⟩)] }) (incR (swk 0x3C) (heard 1 f s))))) ∧
  (∀ (f : SwFrame) (s : State),
     live s = true →
     fresh 2 f s = true →
     rb (heard 2 f s) (swk 0) 3 = false →
     swState (heard 2 f s) ≠ 3 →
     swState (heard 2 f s) ≠ 4 →
     pinPowered s .swmRxEP = true →
     exec (.swarmTimeFrame f) s = .next (finish (modSw (fun w => { w with lastTime := some (heard 2 f s).tb }) (heard 2 f s)))) ∧
  (∀ (f : SwFrame) (s : State),
     live s = true →
     fresh 2 f s = true →
     rb (heard 2 f s) (swk 0) 3 = false →
     swState (heard 2 f s) = 3 ∨ swState (heard 2 f s) = 4 →
     pinPowered s .swmRxEP = true →
     exec (.swarmTimeFrame f) s = .next (finish (setF (swk 0x20) 2 0 5 (modSw (fun w => { w with lastTime := some (heard 2 f s).tb, tokQ := [] }) (heard 2 f s))))) ∧
  (∀ (f : SwFrame) (s : State),
     live s = true →
     fresh 3 f s = true →
     rb (heard 3 f s) (swk 0) 3 = true →
     (heard 3 f s).sw.rx < 64 →
     rf (statusHeard f (heard 3 f s)) (swk 0x24) 7 0 = 0 →
     pinPowered s .swmRxEP = true →
     exec (.swarmStatusFrame f) s = .next (finish (causeOff 0x0B3 none (statusHeard f (heard 3 f s))))) ∧
  (∀ (f : SwFrame) (s : State),
     live s = true →
     fresh 3 f s = true →
     rb (heard 3 f s) (swk 0) 3 = true →
     (heard 3 f s).sw.rx < 64 →
     rf (statusHeard f (heard 3 f s)) (swk 0x24) 7 0 ≠ 0 →
     pinPowered s .swmRxEP = true →
     exec (.swarmStatusFrame f) s = .next (finish (statusHeard f (heard 3 f s)))) ∧
  (∀ (f : SwFrame) (s : State),
     live s = true →
     fresh 3 f s = true →
     rb (heard 3 f s) (swk 0) 3 = true →
     64 ≤ (heard 3 f s).sw.rx →
     pinPowered s .swmRxEP = true →
     exec (.swarmStatusFrame f) s = .next (finish (incR (swk 0x40) (heard 3 f s)))) ∧
  (∀ (f : SwFrame) (s : State),
     live s = true →
     fresh 4 f s = true →
     rb (heard 4 f s) (swk 0) 3 = false →
     axSwarm (heard 4 f s) (payNat f 0 1 % 8) = true →
     swState (heard 4 f s) = 2 →
     (heard 4 f s).sw.rsAxes.contains (payNat f 0 1 % 8) = false →
     pinPowered s .swmRxEP = true →
     exec (.swarmPosFrame f) s = .next (finish (updNoSrc (payNat f 0 1 % 8) (moveAxis (payNat f 0 1 % 8) (sdiff (BitVec.ofNat 48 (payNat f 1 6)) (axis (heard 4 f s) (payNat f 0 1 % 8)).pos) true
       (wr (ak (payNat f 0 1 % 8) 0x1C) (intW (sext 32 (payNat f 7 4))) (modSw (fun w => { w with pos := (payNat f 0 1 % 8, (BitVec.ofNat 48 (payNat f 1 6)).toNat, sext 32 (payNat f 7 4), (heard 4 f s).tb) :: w.pos.filter (fun x => x.1 != payNat f 0 1 % 8) }) (heard 4 f s))))))) ∧
  (∀ (f : SwFrame) (s : State),
     live s = true →
     fresh 5 f s = true →
     rb (heard 5 f s) (swk 0) 3 = false →
     pinPowered s .swmRxEP = true →
     exec (.swarmGdescFrame f) s = .next (finish ((let u := modSw (fun w => { w with gdesc := (payNat f 0 1 % 16, payNat f 1 6, payNat f 7 4) :: w.gdesc.filter (fun x => x.1 != payNat f 0 1 % 16) }) (heard 5 f s)
       if genAlone u (payNat f 0 1 % 16) && genArmed u (payNat f 0 1 % 16) then
         modGen (payNat f 0 1 % 16) (fun x => { x with nextT := (gdescPoint u (payNat f 0 1 % 16) x.next).getD x.nextT }) u else u)))) ∧
  (∀ (f : SwFrame) (b : List Byte) (s : State),
     live s = true →
     fresh 6 f s = true →
     (if f.seg then (heard 6 f s).sw.sentE else (heard 6 f s).sw.sentW).find? (fun b => b.getD 1 0 == BitVec.ofNat 8 (payNat f 1 1 + 16 * payNat f 0 1) && b.getD 2 0 == BitVec.ofNat 8 (payNat f 2 1)) = some b →
     (heard 6 f s).rails.getLsbD 24 = true →
     pinPowered s .swmRxEP = true →
     exec (.swarmNakFrame f) s = .next (finish (emit (.swarm f.seg b) (heard 6 f s)))) ∧
  (∀ (f : SwFrame) (s : State),
     live s = true →
     fresh 7 f s = true →
     pinPowered s .swmRxEP = true →
     exec (.swarmTrainFrame f) s = .next (finish (heard 7 f s))) ∧
  (∀ (typ : Nat) (f : SwFrame) (app : State → State) (s : State),
     swState s ≠ 0 →
     f.crcOk = false →
     f.resend = false →
     receive typ f app s = sendNaks (nakMade typ f s)) ∧
  (∀ (typ : Nat) (f : SwFrame) (app : State → State) (s : State),
     swState s ≠ 0 →
     f.crcOk = false →
     f.resend = true →
     s.sw.nak.any (nakNames typ f) = true →
     receive typ f app s = segFail f.seg s) ∧
  (∀ (f : SwFrame) (app : State → State) (s : State),
     swState s ≠ 0 →
     f.crcOk = true →
     f.resend = true →
     segFailed s f.seg = false →
     s.sw.nak.any (nakNames 2 f) = true →
     (remembered s).any (fun x => x.1 == 2 && x.2.1 == f.origin.val && x.2.2.1 == f.seq.toNat) = false →
     receive 2 f app s = app (heard 2 f (raiseHw 0x0B0 none 0x23 0 (incR (swk 0x30) (modSw (fun w => { w with nak := w.nak.filter (fun x => !nakNames 2 f x) }) s))))) ∧
  (∀ (typ : Nat) (f : SwFrame) (app : State → State) (s : State),
     swState s ≠ 0 →
     f.crcOk = true →
     f.resend = false →
     segFailed s f.seg = false →
     typ ≠ 6 →
     (remembered s).any (fun x => x.1 == typ && x.2.1 == f.origin.val && x.2.2.1 == f.seq.toNat) = true →
     receive typ f app s = forward typ f s)

/-- Segments fail, tokens of the ring are delivered, and holdover begins and ends (again from RELINKED: log entry 52; STATE at its end: log entries 109, 132) -/
def Obligations.SwarmLinkEvents : Prop :=
  (∀ (seg : Bool) (s : State),
     live s = true →
     (s.sw.nak.any fun x => x.1 == seg && decide (x.2.2.2 ≤ s.tb)) = true →
     exec (.swarmResendTimeout seg) s = .next (finish (segFail seg s))) ∧
  (∀ (seg : Bool) (s : State),
     live s = true →
     swState s ≠ 0 →
     segFailed s seg = false →
     exec (.swarmSegmentFail seg) s = .next (finish (causeOn 0x0B1 none 0x23 0 0 (incR (swk 0x34) (setB (swk 0x20) (if seg then 5 else 6) true
       (modSw (fun w => { w with nak := w.nak.filter (fun x => x.1 != seg), goodE := if seg then 0 else w.goodE, goodW := if seg then w.goodW else 0 }) s)))))) ∧
  (∀ (seg : Bool) (s : State),
     live s = true →
     swState s ≠ 0 →
     segFailed s seg = true →
     exec (.swarmSegmentFail seg) s = .next (finish (modSw (fun w => { w with nak := w.nak.filter (fun x => x.1 != seg), goodE := if seg then 0 else w.goodE, goodW := if seg then w.goodW else 0 }) s))) ∧
  (∀ (x : Nat × Token) (s : State),
     live s = true →
     s.sw.tokQ.find? (fun x => decide (x.1 ≤ s.tb)) = some x →
     rb s (swk 0) 3 = true →
     exec .swarmTokenDelivery s = .next (finish (toTiles x.2 (trigPulse x.2.gen (modSw (fun w => { w with tokQ := w.tokQ.erase x }) s))))) ∧
  (∀ (x : Nat × Token) (s : State),
     live s = true →
     s.sw.tokQ.find? (fun x => decide (x.1 ≤ s.tb)) = some x →
     rb s (swk 0) 3 = false →
     aboveLast x s = true →
     genMay s x.2.gen = true →
     swState s ≠ 6 →
     exec .swarmTokenDelivery s = .next (finish (resyncDone (ringDelivered x s)))) ∧
  (∀ (x : Nat × Token) (s : State),
     live s = true →
     s.sw.tokQ.find? (fun x => decide (x.1 ≤ s.tb)) = some x →
     rb s (swk 0) 3 = false →
     aboveLast x s = true →
     genMay s x.2.gen = true →
     swState s = 6 →
     s.sw.rsGens.contains x.2.gen = true →
     exec .swarmTokenDelivery s = .next (finish (resyncDone (toTiles x.2 (trigPulse x.2.gen (modGen x.2.gen (fun g => { g with count := g.count + 1, lastDel := some s.tb, lastCount := some x.2.count })
       (resyncSwitch x.2 (modSw (fun w => { w with tokQ := w.tokQ.erase x }) s)))))))) ∧
  (∀ (x : Nat × Token) (s : State),
     live s = true →
     s.sw.tokQ.find? (fun x => decide (x.1 ≤ s.tb)) = some x →
     rb s (swk 0) 3 = false →
     aboveLast x s = false →
     exec .swarmTokenDelivery s = .next (finish (modSw (fun w => { w with tokQ := w.tokQ.erase x }) s))) ∧
  (∀ (x : Nat × Token) (s : State),
     live s = true →
     s.sw.tokQ.find? (fun x => decide (x.1 ≤ s.tb)) = some x →
     rb s (swk 0) 3 = false →
     aboveLast x s = true →
     genMay s x.2.gen = false →
     exec .swarmTokenDelivery s = .next (finish (raiseHw 0x002 none 0x22 (ownerOf s 0x07 x.2.gen) (incR ⟨.part, 0, 0x300 + 4 * ownerOf s 0x07 x.2.gen⟩ (modSw (fun w => { w with tokQ := w.tokQ.erase x }) s))))) ∧
  (∀ (s : State),
     swState s ≠ 6 →
     resyncDone s = s) ∧
  (∀ (s : State),
     live s = true →
     rb s (swk 0) 3 = false →
     timeLost s = true →
     swState s = 2 →
     exec .swarmHoldoverStart s = .next (finish (forEach ((List.range 16).filter fun g => rb (inHoldover false s) (gk g 0) 4 && genArmed (inHoldover false s) g) genOwn (inHoldover false s)))) ∧
  (∀ (s : State),
     live s = true →
     rb s (swk 0) 3 = false →
     timeLost s = true →
     5 ≤ swState s →
     swState s ≠ 6 →
     exec .swarmHoldoverStart s = .next (finish (inHoldover true s))) ∧
  (∀ (s : State),
     live s = true →
     rb s (swk 0) 3 = false →
     timeLost s = true →
     swState s = 6 →
     exec .swarmHoldoverStart s = .next (finish (inHoldover true (resyncUndo s)))) ∧
  (∀ (t : Nat) (s : State),
     live s = true →
     s.sw.hold0 = some t →
     swAlone s = true →
     t + 1000000 * rf s (swk 0xC) 6 0 ≤ s.tb →
     swState s ≠ 3 ∨ rb s (swk 0) 7 = false ∨ anyLocal s = false →
     exec .swarmHoldoverEnd s = .next (finish (forEach ((List.range 8).filter (axSwarm s)) axisCheck (holdoverOver s)))) ∧
  (∀ (t : Nat) (s : State),
     live s = true →
     s.sw.hold0 = some t →
     swAlone s = true →
     t + 1000000 * rf s (swk 0xC) 6 0 ≤ s.tb →
     swState s = 3 →
     rb s (swk 0) 7 = true →
     anyLocal s = true →
     exec .swarmHoldoverEnd s = .next (finish (forEach ((List.range 8).filter (axSwarm s)) axisCheck (setF (swk 0x20) 2 0 4 (holdoverOver s))))) ∧
  (∀ (d : Fin 8) (x : Nat × Nat) (s : State),
     live s = true →
     s.sw.status.find? (fun x => x.1 == d.val) = some x →
     (swMaster s && d.val != swNode s && decide (d.val < swN s) && decide (x.2 + 12000 ≤ s.tb) && !rb s (swk 0x24) d.val) = true →
     exec (.swarmFollowerLost d) s = .next (finish (causeOn 0x0B3 none 0x23 0 0 (setB (swk 0x24) d.val true s)))) ∧
  (∀ (s : State),
     live s = true →
     64 ≤ s.sw.rx →
     exec .swarmReceiveDiscard s = .next (finish (incR (swk 0x40) s))) ∧
  (∀ (a : Fin 8) (x : Nat × Nat × Int × Nat) (s : State),
     live s = true →
     (!axSwarm s a.val || !swAlone s || followsMaster s a.val || s.sw.fall || s.sw.hold0.isNone) = false →
     s.sw.pos.find? (fun x => x.1 == a.val) = some x →
     exec (.holdoverExtrapolation a) s = .next (finish (moveAxis a.val (sdiff (posAdd (BitVec.ofNat 48 x.2.1) (x.2.2.1 * ((s.tb - x.2.2.2 : Nat) : Int) / 16000000000)) (axis s a.val).pos) true s)))

/-- Held completions, the watchdog, leases that run out, the debug port, BAR2, the SPI port, and links -/
def Obligations.ProcessorPortsAndLinks : Prop :=
  (∀ (q : Fin 65) (o : LongOp) (w : Word) (ws : List Word) (s : State),
     live s = true →
     s.ops.find? (fun o => o.q == q.val && o.held.isSome) = some o →
     o.held = some (w :: ws) →
     s.halted = false →
     s.restarting = false →
     canWrite s q.val = true →
     ws.length + 1 ≤ rplRoom s q.val →
     o.lost = false →
     exec (.completionDelivery q) s = .next (finish (dropOp q.val o.tag (putReply q.val (fld w 7 0) o.tag true o.notify ws s)))) ∧
  (∀ (s : State),
     live s = true →
     s.halted = false →
     s.restarting = false →
     s.insWait = [] →
     exec (.processorRestart none ) s = .next (finish (raiseHw 0x000 none 0x00 0 { s with restarting := true, aftRst := BitVec.allOnes 65 }))) ∧
  (∀ (a : Option (Fin 65)) (w : Waiting) (ws : List Waiting) (s : State),
     live s = true →
     s.halted = false →
     s.restarting = false →
     s.insWait = w :: ws →
     exec (.processorRestart a ) s = .next (finish (raiseHw 0x000 none 0x00 0 { abortWaiting w s with restarting := true, aftRst := BitVec.allOnes 65 }))) ∧
  (∀ (q : Fin 65) (s : State),
     live s = true →
     s.halted = false →
     s.restarting = false →
     s.insWait = [] →
     turn s = some q.val →
     headWhole s q.val = true →
     exec (.processorRestart (some q) ) s = .next (finish (raiseHw 0x000 none 0x00 0 { ledSub 7 q.val 4 1 (ledAdd 7 q.val 3 1 (incR (qk q.val 0x2C) (take q.val (headLen s q.val) s)))
       with restarting := true, aftRst := BitVec.allOnes 65 }))) ∧
  (∀ (s : State),
     live s = true →
     s.restarting = true →
     exec .processorRestartDone s = .next (finish (deliverHeld { s with restarting := false }))) ∧
  (∀ (l : Fin 128) (x : Lease) (s : State),
     live s = true →
     leaseOf s l.val = some x →
     x.rem = 0 →
     s.halted = false →
     exec (.leaseExpiry l) s = .next (finish { s with leases := s.leases.filter fun y => y.id != l.val })) ∧
  (∀ (addr : Word) (count : BitVec 8) (s : State),
     live s = true →
     pinPowered s .tck = true →
     s.dbgDis = false →
     exec (.debugRead addr count) s = .next (finish (emit (.data (readWords ⟨0, 65, 2⟩ count.toNat (addr.toNat / 4 * 4) s).1) (readWords ⟨0, 65, 2⟩ count.toNat (addr.toNat / 4 * 4) s).2))) ∧
  (∀ (addr : Word) (count : BitVec 8) (s : State),
     live s = true →
     pinPowered s .tck = true →
     s.dbgDis = true →
     exec (.debugRead addr count) s = .next (finish (emit (.data (List.replicate count.toNat 0)) s))) ∧
  (∀ (s : State),
     live s = true →
     pinPowered s .tck = true →
     s.dbgDis = false →
     s.insWait = [] →
     s.halted = false →
     exec .debugHalt s = .next (finish { s with halted := true, haltReq := false })) ∧
  (∀ (s : State),
     live s = true →
     pinPowered s .tck = true →
     s.dbgDis = false →
     s.insWait ≠ [] →
     s.halted = false →
     exec .debugHalt s = .next (finish { s with haltReq := true })) ∧
  (∀ (s : State),
     live s = true →
     pinPowered s .tck = true →
     s.dbgDis = false →
     exec .debugResume s = .next (finish (deliverHeld { s with halted := false, haltReq := false }))) ∧
  (∀ (port : Fin 8) (off : BitVec 24) (n a : Nat) (s : State),
     hostOn s port.val = true →
     (((List.range n).map fun i => (off.toNat + i) % 2 ^ 24).find? fun a => !portHas s port.val (ownerOf s 0x0E (a / 4096))) = some a →
     exec (.bar2Read port off n) s = .next (finish (report ⟨0x018 + port.val, none, 0, port.val, 0, 0, BitVec.ofNat 32 (0x30000000 + a), 0x80000000, false, false, none⟩
       (emit (.bytes (((List.range n).map fun i => (off.toNat + i) % 2 ^ 24).map fun a => if portHas s port.val (ownerOf s 0x0E (a / 4096)) then memRd memDflt s.mem a else 0)) s)))) ∧
  (∀ (port : Fin 8) (off : BitVec 24) (n : Nat) (s : State),
     hostOn s port.val = true →
     (((List.range n).map fun i => (off.toNat + i) % 2 ^ 24).find? fun a => !portHas s port.val (ownerOf s 0x0E (a / 4096))) = none →
     (((List.range n).map fun i => (off.toNat + i) % 2 ^ 24).all fun a => portHas s port.val (ownerOf s 0x0E (a / 4096))) = true →
     exec (.bar2Read port off n) s = .next (finish (emit (.bytes ((List.range n).map fun i => memRd memDflt s.mem ((off.toNat + i) % 2 ^ 24))) s))) ∧
  (∀ (port : Fin 8) (off : BitVec 24) (s : State),
     hostOn s port.val = true →
     exec (.bar2Write port off) s = .next (finish (satF (bpk port.val 0xC) 31 0 s))) ∧
  (∀ (addr : BitVec 16) (bytes : List Byte) (n : Nat) (s : State),
     live s = true →
     s.rails.getLsbD 24 = true →
     exec (.spiTransaction false addr bytes n) s = .next (emit (.bytes (spiRead s (addr.toNat % 0x4000) n)) s)) ∧
  (∀ (addr : BitVec 16) (bytes : List Byte) (n : Nat) (s : State),
     live s = true →
     s.rails.getLsbD 24 = true →
     exec (.spiTransaction true addr bytes n) s = .next (finish (spiWrite bytes [] (addr.toNat % 0x4000) s))) ∧
  (∀ (port : Fin 8) (s : State),
     s.por = false →
     roleOf s port.val = 1 →
     (link s port.val).up = true →
     exec (.hostLinkDown ⟨port, .down⟩) s = .next (finish (causeOn (0x028 + port.val) none 0x28 0 0 (modLink port.val (fun l => { l with up := false }) (opsLost port.val (cfgReset port.val (modLink port.val (fun l => { l with drain := true }) s))))))) ∧
  (∀ (port : Fin 8) (how : LinkLoss) (s : State),
     s.por = false →
     roleOf s port.val = 1 →
     (link s port.val).up = true →
     how ≠ .down →
     exec (.hostLinkDown ⟨port, how⟩) s = .next (finish (opsLost port.val (cfgReset port.val (modLink port.val (fun l => { l with drain := true }) s))))) ∧
  (∀ (port : Fin 8) (s : State),
     s.por = false →
     roleOf s port.val = 1 →
     (link s port.val).perst = true →
     (link s port.val).up = false →
     exec (.hostLinkUp port) s = .next (finish (causeOff (0x028 + port.val) none (modLink port.val (fun l => { l with up := true }) s)))) ∧
  (∀ (port : Fin 8) (s : State),
     pinPowered s (.perstN port.val) = true →
     exec (.perstRelease port) s = .next (finish (modLink port.val (fun l => { l with perst := true }) s))) ∧
  (∀ (port : Fin 8) (s : State),
     live s = true →
     (vget s.links port.val).due = true →
     (match (vget s.links port.val).lastMsg with | some t => decide (t + 10000 ≤ s.tb) | none => true) = true →
     exec (.faultNotifyDelayed port) s = .next (finish (notifyPort port.val { s with links := vmod s.links port.val fun l => { l with due := false } })))

/-- CAL_RUN, CAL_COMMIT, CAL_STATUS and CORR_LOAD start and answer -/
def Obligations.CalibrationCommands : Prop :=
  (∀ (p : Pkt) (s : State),
     runs 0x30 p s = true →
     p.pay.length = 8 →
     4 ≤ fld (word p 0) 3 0 →
     fld (word p 0) 3 0 ≤ 12 →
     fld (word p 7) 15 0 ≠ 0 →
     ((!bit (word p 0) 4 && !bit (word p 0) 5 && !bit (word p 0) 6) || (mask96 (word p 1) (word p 2) (word p 3)).isEmpty) = false →
     mayUse (sender p s) (mask96 (word p 1) (word p 2) (word p 3)) (taken p s) = true →
     ((mask96 (word p 4) (word p 5) (word p 6)).any fun n => ownerOf (taken p s) 0x04 n != sender p s || busy (taken p s) 0x04 n) = false →
     (bit (word p 0) 7 == (mask96 (word p 4) (word p 5) (word p 6)).isEmpty) = false →
     (bit (word p 0) 4 || bit (word p 0) 5) = true →
     ((mask96 (word p 1) (word p 2) (word p 3)).any fun n => !armed (taken p s) n) = false →
     opsFull (taken p s) p.q.val = false →
     exec (.calRun p) s = .next (finish (calBegin p.q.val p.tag.toNat (firstReply p.q.val 0x01 p.tag.toNat (p.flags.getLsbD 0) []
       (forEach (mask96 (word p 1) (word p 2) (word p 3)) (fun n t => wr (ck n 0x50) 0 (modChan n (fun x => { x with calRes := 0 }) t))
         (started p (sender p s) (.calRun (calAsked p s)) (taken p s))))))) ∧
  (∀ (p : Pkt) (s : State),
     runs 0x31 p s = true →
     p.pay.length = 7 →
     bit (word p 0) 0 = true →
     (mask96 (word p 4) (word p 5) (word p 6)).isEmpty = false →
     mayUse (sender p s) (mask96 (word p 4) (word p 5) (word p 6)) (taken p s) = true →
     ((mask96 (word p 4) (word p 5) (word p 6)).any fun n => armed (taken p s) n) = false →
     ((mask96 (word p 4) (word p 5) (word p 6)).any fun n => !rb (taken p s) (ck n 0) 1) = false →
     opsFull (taken p s) p.q.val = false →
     exec (.calCommit p) s = .next (finish (commitNow p.q.val p.tag.toNat (firstReply p.q.val 0x01 p.tag.toNat (p.flags.getLsbD 0) []
       (started p (sender p s) (.calCommit (mask96 (word p 4) (word p 5) (word p 6)) (mask96 (word p 4) (word p 5) (word p 6)) 0 (s.tb + 1000000 * fld (word p 3) 15 0) 0 none) (taken p s)))))) ∧
  (∀ (p : Pkt) (s : State),
     runs 0x31 p s = true →
     p.pay.length = 7 →
     bit (word p 0) 0 = false →
     1 ≤ fld (word p 3) 15 0 →
     fld (word p 3) 15 0 ≤ 60000 →
     (mask96 (word p 4) (word p 5) (word p 6)).isEmpty = false →
     mayUse (sender p s) (mask96 (word p 4) (word p 5) (word p 6)) (taken p s) = true →
     ((mask96 (word p 4) (word p 5) (word p 6)).any fun n => !armed (taken p s) n) = false →
     ((mask96 (word p 4) (word p 5) (word p 6)).any fun n => !rb (taken p s) (ck n 0) 1) = false →
     ((mask96 (word p 4) (word p 5) (word p 6)).any fun n => startedAt (taken p s) n (lineNo p 1)) = false →
     opsFull (taken p s) p.q.val = false →
     exec (.calCommit p) s = .next (replied p 0x01 [] (started p (sender p s) (.calCommit (mask96 (word p 4) (word p 5) (word p 6)) (mask96 (word p 4) (word p 5) (word p 6)) (lineNo p 1) (s.tb + 1000000 * fld (word p 3) 15 0) 0 none)
       (forEach (mask96 (word p 4) (word p 5) (word p 6)) (fun n t => setF (ck n 0) 6 4 5 t) (taken p s))))) ∧
  (∀ (p : Pkt) (s : State),
     runs 0x32 p s = true →
     p.pay.length = 1 →
     fld (word p 0) 6 0 ≤ 95 →
     (ownerOf (taken p s) 0x02 (fld (word p 0) 6 0) != sender p s && sender p s != 0) = false →
     exec (.calStatus p) s = .next (replied p 0 ([0, 0x40, 0x44, 0x48, 0x4C, 0x50, 0x54, 0x58, 0x5C, 0x60].map fun o => rd (taken p s) (ck (fld (word p 0) 6 0) o)) (taken p s))) ∧
  (∀ (p : Pkt) (s : State),
     runs 0x33 p s = true →
     p.pay.length = 3 →
     fld (word p 0) 6 0 ≤ 95 →
     (word p 1).toNat % 4 = 0 →
     0x30000000 ≤ (word p 1).toNat →
     1 ≤ fld (word p 2) 30 16 →
     fld (word p 2) 14 0 + fld (word p 2) 30 16 ≤ 16384 →
     (word p 1).toNat + 4 * fld (word p 2) 30 16 ≤ 0x31000000 →
     mayUse (sender p s) [fld (word p 0) 6 0] (taken p s) = true →
     ((List.range ((((word p 1).toNat - 0x30000000) + 4 * fld (word p 2) 30 16 - 1) / 4096 + 1 - ((word p 1).toNat - 0x30000000) / 4096)).any fun k => ownerOf (taken p s) 0x0E (((word p 1).toNat - 0x30000000) / 4096 + k) != sender p s) = false →
     opsFull (taken p s) p.q.val = false →
     exec (.corrLoad p) s = .next (replied p 0x01 [] (started p (sender p s) (.corrLoad (fld (word p 0) 6 0) ((word p 1).toNat - 0x30000000) (fld (word p 2) 14 0) (fld (word p 2) 30 16)) (setF (ck (fld (word p 0) 6 0) 0) 6 4 4 (setB (ck (fld (word p 0) 6 0) 0) 1 false (taken p s))))))

/-- The compute stage, the timeout, the deadline and the end of CORR_LOAD -/
def Obligations.CalibrationEvents : Prop :=
  (∀ (q : Fin 65) (tag : BitVec 8) (o : LongOp) (c : CalSt) (s : State),
     live s = true →
     opOf s q.val tag.toNat = some o →
     o.kind = .calRun c →
     c.stage = 2 →
     c.compute = true →
     exec (.calComputeDone q tag) s = .next (finish (calFinish q.val tag.toNat c (forEach (c.chans.filter fun n => (chan s n).calRes == 0) (computeChan c) s)))) ∧
  (∀ (q : Fin 65) (tag : BitVec 8) (o : LongOp) (c : CalSt) (s : State),
     live s = true →
     opOf s q.val tag.toNat = some o →
     o.kind = .calRun c →
     c.stage < 2 →
     c.tmo ≤ s.tb →
     exec (.calRunTimeout q tag) s = .next (finish (calStage q.val tag.toNat { c with stage := 2 } (forEach c.chans (fun n t => modChan n (fun x =>
         { x with calRes := if x.calRes = 0 ∧ (x.calLeft ≠ 0 ∨ decide (calNext c = 1) = true) then 5 else x.calRes, calLeft := 0 }) t)
       (calLight c (calValid c s)))))) ∧
  (∀ (q : Fin 65) (tag : BitVec 8) (o : LongOp) (left all : List Nat) (l dl late : Nat) (s : State),
     live s = true →
     opOf s q.val tag.toNat = some o →
     o.kind = .calCommit left all l dl late none →
     dl ≤ s.tb →
     exec (.calCommitDeadline q tag) s = .next (finish (complete q.val tag.toNat 0x0B [0xFF] (forEach all (fun n t => setF (ck n 0) 6 4 0 t) s)))) ∧
  (∀ (n : Fin 96) (o : LongOp) (src first count : Nat) (s : State),
     live s = true →
     loadOp s n.val = some o →
     o.kind = .corrLoad n.val src first count →
     ((shadow n.val (loaded n.val src first count s)).findIdx? fun e => !entDef e && !inLimits (loaded n.val src first count s) n.val (entOfs e) (entGain e)) = none →
     checkShadow (loaded n.val src first count s) n.val (countBad (shadow n.val (loaded n.val src first count s))) (countMoved (loaded n.val src first count s) n.val (bankEnts (loaded n.val src first count s) n.val (actBank (loaded n.val src first count s) n.val)) (shadow n.val (loaded n.val src first count s))) = 0 →
     exec (.corrLoadDone n) s = .next (finish (complete o.q o.tag 0 [rd (loadPassed n.val (loaded n.val src first count s)) (ck n.val 0x4C)]
       (setB (ck n.val 0) 1 true (loadPassed n.val (loaded n.val src first count s))))))

/-- ARM and DISARM of channels and generators -/
def Obligations.ChannelsAndGeneratorsArm : Prop :=
  (∀ (p : Pkt) (s : State),
     runs 0x40 p s = true →
     p.pay.length = 4 →
     fld (word p 0) 1 0 = 0 →
     fld (word p 0) 11 8 = 0 →
     (mask96 (word p 1) (word p 2) (word p 3)).isEmpty = false →
     ((mask96 (word p 1) (word p 2) (word p 3)).any fun n => ownerOf (taken p s) 0x02 n != sender p s) = false →
     armRefused (taken p s) (mask96 (word p 1) (word p 2) (word p 3)) = none →
     pwrCur (taken p s) = 0 →
     exec (.armChannels p) s = .next (replied p 0 [] (forEach (mask96 (word p 1) (word p 2) (word p 3)) (fun n t => setB (vk n 0x20) 0 true t) (taken p s)))) ∧
  (∀ (p : Pkt) (s : State),
     runs 0x40 p s = true →
     p.pay.length = 1 →
     fld (word p 0) 1 0 = 1 →
     ownerOf (taken p s) 0x07 (fld (word p 0) 11 8) = sender p s →
     busy (taken p s) 0x07 (fld (word p 0) 11 8) = false →
     rb (taken p s) (gk (fld (word p 0) 11 8) 0) 4 = false →
     genArmed (taken p s) (fld (word p 0) 11 8) = false →
     pwrCur (taken p s) = 0 →
     rb (taken p s) (gk (fld (word p 0) 11 8) 0) 3 = true →
     1 ≤ sext 48 (genStart (taken p s) (fld (word p 0) 11 8)).toNat →
     exec (.armGenerator p) s = .next (replied p 0 [] (armGen (fld (word p 0) 11 8) ((axis (taken p s) (rf (taken p s) (gk (fld (word p 0) 11 8) 0) 2 0)).pos + genStart (taken p s) (fld (word p 0) 11 8)) (taken p s)))) ∧
  (∀ (p : Pkt) (s : State),
     runs 0x40 p s = true →
     p.pay.length = 1 →
     fld (word p 0) 1 0 = 1 →
     ownerOf (taken p s) 0x07 (fld (word p 0) 11 8) = sender p s →
     busy (taken p s) 0x07 (fld (word p 0) 11 8) = false →
     rb (taken p s) (gk (fld (word p 0) 11 8) 0) 4 = false →
     genArmed (taken p s) (fld (word p 0) 11 8) = false →
     pwrCur (taken p s) = 0 →
     rb (taken p s) (gk (fld (word p 0) 11 8) 0) 3 = false →
     0 < sdiff (genStart (taken p s) (fld (word p 0) 11 8)) (axis (taken p s) (rf (taken p s) (gk (fld (word p 0) 11 8) 0) 2 0)).pos →
     exec (.armGenerator p) s = .next (replied p 0 [] (armGen (fld (word p 0) 11 8) (genStart (taken p s) (fld (word p 0) 11 8)) (taken p s)))) ∧
  (∀ (p : Pkt) (s : State),
     runs 0x40 p s = true →
     p.pay.length = 1 →
     fld (word p 0) 1 0 = 1 →
     ownerOf (taken p s) 0x07 (fld (word p 0) 11 8) = sender p s →
     busy (taken p s) 0x07 (fld (word p 0) 11 8) = false →
     rb (taken p s) (gk (fld (word p 0) 11 8) 0) 4 = true →
     genArmed (taken p s) (fld (word p 0) 11 8) = false →
     pwrCur (taken p s) = 0 →
     exec (.armGenerator p) s = .next (replied p 0 [] (armRing (fld (word p 0) 11 8) (if rb (taken p s) (gk (fld (word p 0) 11 8) 0) 3 then (axis (taken p s) (rf (taken p s) (gk (fld (word p 0) 11 8) 0) 2 0)).pos + genStart (taken p s) (fld (word p 0) 11 8) else genStart (taken p s) (fld (word p 0) 11 8)) (taken p s)))) ∧
  (∀ (p : Pkt) (s : State),
     runs 0x41 p s = true →
     p.pay.length = 4 →
     fld (word p 0) 1 0 = 0 →
     fld (word p 0) 11 8 = 0 →
     (mask96 (word p 1) (word p 2) (word p 3)).isEmpty = false →
     mayUse (sender p s) (mask96 (word p 1) (word p 2) (word p 3)) (taken p s) = true →
     exec (.disarmChannels p) s = .next (replied p 0 [] (forEach (mask96 (word p 1) (word p 2) (word p 3)) disarmChan (taken p s)))) ∧
  (∀ (p : Pkt) (s : State),
     runs 0x41 p s = true →
     p.pay.length = 1 →
     fld (word p 0) 1 0 = 1 →
     ownerOf (taken p s) 0x07 (fld (word p 0) 11 8) = sender p s →
     busy (taken p s) 0x07 (fld (word p 0) 11 8) = false →
     genArmed (taken p s) (fld (word p 0) 11 8) = true →
     exec (.disarmGenerator p) s = .next (replied p 0 [] (disarmGen (fld (word p 0) 11 8) (taken p s))))

/-- SYNC, FREEZE and STATS_SNAP -/
def Obligations.LineCommands : Prop :=
  (∀ (p : Pkt) (s : State),
     runs 0x42 p s = true →
     p.pay.length = 6 →
     (mask96 (word p 3) (word p 4) (word p 5)).isEmpty = false →
     mayUse (sender p s) (mask96 (word p 3) (word p 4) (word p 5)) (taken p s) = true →
     ((mask96 (word p 3) (word p 4) (word p 5)).any fun n => rb (taken p s) (fk n 0x40) 4) = false →
     ((mask96 (word p 3) (word p 4) (word p 5)).any fun n => !bit (word p 0) 0 && startedAt (taken p s) n (lineNo p 1)) = false →
     exec (.sync p) s = .next (replied p 0 [] (forEach (mask96 (word p 3) (word p 4) (word p 5)) (syncSet (bit (word p 0) 0) (bit (word p 0) 1) (lineNo p 1)) (taken p s)))) ∧
  (∀ (p : Pkt) (s : State),
     runs 0x43 p s = true →
     p.pay.length = 4 →
     bit (word p 0) 0 = true →
     (mask96 (word p 1) (word p 2) (word p 3)).isEmpty = false →
     mayUse (sender p s) (mask96 (word p 1) (word p 2) (word p 3)) (taken p s) = true →
     exec (.freeze p) s = .next (replied p 0 [] (forEach (mask96 (word p 1) (word p 2) (word p 3)) (fun n t => setFrz n true t) (taken p s)))) ∧
  (∀ (p : Pkt) (s : State),
     runs 0x43 p s = true →
     p.pay.length = 4 →
     bit (word p 0) 0 = false →
     (mask96 (word p 1) (word p 2) (word p 3)).isEmpty = false →
     mayUse (sender p s) (mask96 (word p 1) (word p 2) (word p 3)) (taken p s) = true →
     exec (.freezeRelease p) s = .next (replied p 0 [] (forEach (mask96 (word p 1) (word p 2) (word p 3)) (fun n t => setFrz n false t) (taken p s)))) ∧
  (∀ (p : Pkt) (s : State),
     runs 0x44 p s = true →
     p.pay.length = 2 →
     1 ≤ fld (word p 0) 26 16 →
     fld (word p 0) 9 0 + fld (word p 0) 26 16 ≤ 1024 →
     (word p 1).toNat % 16 = 0 →
     0x30000000 ≤ (word p 1).toNat →
     (word p 1).toNat + 48 * fld (word p 0) 26 16 ≤ 0x31000000 →
     ((List.range (fld (word p 0) 26 16)).any fun i => ownerOf (taken p s) 0x08 (fld (word p 0) 9 0 + i) != sender p s) = false →
     ((List.range (((word p 1).toNat - 0x30000000 + 48 * fld (word p 0) 26 16 - 1) / 4096 + 1)).any fun x => decide (((word p 1).toNat - 0x30000000) / 4096 ≤ x) && ownerOf (taken p s) 0x0E x != sender p s) = false →
     ((List.range (fld (word p 0) 26 16)).any fun i => busy (taken p s) 0x08 (fld (word p 0) 9 0 + i)) = false →
     ((List.range (((word p 1).toNat - 0x30000000 + 48 * fld (word p 0) 26 16 - 1) / 4096 + 1 - ((word p 1).toNat - 0x30000000) / 4096)).any fun x => busy (taken p s) 0x0E (((word p 1).toNat - 0x30000000) / 4096 + x)) = false →
     exec (.statsSnap p) s = .next (replied p 0 [lo32 s.tb, hi32 s.tb, BitVec.ofNat 32 (fld (word p 0) 26 16)] (snapZones (fld (word p 0) 26 16) (fld (word p 0) 9 0) ((word p 1).toNat - 0x30000000) (taken p s))))

/-- ACT_INSERT enters the buffer; ACT_CANCEL and ACT_QUERY select entries -/
def Obligations.ActionCommands : Prop :=
  (∀ (p : Pkt) (s : State),
     runs 0x50 p s = true →
     p.pay.length = 6 →
     s.insBuf.length < 1024 →
     actBad (word p 3) (word p 4) = false →
     inUse (taken p s) 0x06 (fld (word p 0) 2 0) (sender p s) = true →
     (match actTarget (word p 3) with | some (cls, i) => ownerOf (taken p s) cls i == sender p s | none => true) = true →
     ((actTarget (word p 3)).any fun x => busy (taken p s) x.1 x.2) = false →
     exec (.actInsert p) s = .next (finish { insPeak { taken p s with insBuf := s.insBuf ++ [⟨fld (word p 0) 2 0, BitVec.ofNat 48 ((word p 1).toNat + 2 ^ 32 * fld (word p 2) 15 0), word p 3, word p 4, word p 5, bit (word p 0) 3, sender p s, some ⟨p.q.val, p.tag.toNat, p.flags.getLsbD 0, sender p s⟩⟩] } with
       insWait := s.insWait ++ [⟨p.q.val, p.tag.toNat, p.flags.getLsbD 0, sender p s⟩] })) ∧
  (∀ (p : Pkt) (s : State),
     runs 0x51 p s = true →
     p.pay.length = 6 →
     (sender p s != 0 && fld (word p 0) 4 0 != sender p s) = false →
     exec (.actCancel p) s = .next (replied p 0 [BitVec.ofNat 32 ((taken p s).paq.filter (selects (word p))).length] (removeEntries (selects (word p)) 3 (taken p s)))) ∧
  (∀ (p : Pkt) (s : State),
     runs 0x52 p s = true →
     p.pay.length = 6 →
     (sender p s != 0 && fld (word p 0) 4 0 != sender p s) = false →
     exec (.actQuery p) s = .next (replied p 0 ([BitVec.ofNat 32 ((taken p s).paq.filter (selects (word p))).length] ++ (keyOf (nearestE (taken p s) ((taken p s).paq.filter (selects (word p))))).1 ++
         (keyOf (farthestE (taken p s) ((taken p s).paq.filter (selects (word p))))).1 ++
         [BitVec.ofNat 32 ((keyOf (nearestE (taken p s) ((taken p s).paq.filter (selects (word p))))).2 + 256 * (keyOf (farthestE (taken p s) ((taken p s).paq.filter (selects (word p))))).2)]) (taken p s)))

/-- MOLT, FENCE, UNFENCE and SELFTEST are accepted and applied -/
def Obligations.MoltAndFenceCommands : Prop :=
  (∀ (p : Pkt) (s : State),
     runs 0x60 p s = true →
     p.pay.length = 4 →
     fld (word p 0) 6 0 ≤ 95 →
     1 ≤ fld (word p 3) 15 0 →
     fld (word p 3) 15 0 ≤ 60000 →
     fld (word p 0) 14 8 = 0x7F ∨ fld (word p 0) 14 8 / 12 = fld (word p 0) 6 0 / 12 →
     moltRefusal (cmdOf 0x60 p s) (taken p s) (fld (word p 0) 6 0) (chanOf (taken p s) (fld (word p 0) 6 0)) (if fld (word p 0) 14 8 = 0x7F then none else some (fld (word p 0) 14 8)) (bit (word p 0) 16) (lineNo p 1) = none →
     opsFull (taken p s) p.q.val = false →
     exec (.molt p) s = .next (replied p 0x01 [] (started p (sender p s) (.molt (fld (word p 0) 6 0)) { taken p s with molts := (taken p s).molts ++ [⟨fld (word p 0) 6 0, chanOf (taken p s) (fld (word p 0) 6 0), (if fld (word p 0) 14 8 = 0x7F then none else some (fld (word p 0) 14 8)), bit (word p 0) 16, bit (word p 0) 17, lineNo p 1, s.tb + 1000000 * fld (word p 3) 15 0, false, false⟩] }))) ∧
  (∀ (p : Pkt) (s : State),
     runs 0x61 p s = true →
     p.pay.length = 3 →
     fld (word p 0) 6 0 ≤ 95 →
     mayUse (sender p s) [(fld (word p 0) 6 0)] (taken p s) = true →
     (!bit (word p 0) 16 && startedAt (taken p s) (fld (word p 0) 6 0) (lineNo p 1)) = false →
     exec (.fence p) s = .next (replied p 0 [] (if bit (word p 0) 16 then fenceNow (fld (word p 0) 6 0) (taken p s) else fenceAt (fld (word p 0) 6 0) (lineNo p 1) (taken p s)))) ∧
  (∀ (p : Pkt) (s : State),
     runs 0x62 p s = true →
     p.pay.length = 1 →
     fld (word p 0) 6 0 ≤ 95 →
     mayUse (sender p s) [(fld (word p 0) 6 0)] (taken p s) = true →
     fenced (taken p s) (fld (word p 0) 6 0) = true →
     ((headOf (taken p s) (fld (word p 0) 6 0)).isSome || armed (taken p s) (fld (word p 0) 6 0)) = false →
     exec (.unfence p) s = .next (replied p 0 [] (setB (hk (fld (word p 0) 6 0) 0) 0 true (wr (hk (fld (word p 0) 6 0) 0xC) 0 (wr (hk (fld (word p 0) 6 0) 0x10) 0 (setB (hk (fld (word p 0) 6 0) 8) 8 false (taken p s))))))) ∧
  (∀ (p : Pkt) (s : State),
     runs 0x63 p s = true →
     p.pay.length = 1 →
     fld (word p 0) 6 0 ≤ 95 →
     mayUse (sender p s) [(fld (word p 0) 6 0)] (taken p s) = true →
     armed (taken p s) (fld (word p 0) 6 0) = false →
     rb (taken p s) (tk ((fld (word p 0) 6 0) / 12) 4) 1 = true →
     opsFull (taken p s) p.q.val = false →
     exec (.selftest p) s = .next (replied p 0x01 [] (pathReset (fld (word p 0) 6 0) (started p (sender p s) (.selftest (fld (word p 0) 6 0)) (modChan (fld (word p 0) 6 0) (fun x => { x with stFail := false }) (taken p s))))))

/-- The copy and the deadline of a MOLT, and the attempts of SELFTEST -/
def Obligations.MoltAndSelfTestEvents : Prop :=
  (∀ (h : Fin 96) (m : MoltSt) (o n : Nat) (s : State),
     live s = true →
     moltOf s h.val = some m →
     m.copied = false →
     m.imm = false →
     m.old = some o →
     m.new = some n →
     (chan s n).line = none →
     exec (.moltCopyDone h) s = .next (finish { calInvalid n (copyBanks o n (copySettings o n s)) with
       molts := (calInvalid n (copyBanks o n (copySettings o n s))).molts.map fun x => if x.head = h.val then { x with copied := true } else x })) ∧
  (∀ (h : Fin 96) (m : MoltSt) (o n : Nat) (s : State),
     live s = true →
     moltOf s h.val = some m →
     m.copied = false →
     m.imm = true →
     m.old = some o →
     m.new = some n →
     (chan s n).line = none →
     exec (.moltCopyDone h) s = .next (finish (moltSwitch m 0 (calInvalid n (copyBanks o n (copySettings o n s)))))) ∧
  (∀ (h : Fin 96) (m : MoltSt) (n : Nat) (s : State),
     live s = true →
     moltOf s h.val = some m →
     m.new = some n →
     (chan s n).line.isSome = true →
     exec (.moltCopyDone h) s = .next (finish s)) ∧
  (∀ (h : Fin 96) (m : MoltSt) (s : State),
     live s = true →
     moltOf s h.val = some m →
     m.deadline ≤ s.tb →
     exec (.moltDeadline h) s = .next (finish (moltTooLate m s))) ∧
  (∀ (n : Fin 96) (lo hi : Int) (s : State),
     live s = true →
     (chan s n.val).line.isSome = true →
     exec (.selftestAttemptEnd n lo hi) s = .next (finish s)) ∧
  (∀ (n : Fin 96) (lo hi : Int) (o : LongOp) (s : State),
     live s = true →
     (chan s n.val).line.isSome = false →
     s.ops.find? (fun o => o.kind == .selftest n.val) = some o →
     (decide (32 < lo.natAbs) || decide (32 < hi.natAbs)) = true →
     (chan s n.val).stFail = false →
     exec (.selftestAttemptEnd n lo hi) s = .next (finish (modChan n.val (fun x => { x with stFail := true }) s))) ∧
  (∀ (n : Fin 96) (lo hi : Int) (o : LongOp) (s : State),
     live s = true →
     (chan s n.val).line.isSome = false →
     s.ops.find? (fun o => o.kind == .selftest n.val) = some o →
     (decide (32 < lo.natAbs) || decide (32 < hi.natAbs)) = false →
     (chan s n.val).stFail = false →
     exec (.selftestAttemptEnd n lo hi) s = .next (finish (complete o.q o.tag 0
       [rd (causeOff (0x102 + 16 * (n.val / 12)) (some (n.val % 12)) (setB (vk n.val 0x20) 1 false
         (wr (vk n.val 0x34) (BitVec.ofNat 32 (sat7 lo + 256 * sat7 hi + 65536)) (modChan n.val (fun x => { x with stFail := false }) s)))) (vk n.val 0x34)]
       (causeOff (0x102 + 16 * (n.val / 12)) (some (n.val % 12)) (setB (vk n.val 0x20) 1 false
         (wr (vk n.val 0x34) (BitVec.ofNat 32 (sat7 lo + 256 * sat7 hi + 65536)) (modChan n.val (fun x => { x with stFail := false }) s))))))) ∧
  (∀ (n : Fin 96) (lo hi : Int) (o : LongOp) (s : State),
     live s = true →
     (chan s n.val).line.isSome = false →
     s.ops.find? (fun o => o.kind == .selftest n.val) = some o →
     (decide (32 < lo.natAbs) || decide (32 < hi.natAbs)) = true →
     (chan s n.val).stFail = true →
     exec (.selftestAttemptEnd n lo hi) s = .next (finish (autoMolt n.val (complete o.q o.tag 0
       [rd (causeOn (0x102 + 16 * (n.val / 12)) (some (n.val % 12)) (0x10 + n.val / 12) (ownerOf s 0x02 n.val) 0 (setB (vk n.val 0x20) 1 true (satF (vk n.val 0x38) 31 16
         (wr (vk n.val 0x34) (BitVec.ofNat 32 (sat7 lo + 256 * sat7 hi + 65536 * 3)) (modChan n.val (fun x => { x with stFail := false }) s))))) (vk n.val 0x34)]
       (causeOn (0x102 + 16 * (n.val / 12)) (some (n.val % 12)) (0x10 + n.val / 12) (ownerOf s 0x02 n.val) 0 (setB (vk n.val 0x20) 1 true (satF (vk n.val 0x38) 31 16
         (wr (vk n.val 0x34) (BitVec.ofNat 32 (sat7 lo + 256 * sat7 hi + 65536 * 3)) (modChan n.val (fun x => { x with stFail := false }) s)))))))))

/-- BIT_BEGIN, BIT_DATA and BIT_END, and the end of a session -/
def Obligations.LoadSessions : Prop :=
  (∀ (p : Pkt) (s : State),
     runs 0x70 p s = true →
     p.pay.length = 7 →
     (dW (p.pay.drop 1) 0 != 0x46514254 || fld (dW (p.pay.drop 1) 1) 31 24 != 1 || (regionsOf (dW (p.pay.drop 1) 2)).isEmpty || (dW (p.pay.drop 1) 3).toNat != 164 * (regionsOf (dW (p.pay.drop 1) 2)).length) = false →
     ((regionsOf (dW (p.pay.drop 1) 2)).any fun r => regOwner (taken p s) r != sender p s) = false →
     (fld (dW (p.pay.drop 1) 1) 15 0 != 0x7196 || fld (dW (p.pay.drop 1) 1) 23 16 != 0x60) = false →
     (((taken p s).fabAuth && !bit (dW (p.pay.drop 1) 2) 8) || (bit (dW (p.pay.drop 1) 2) 8 && !keySet (taken p s))) = false →
     (regionsOf (dW (p.pay.drop 1) 2)).any (regionHeld (taken p s)) = false →
     exec (.bitBegin p) s = .next (replied p 0 [BitVec.ofNat 32 ((regionsOf (dW (p.pay.drop 1) 2)).headD 0)] (forEach (regionsOf (dW (p.pay.drop 1) 2)) (fun r t => setB (fbk r 0) 3 true t) { taken p s with sessions := (taken p s).sessions ++ [⟨(regionsOf (dW (p.pay.drop 1) 2)).headD 0, sender p s, bit (word p 0) 0, (p.pay.drop 1), 0, 0, [], [], false, 1000000000, none⟩] }))) ∧
  (∀ (p : Pkt) (x : Session) (s : State),
     runs 0x71 p s = true →
     p.pay.length = 130 →
     sessionOf (taken p s) (fld (word p 0) 2 0) = some x →
     (x.part != sender p s || x.fin.isSome) = false →
     (fld (word p 0) 10 8 != x.chunk || fld (word p 0) 26 16 != x.frame || decide ((dW x.hdr 3).toNat ≤ x.frame)) = false →
     fld (word p 0) 10 8 < 7 →
     exec (.bitData p) s = .next (replied p 0 [] (putSession { x with buf := x.buf ++ ((p.pay.drop 1).take 128).flatMap wordBytes, chunk := fld (word p 0) 10 8 + 1, rem := 1000000000 } (taken p s)))) ∧
  (∀ (p : Pkt) (x : Session) (s : State),
     runs 0x71 p s = true →
     p.pay.length = 130 →
     sessionOf (taken p s) (fld (word p 0) 2 0) = some x →
     (x.part != sender p s || x.fin.isSome) = false →
     (fld (word p 0) 10 8 != x.chunk || fld (word p 0) 26 16 != x.frame || decide ((dW x.hdr 3).toNat ≤ x.frame)) = false →
     fld (word p 0) 10 8 = 7 →
     (crc32 (x.buf ++ ((p.pay.drop 1).take 128).flatMap wordBytes) == word p 129) = true →
     exec (.bitData p) s = .next (replied p 0 [] (putSession { x with buf := [], chunk := 0, frame := x.frame + 1, data := x.data ++ (x.buf ++ ((p.pay.drop 1).take 128).flatMap wordBytes), failed := false, rem := 1000000000 }
       (if x.data.isEmpty then forEach x.regions (fun r t => setRegion r 1 (regionClear r t)) (taken p s) else taken p s)))) ∧
  (∀ (p : Pkt) (x : Session) (s : State),
     runs 0x72 p s = true →
     sessionOf (taken p s) (fld (word p 0) 2 0) = some x →
     (x.part != sender p s || x.fin.isSome) = false →
     p.pay.length = (if bit (dW x.hdr 2) 8 then 6 else 2) →
     opsFull (taken p s) p.q.val = false →
     exec (.bitEnd p) s = .next (replied p 0x01 [] (started p (sender p s) (.bitEnd (fld (word p 0) 2 0)) (putSession { x with fin := some (word p 1, p.pay.drop 2) } (taken p s))))) ∧
  (∀ (sr : Fin 8) (x : Session) (o : LongOp) (crc : Word) (tag : List Word) (s : State),
     live s = true →
     sessionOf s sr.val = some x →
     s.ops.find? (fun o => o.kind == .bitEnd sr.val) = some o →
     x.fin = some (crc, tag) →
     (dW x.hdr 3).toNat ≤ x.frame →
     loadOk s x crc tag = true →
     exec (.bitEndDone sr) s = .next (finish (complete o.q o.tag 0 [] (forEach (x.regions.zipIdx) (fun ri t =>
       (if x.hold then id else regionStart ri.1) (wr (fbk ri.1 4) (dW x.hdr 4) (wr (fbk ri.1 8) (dW x.hdr 5) (setF (fbk ri.1 0) 15 8 0 (setRegion ri.1 2
         (setCfg ri.1 ((x.data.drop (671744 * ri.2)).take 671744) t)))))) (dropSession x s))))) ∧
  (∀ (sr : Fin 8) (x : Session) (o : LongOp) (crc : Word) (tag : List Word) (s : State),
     live s = true →
     sessionOf s sr.val = some x →
     s.ops.find? (fun o => o.kind == .bitEnd sr.val) = some o →
     x.fin = some (crc, tag) →
     x.frame < (dW x.hdr 3).toNat →
     exec (.bitEndDone sr) s = .next (finish (complete o.q o.tag 0x0D [] (loadFail x 0x0D s)))) ∧
  (∀ (sr : Fin 8) (x : Session) (o : LongOp) (crc : Word) (tag : List Word) (s : State),
     live s = true →
     sessionOf s sr.val = some x →
     s.ops.find? (fun o => o.kind == .bitEnd sr.val) = some o →
     x.fin = some (crc, tag) →
     (dW x.hdr 3).toNat ≤ x.frame →
     loadOk s x crc tag = false →
     exec (.bitEndDone sr) s = .next (finish (complete o.q o.tag 0x0F [] (loadFail x 0x0F s)))) ∧
  (∀ (x : Session) (buf : List Byte) (c : Word) (r : Nat) (s : State),
     (crc32 buf == c) = false →
     x.failed = false →
     x.regions.getD (x.frame / 164) 0 = r →
     frameIn x buf c s = (0xC4, raiseHw (0x0E0 + r) none (0x38 + r) (regOwner s r)
       (incR (fbk r 0xD0) (putSession { x with buf := [], chunk := 0, failed := true, rem := 1000000000 } s)))) ∧
  (∀ (x : Session) (buf : List Byte) (c : Word) (s : State),
     (crc32 buf == c) = false →
     x.failed = true →
     frameIn x buf c s = (0xC5, loadFail x 0x0D s)) ∧
  (∀ (sr : Fin 8) (x : Session) (s : State),
     live s = true →
     sessionOf s sr.val = some x →
     x.fin = none →
     x.rem = 0 →
     exec (.sessionTimeout sr) s = .next (finish (loadFail x 0x0D s)))

/-- REGION_CTL and READBACK of a region that is owned and not held -/
def Obligations.RegionCommands : Prop :=
  (∀ (p : Pkt) (s : State),
     runs 0x74 p s = true →
     p.pay.length = 1 →
     fld (word p 0) 10 8 = 0 →
     regOwner (taken p s) (fld (word p 0) 2 0) = sender p s →
     regionHeld (taken p s) (fld (word p 0) 2 0) = false →
     (regionState (taken p s) (fld (word p 0) 2 0) == 3 || regionState (taken p s) (fld (word p 0) 2 0) == 4 || regionState (taken p s) (fld (word p 0) 2 0) == 2) = true →
     exec (.regionReset p) s = .next (replied p 0 [] (setRegion (fld (word p 0) 2 0) 2 (taken p s)))) ∧
  (∀ (p : Pkt) (s : State),
     runs 0x74 p s = true →
     p.pay.length = 1 →
     fld (word p 0) 10 8 = 1 →
     (regOwner (taken p s) (fld (word p 0) 2 0) != sender p s) = true →
     exec (.regionStart p) s = .next (replied p 3 [0] (report (deniedReport 0x74 2 0 0 p s) (taken p s)))) ∧
  (∀ (p : Pkt) (s : State),
     runs 0x74 p s = true →
     p.pay.length = 1 →
     fld (word p 0) 10 8 = 2 →
     (regOwner (taken p s) (fld (word p 0) 2 0) != sender p s) = true →
     exec (.regionClkstop p) s = .next (replied p 3 [0] (report (deniedReport 0x74 2 0 0 p s) (taken p s)))) ∧
  (∀ (p : Pkt) (s : State),
     runs 0x74 p s = true →
     p.pay.length = 1 →
     fld (word p 0) 10 8 = 3 →
     (regOwner (taken p s) (fld (word p 0) 2 0) != sender p s) = true →
     exec (.regionClkrun p) s = .next (replied p 3 [0] (report (deniedReport 0x74 2 0 0 p s) (taken p s)))) ∧
  (∀ (p : Pkt) (s : State),
     runs 0x74 p s = true →
     p.pay.length = 1 →
     fld (word p 0) 10 8 = 4 →
     (regOwner (taken p s) (fld (word p 0) 2 0) != sender p s) = true →
     exec (.regionClear p) s = .next (replied p 3 [0] (report (deniedReport 0x74 2 0 0 p s) (taken p s)))) ∧
  (∀ (p : Pkt) (s : State),
     runs 0x74 p s = true →
     p.pay.length = 1 →
     fld (word p 0) 10 8 = 1 →
     regOwner (taken p s) (fld (word p 0) 2 0) = sender p s →
     regionHeld (taken p s) (fld (word p 0) 2 0) = false →
     (regionState (taken p s) (fld (word p 0) 2 0) == 2) = true →
     exec (.regionStart p) s = .next (replied p 0 [] (regionStart (fld (word p 0) 2 0) (taken p s)))) ∧
  (∀ (p : Pkt) (s : State),
     runs 0x74 p s = true →
     p.pay.length = 1 →
     fld (word p 0) 10 8 = 2 →
     regOwner (taken p s) (fld (word p 0) 2 0) = sender p s →
     regionHeld (taken p s) (fld (word p 0) 2 0) = false →
     regionState (taken p s) (fld (word p 0) 2 0) = 3 →
     exec (.regionClkstop p) s = .next (
       let u := fabricRun (fld (word p 0) 2 0) (taken p s)
       let high := (fabOf u (fld (word p 0) 2 0)).nets &&& (takeFree u).1.setWidth 8
       if high = 0 then replied p 0 [] (fabricStopped (fld (word p 0) 2 0) (takeFree u).2)
       else finish (waits p (sender p s) { modFab (fld (word p 0) 2 0) (fun x => { x with nets := high }) (takeFree u).2 with
         clkstop := some ((fld (word p 0) 2 0), ⟨p.q.val, p.tag.toNat, p.flags.getLsbD 0, sender p s⟩) }))) ∧
  (∀ (r : Nat) (s : State),
     r < 8 →
     regionState (fabricStopped r s) r = 4 ∧ (fabOf (fabricStopped r s) r).nets = 0) ∧
  (∀ (p : Pkt) (s : State),
     runs 0x74 p s = true →
     p.pay.length = 1 →
     fld (word p 0) 10 8 = 3 →
     regOwner (taken p s) (fld (word p 0) 2 0) = sender p s →
     regionHeld (taken p s) (fld (word p 0) 2 0) = false →
     (regionState (taken p s) (fld (word p 0) 2 0) == 4) = true →
     exec (.regionClkrun p) s = .next (replied p 0 [] (forEach (List.range 8) (netPin (fld (word p 0) 2 0)) (setRegion (fld (word p 0) 2 0) 3 (taken p s))))) ∧
  (∀ (p : Pkt) (s : State),
     runs 0x74 p s = true →
     p.pay.length = 1 →
     fld (word p 0) 10 8 = 4 →
     regOwner (taken p s) (fld (word p 0) 2 0) = sender p s →
     regionHeld (taken p s) (fld (word p 0) 2 0) = false →
     (regionState (taken p s) (fld (word p 0) 2 0) == 2 || regionState (taken p s) (fld (word p 0) 2 0) == 4 || regionState (taken p s) (fld (word p 0) 2 0) == 3) = true →
     exec (.regionClear p) s = .next (replied p 0 [] (regionClear (fld (word p 0) 2 0) (taken p s)))) ∧
  (∀ (r : Fin 8) (w : Waiting) (s : State),
     live s = true →
     s.clkstop = some (r.val, w) →
     regionState s r.val = 3 →
     exec (.clkstopForce r) s = .next (finish { firstReply w.q 0 w.tag w.notify [] (setB (fbk r.val 0) 5 true (fabricStopped r.val s)) with insWait := s.insWait.erase w, clkstop := none })) ∧
  (∀ (r : Fin 8) (w : Waiting) (s : State),
     live s = true →
     s.clkstop = some (r.val, w) →
     regionState s r.val ≠ 3 →
     exec (.clkstopForce r) s = .next (finish { firstReply w.q 0 w.tag w.notify [] s with insWait := s.insWait.erase w, clkstop := none })) ∧
  (∀ (r : Fin 8) (s : State),
     live s = true →
     s.clkstop = none →
     exec (.clkstopForce r) s = .next (finish s)) ∧
  (∀ (p : Pkt) (s : State),
     runs 0x73 p s = true →
     p.pay.length = 2 →
     (word p 1).toNat % 16 = 0 →
     0x30000000 ≤ (word p 1).toNat →
     (word p 1).toNat + imageBytes (bit (word p 0) 8) ≤ 0x31000000 →
     regOwner (taken p s) (fld (word p 0) 2 0) = sender p s →
     ((List.range (((word p 1).toNat - 0x30000000 + imageBytes (bit (word p 0) 8) - 1) / 4096 + 1 - ((word p 1).toNat - 0x30000000) / 4096)).any fun k => ownerOf (taken p s) 0x0E (((word p 1).toNat - 0x30000000) / 4096 + k) != sender p s) = false →
     2 ≤ regionState (taken p s) (fld (word p 0) 2 0) →
     regionHeld (taken p s) (fld (word p 0) 2 0) = false →
     opsFull (taken p s) p.q.val = false →
     exec (.readback p) s = .next (replied p 0x01 [] (started p (sender p s) (.readback (fld (word p 0) 2 0) ((word p 1).toNat - 0x30000000) (bit (word p 0) 8) (regionState (taken p s) (fld (word p 0) 2 0) == 4)) (taken p s)))) ∧
  (∀ (r : Fin 8) (o : LongOp) (dest : Nat) (m coh : Bool) (s : State),
     live s = true →
     readbackOp s r.val = some o →
     o.kind = .readback r.val dest m coh →
     exec (.readbackDone r) s = .next (finish (complete o.q o.tag 0 [BitVec.ofNat 32 (imageBytes m + 2 ^ 31 * (coh && regionState (fabricRun r.val s) r.val == 4).toNat)]
       (putMemW dest (fabImage (fabricRun r.val s) r.val (imageBytes m)) { fabricRun r.val s with free := (fabricRun r.val s).free + 1 }))))

/-- LEDGER_SNAP takes one snapshot of every counter; LEDGER_READ answers from it; what is counted keeps the balance -/
def Obligations.LedgerCommands : Prop :=
  (∀ (c i t n : Nat) (s : State),
     t ∈ ledRight c →
     i < 4096 →
     balanced c i s →
     balanced c i (ledAdd c i t n (ledAdd c i 0 n s))) ∧
  (∀ (c i t u n : Nat) (s : State),
     t ∈ ledRight c →
     u ∈ ledRight c →
     t ≠ u →
     n ≤ ledGet s c i u →
     i < 4096 →
     balanced c i s →
     balanced c i (ledSub c i u n (ledAdd c i t n s))) ∧
  (∀ (p : Pkt) (st : Nat) (pay : List Word) (c i : Nat) (s : State),
     ledGet s 7 p.q.val 4 < 2 ^ 64 - 1 →
     i < 4096 →
     balanced c i s →
     balanced c i (firstReply p.q.val st p.tag.toNat (p.flags.getLsbD 0) pay (taken p s))) ∧
  (∀ (q : Fin 65) (c i : Nat) (s : State),
     i < 4096 →
     balanced c i s →
     balanced c i (discardQueue q.val s)) ∧
  (∀ (w : Waiting) (c i : Nat) (s : State),
     w.q < 65 →
     1 ≤ ledGet s 7 w.q 4 →
     i < 4096 →
     balanced c i s →
     balanced c i (abortWaiting w s)) ∧
  (∀ (q : Fin 65) (st tag : Nat) (n : Bool) (pay : List Word) (c i : Nat) (s : State),
     1 ≤ ledGet s 7 q.val 4 →
     i < 4096 →
     balanced c i s →
     balanced c i (firstReply q.val st tag n pay s)) ∧
  (∀ (n : Fin 96) (l : Line) (excl : Nat) (c i : Nat) (s : State),
     excl ≤ l.count →
     i < 4096 →
     balanced c i s →
     balanced c i (lineLedger n.val l excl s)) ∧
  (∀ (n : Fin 96) (c i : Nat) (s : State),
     i < 4096 →
     balanced c i s →
     balanced c i (eventArrives n.val s)) ∧
  (∀ (n : Fin 96) (c i : Nat) (s : State),
     i < 4096 →
     balanced c i s →
     balanced c i (markerArrives n.val s)) ∧
  (∀ (p : Entry → Bool) (term : Nat) (c i : Nat) (s : State),
     term ∈ [1, 2, 3, 4, 5] →
     (∀ e ∈ s.paq, e.owner < 4096) →
     (∀ o, ((s.paq.filter p).filter fun e => e.owner == o).length ≤ ledGet s 3 o 6) →
     i < 4096 →
     balanced c i s →
     balanced c i (removeEntries p term s)) ∧
  (∀ (t : Fin 8) (c i : Nat) (s : State),
     i < 4096 →
     balanced c i s →
     balanced c i (supDone t.val s)) ∧
  (∀ (ts : List (Fin 8)) (c i : Nat) (s : State),
     i < 4096 →
     balanced c i s →
     balanced c i (forEach (ts.map (·.val)) (fun t s => ledAdd 8 t 2 1 (ledAdd 8 t 0 1 s)) s)) ∧
  (∀ (k : Fin 8) (kind : Nat) (a b : Bool) (pay : List Word) (c i : Nat) (s : State),
     1 ≤ ledGet s 6 k.val 2 →
     i < 4096 →
     balanced c i s →
     balanced c i (frameOut k.val kind a b pay s)) ∧
  (∀ (k : Fin 8) (a b : Word) (c i : Nat) (s : State),
     i < 4096 →
     balanced c i s →
     balanced c i (creditBlock k.val a b s)) ∧
  (∀ (p : Pkt) (s : State),
     runs 0x80 p s = true →
     p.pay.length = 0 →
     sender p s ≠ 0 →
     exec (.ledgerSnap p) s = .next (replied p 0 ([BitVec.ofNat 32 (snapNext (sender p s) (taken p s))] ++ words64 (taken p s).tb ++ [snapFlags (sender p s) (taken p s)]) (snapped (sender p s) (taken p s)))) ∧
  (∀ (p : Pkt) (s : State),
     runs 0x80 p s = true →
     p.pay.length = 0 →
     sender p s = 0 →
     exec (.ledgerSnap p) s = .next (finish (snapStream (cmdOf 0x80 p s) 0 (firstReply p.q.val 0 p.tag.toNat (p.flags.getLsbD 0)
       ([BitVec.ofNat 32 (snapNext (sender p s) (taken p s))] ++ words64 (taken p s).tb ++ [snapFlags (sender p s) (taken p s)])
       (snapped (sender p s) (taken p s)))))) ∧
  (∀ (p : Pkt) (insts words : Nat) (x : Snap) (s : State),
     runs 0x81 p s = true →
     p.pay.length = 2 →
     section_ (fld (word p 1) 7 0) = some (insts, words) →
     1 ≤ fld (word p 1) 15 8 →
     fld (word p 1) 31 16 + fld (word p 1) 15 8 ≤ insts →
     2 + fld (word p 1) 15 8 * words ≤ 255 →
     (sender p s != 0 && [6, 8, 0xA, 0xB].contains (fld (word p 1) 7 0)) = false →
     ((taken p s).snaps.find? fun x => x.part == sender p s && BitVec.ofNat 32 x.seq == word p 0) = some x →
     fld (word p 1) 7 0 ≠ 0x0B ∨ prior (taken p s) = true →
     exec (.ledgerRead p) s = .next (replied p 0
       (word p 0 :: word p 1 :: (List.range (fld (word p 1) 15 8)).flatMap fun i => ledBlock (taken p s) x (sender p s) (fld (word p 1) 7 0) (fld (word p 1) 31 16 + i)) (taken p s)))

/-- Refusals of hardware paths; what a raise does; FAULT_READ, FAULT_CLEAR, SEVERITY_SET and INJECT -/
def Obligations.FaultCommands : Prop :=
  (∀ (p unit : Nat) (s : State),
     rd (refuse p unit s) ⟨.part, 0, 0x300 + 4 * p⟩ = rd s ⟨.part, 0, 0x300 + 4 * p⟩ + 1 ∧
     (∀ k, k ≠ ⟨.part, 0, 0x300 + 4 * p⟩ → rd (refuse p unit s) k = rd s k) ∧
     refuse p unit s = { s with regs := (refuse p unit s).regs, rep := s.rep ++ [hwReport 0x002 none unit p] }) ∧
  (∀ (e : Entry) (late : Bool) (s : State),
     actBad e.act0 e.act1 = false →
     (fld e.act0 3 0 = 3 ∧ ownerOf s 0x0B (fld e.act0 14 8) ≠ e.owner) ∨ (fld e.act0 3 0 = 4 ∧ ownerOf s 0x04 (fld e.act0 14 8) ≠ e.owner) ∨ (fld e.act0 3 0 = 5 ∧ ownerOf s 0x07 (fld e.act0 14 8) ≠ e.owner) →
     actEffect e late s = refuse e.owner 0x24 s) ∧
  (∀ (g : Nat) (s : State),
     sext 64 ((gen s g).nextT - BitVec.ofNat 64 ((axis s (rf s (gk g 0) 2 0)).pos.toNat * 65536)).toNat = 0 →
     genMay s g = false →
     genMove g s = (let u := refuse (ownerOf s 0x07 g) 0x22 (modGen g (fun y => { y with next := y.next + 1, nextT := y.nextT + BitVec.ofNat 64 (1 * genPitch s g) }) s)
       modGen g (fun y => { y with lock := match y.lastPos with | some l => decide (sdiff (axis s (rf s (gk g 0) 2 0)).pos l < 0) | none => false }) u)) ∧
  (∀ (r : Report) (v : Nat) (s : State),
     v ≤ 4 →
     let u := latchRaise r v s
     rf u (srk r.src 4) 31 16 = min (rf s (srk r.src 4) 31 16 + 1) 0xFFFF ∧ rb u (srk r.src 4) 1 = true ∧
     rf u (srk r.src 4) 6 4 = max (rf s (srk r.src 4) 6 4) v ∧ rd u (srk r.src 0xC) = rd s (srk r.src 0xC) ||| BitVec.ofNat 32 (memBit r.mem) ∧
     rd u (flk (0x40 + 4 * (r.src / 32))) = setBit (rd s (flk (0x40 + 4 * (r.src / 32)))) (r.src % 32) true ∧
     (∀ k, k ≠ srk r.src 4 → k ≠ srk r.src 0xC → k ≠ flk (0x40 + 4 * (r.src / 32)) → rd u k = rd s k) ∧ u = { s with regs := u.regs } ∧
     (r.src < 512 → 1 ≤ v → rb s (srk r.src 0) 3 = true → faultN u = true)) ∧
  (∀ (ws : List Word) (k : Nat) (s : State),
     ws.length = 8 →
     k < 8 →
     rb (captureRaise ws s) (flk 4) 0 = true ∧ rd (captureRaise ws s) (flk (0x20 + 4 * k)) = ws.getD k 0) ∧
  (∀ (r : Report) (s : State),
     raiseSev s r = (let v := r.sev.getD (rf s (srk r.src 0) 2 0); if r.bw = true ∧ v = 0 then 1 else v)) ∧
  (∀ (r : Report) (v : Nat) (s : State),
     raiseSev s r = v →
     let u := latchRaise r v s
     let first := decide (1 ≤ v) && !rb u (flk 4) 0
     let w := writerOffer (faultWords r v first u) v (if first then captureRaise (faultWords r v first u) u else u)
     takeReport r s = reactTo r.src r.mem v (if !faultN s && faultN w then mirrorRefusals w else w)) ∧
  (∀ (r : Report) (v : Nat) (first : Bool) (s : State),
     faultWords r v first s =
       [BitVec.ofNat 32 (7 + 16 * first.toNat + 32 * v + 256 * r.src + 2 ^ 17 * r.inj.toNat), lo32 s.tb, hi32 s.tb, r.addr,
        BitVec.ofNat 32 (r.part + 256 * r.port + 65536 * (if r.port = 0xFE then r.unit else 0) + 2 ^ 24 * r.acc),
        BitVec.ofNat 32 (rf s (srk r.src 4) 31 16), r.d6, BitVec.ofNat 32 (r.mem.getD 0xFF + 2 ^ 30 * r.bw.toNat)]) ∧
  (∀ (ws : List Word) (v : Nat) (s : State),
     s.flt.wrBusy = 0 →
     s.flt.fifo.length < 64 →
     let wd := ws.set 5 (BitVec.ofNat 32 (rf s (srk (fld (ws.getD 0 0) 16 8) 4) 31 16))
     let u := modFlt (fun f => { f with wrBusy := 50, fifo := f.fifo ++ [wd] }) s
     let t := if 1 ≤ v then forEach (List.range 8) notifyPort u else u
     writerOffer ws v s = (if rf t (flk 0) 2 0 ≤ v then logRecord wd t else t)) ∧
  (∀ (ws : List Word) (v : Nat) (s : State),
     s.flt.wrBusy ≠ 0 →
     s.flt.wrWait = none →
     writerOffer ws v s = modFlt (fun f => { f with wrWait := some (ws, v) }) s) ∧
  (∀ (ws : List Word) (v : Nat) (s : State),
     s.flt.wrBusy ≠ 0 →
     s.flt.wrWait.isSome = true →
     writerOffer ws v s = faultLost s) ∧
  (∀ (ws : List Word) (v : Nat) (s : State),
     s.flt.wrBusy = 0 →
     64 ≤ s.flt.fifo.length →
     writerOffer ws v s = faultLost (modFlt (fun f => { f with wrBusy := 50 }) s)) ∧
  (∀ (s : State),
     rd (faultLost s) (flk 8) = rd s (flk 8) + 1 ∧
     (faultLost s).rep = s.rep ++ (if (match s.flt.lastOvf with | some t => decide (s.tb < t + 10000) | none => false) then [] else [hwReport 0x00B none 0x01 0])) ∧
  (∀ (i : Nat) (m : Option Nat) (s : State),
     reactTo i m 0 s = s ∧ reactTo i m 1 s = s ∧ reactTo i m 2 s = degrade i m s ∧
     reactTo i m 3 s = (let t := setF (flk 4) 3 1 (max (rf s (flk 4) 3 1) 3) s; if rf s (flk 4) 3 1 < 3 then reactSafe t else t) ∧
     reactTo i m 4 s = (let t := setF (flk 4) 3 1 (max (rf s (flk 4) 3 1) 4) s; reactHalt (if rf s (flk 4) 3 1 < 4 then reactSafe t else t)) ∧
     reactSafe s = forEach (List.range 96) ffSafe (paqPause s) ∧
     reactHalt s = forEach (List.range 8) regionHalt (forEach (List.range 64) dmaPause
       (forEach (List.range 96) disarmChan (forEach (List.range 16) disarmGen s)))) ∧
  (∀ (t c k : Nat) (s : State),
     t < 8 →
     k ∈ [2, 3, 4, 5, 6, 0xD, 0xE] →
     degrade (0x100 + 16 * t + k) (some c) s = fenceNow (12 * t + c) s) ∧
  (∀ (t c k : Nat) (s : State),
     t < 8 →
     k ∈ [7, 8, 9] →
     degrade (0x100 + 16 * t + k) (some c) s = ffOff (12 * t + c) s) ∧
  (∀ (t k : Nat) (m : Option Nat) (s : State),
     t < 8 →
     k ∈ [0, 1, 0xF] →
     degrade (0x100 + 16 * t + k) m s = forEach (tilePorts t) fenceNow s) ∧
  (∀ (e : Nat) (s : State),
     e < 32 →
     (∀ i ∈ [0x040 + e, 0x060 + e], ∀ m, degrade i m s = forEach (axesOf s e) axisCheck (modEnc e (fun x => { x with deg := true }) s)) ∧
     degrade 0x080 (some e) s = forEach (axesOf s e) axisCheck (modEnc e (fun x => { x with deg := true }) s)) ∧
  (∀ (n : Nat) (m : Option Nat) (s : State),
     n < 16 →
     degrade (0x088 + n) m s = forceAxis (n % 8) s ∧ degrade (0x0A0 + n) m s = disarmGen n s ∧ degrade (0x0E0 + n) m s = regionHalt (n % 8) s ∧
     (n < 8 → degrade (0x0C0 + n) m s = forEach ((List.range 64).filter fun c => dmaPort s c == n && decide (1 ≤ dmaState s c) && decide (dmaState s c ≤ 4) &&
       (dch s c).stop.isNone) (fun c s => dmaStop c 3 s) s)) ∧
  (∀ (s : State),
     (s.por || s.rstn || s.pfail) = true →
     collect s = { s with rep := [] }) ∧
  (∀ (r : Report) (s : State),
     (s.por || s.rstn || s.pfail) = false →
     s.rep = [r] →
     (takeReport r { s with rep := [] }).rep = [] →
     collect s = takeReport r { s with rep := [] }) ∧
  (∀ (p : Pkt) (s : State),
     runs 0x91 p s = true →
     p.pay.length = 1 →
     bit (word p 0) 31 = true →
     (((List.range 512).filter fun i => latched (taken p s) i && ownsLatched (taken p s) (sender p s) i).any fun i => !ownsLatched (taken p s) (sender p s) i) = false →
     (((List.range 512).filter fun i => latched (taken p s) i && ownsLatched (taken p s) (sender p s) i).any fun i => liveMask (taken p s).flt i != 0) = false →
     exec (.faultClear p) s = .next (replied p 0 [] (afterClear (forEach ((List.range 512).filter fun i => latched (taken p s) i && ownsLatched (taken p s) (sender p s) i) (clearSrc (bit (word p 0) 30)) (taken p s))))) ∧
  (∀ (p : Pkt) (s : State),
     runs 0x90 p s = true →
     p.pay.length = 1 →
     fld (word p 0) 1 0 = 0 →
     1 ≤ fld (word p 0) 13 8 →
     fld (word p 0) 13 8 ≤ 31 →
     sender p s = 0 →
     exec (.faultReadRecords p) s = .next (replied p 0 (BitVec.ofNat 32 ((taken p s).flt.fifo.take (fld (word p 0) 13 8)).length :: ((taken p s).flt.fifo.take (fld (word p 0) 13 8)).flatten) (modFlt (fun f => { f with fifo := f.fifo.drop (fld (word p 0) 13 8) }) (taken p s)))) ∧
  (∀ (p : Pkt) (s : State),
     runs 0x90 p s = true →
     p.pay.length = 1 →
     fld (word p 0) 1 0 = 1 →
     sender p s = 0 →
     exec (.faultReadCapture p) s = .next (replied p 0 (BitVec.ofNat 32 (256 * (rb (taken p s) (flk 4) 0).toNat) :: (List.range 8).map fun k => rd (taken p s) (flk (0x20 + 4 * k))) (taken p s))) ∧
  (∀ (p : Pkt) (s : State),
     runs 0x90 p s = true →
     p.pay.length = 1 →
     fld (word p 0) 1 0 = 2 →
     1 ≤ fld (word p 0) 13 8 →
     fld (word p 0) 24 16 + fld (word p 0) 13 8 ≤ 512 →
     (((List.range (fld (word p 0) 13 8)).map (fld (word p 0) 24 16 + ·)).any fun i => !ownsSome (taken p s) (sender p s) i) = false →
     exec (.faultReadStatus p) s = .next (replied p 0 ((0 : Word) :: ((List.range (fld (word p 0) 13 8)).map (fld (word p 0) 24 16 + ·)).flatMap fun i => [0, 4, 8, 0xC].map (srcView (taken p s) (sender p s) i)) (taken p s))) ∧
  (∀ (p : Pkt) (s : State),
     runs 0x91 p s = true →
     p.pay.length = 1 →
     bit (word p 0) 31 = false →
     1 ≤ fld (word p 0) 25 16 →
     fld (word p 0) 8 0 + fld (word p 0) 25 16 ≤ 512 →
     ((((List.range (fld (word p 0) 25 16)).map (fld (word p 0) 8 0 + ·)).filter (latched (taken p s))).any fun i => !ownsLatched (taken p s) (sender p s) i) = false →
     ((((List.range (fld (word p 0) 25 16)).map (fld (word p 0) 8 0 + ·)).filter (latched (taken p s))).any fun i => liveMask (taken p s).flt i != 0) = false →
     exec (.faultClear p) s = .next (replied p 0 [] (afterClear (forEach (((List.range (fld (word p 0) 25 16)).map (fld (word p 0) 8 0 + ·)).filter (latched (taken p s))) (clearSrc (bit (word p 0) 30)) (taken p s))))) ∧
  (∀ (p : Pkt) (s : State),
     runs 0x93 p s = true →
     p.pay.length = 2 →
     1 ≤ fld (word p 0) 25 16 →
     fld (word p 0) 8 0 + fld (word p 0) 25 16 ≤ 512 →
     fld (word p 1) 2 0 ≤ 4 →
     sender p s = 0 →
     (((List.range (fld (word p 0) 25 16)).map (fld (word p 0) 8 0 + ·)).filter srcUsed).isEmpty = false →
     rb (taken p s) (flk 0) 8 = false →
     exec (.severitySet p) s = .next (replied p 0 [] (forEach (((List.range (fld (word p 0) 25 16)).map (fld (word p 0) 8 0 + ·)).filter srcUsed) (fun i t => setF (srk i 0) 3 0 (fld (word p 1) 3 0) t) (taken p s)))) ∧
  (∀ (p : Pkt) (s : State),
     runs 0x92 p s = true →
     p.pay.length = 1 →
     fld (word p 0) 25 24 = 0 →
     sender p s ≠ 0 →
     (decide (0x010 ≤ (fld (word p 0) 8 0)) && decide ((fld (word p 0) 8 0) ≤ 0x017)) = false →
     (!srcUsed (fld (word p 0) 8 0) || (match srcMembers (fld (word p 0) 8 0) with | some n => decide (n ≤ fld (word p 0) 20 16) | none => fld (word p 0) 20 16 != 0)) = false →
     exec (.injectRaise p) s = .next (replied p 3 [0] (report (deniedReport 0x92 2 0 0 p s) (taken p s)))) ∧
  (∀ (p : Pkt) (s : State),
     runs 0x92 p s = true →
     p.pay.length = 1 →
     fld (word p 0) 25 24 = 1 →
     sender p s ≠ 0 →
     (decide (0x010 ≤ (fld (word p 0) 8 0)) && decide ((fld (word p 0) 8 0) ≤ 0x017)) = false →
     (!srcUsed (fld (word p 0) 8 0) || (match srcMembers (fld (word p 0) 8 0) with | some n => decide (n ≤ fld (word p 0) 20 16) | none => fld (word p 0) 20 16 != 0)) = false →
     exec (.injectHold p) s = .next (replied p 3 [0] (report (deniedReport 0x92 2 0 0 p s) (taken p s)))) ∧
  (∀ (p : Pkt) (s : State),
     runs 0x92 p s = true →
     p.pay.length = 1 →
     fld (word p 0) 25 24 = 2 →
     sender p s ≠ 0 →
     (decide (0x010 ≤ (fld (word p 0) 8 0)) && decide ((fld (word p 0) 8 0) ≤ 0x017)) = false →
     (!srcUsed (fld (word p 0) 8 0) || (match srcMembers (fld (word p 0) 8 0) with | some n => decide (n ≤ fld (word p 0) 20 16) | none => fld (word p 0) 20 16 != 0)) = false →
     exec (.injectBrokenWire p) s = .next (replied p 3 [0] (report (deniedReport 0x92 2 0 0 p s) (taken p s)))) ∧
  (∀ (p : Pkt) (s : State),
     runs 0x92 p s = true →
     p.pay.length = 1 →
     fld (word p 0) 25 24 = 3 →
     sender p s ≠ 0 →
     (decide (0x010 ≤ (fld (word p 0) 8 0)) && decide ((fld (word p 0) 8 0) ≤ 0x017)) = false →
     (!srcUsed (fld (word p 0) 8 0) || (match srcMembers (fld (word p 0) 8 0) with | some n => decide (n ≤ fld (word p 0) 20 16) | none => fld (word p 0) 20 16 != 0)) = false →
     exec (.injectRelease p) s = .next (replied p 3 [0] (report (deniedReport 0x92 2 0 0 p s) (taken p s)))) ∧
  (∀ (p : Pkt) (s : State),
     runs 0x90 p s = true →
     p.pay.length = 1 →
     fld (word p 0) 1 0 = 1 →
     sender p s ≠ 0 →
     exec (.faultReadCapture p) s = .next (replied p 3 [0] (report (deniedReport 0x90 2 0 0 p s) (taken p s)))) ∧
  (∀ (p : Pkt) (s : State),
     runs 0x93 p s = true →
     p.pay.length = 2 →
     (fld (word p 0) 25 16 = 0 || decide (512 < fld (word p 0) 8 0 + fld (word p 0) 25 16)) = false →
     ¬ 4 < fld (word p 1) 2 0 →
     (((List.range (fld (word p 0) 25 16)).map (fld (word p 0) 8 0 + ·)).filter srcUsed).isEmpty = false →
     sender p s ≠ 0 →
     exec (.severitySet p) s = .next (replied p 3 [0] (report (deniedReport 0x93 2 0 0 p s) (taken p s)))) ∧
  (∀ (p : Pkt) (s : State),
     runs 0x92 p s = true →
     p.pay.length = 1 →
     fld (word p 0) 25 24 = 0 →
     sender p s = 0 →
     (decide (0x010 ≤ (fld (word p 0) 8 0)) && decide ((fld (word p 0) 8 0) ≤ 0x017)) = false →
     (!srcUsed (fld (word p 0) 8 0) || (match srcMembers (fld (word p 0) 8 0) with | some n => decide (n ≤ fld (word p 0) 20 16) | none => fld (word p 0) 20 16 != 0)) = false →
     exec (.injectRaise p) s = .next (replied p 0 [] (report (wireReport (fld (word p 0) 8 0) (memOf (fld (word p 0) 8 0) (fld (word p 0) 20 16)) true false (taken p s)) (taken p s)))) ∧
  (∀ (p : Pkt) (s : State),
     runs 0x92 p s = true →
     p.pay.length = 1 →
     fld (word p 0) 25 24 = 1 →
     sender p s = 0 →
     (decide (0x010 ≤ (fld (word p 0) 8 0)) && decide ((fld (word p 0) 8 0) ≤ 0x017)) = false →
     (!srcUsed (fld (word p 0) 8 0) || (match srcMembers (fld (word p 0) 8 0) with | some n => decide (n ≤ fld (word p 0) 20 16) | none => fld (word p 0) 20 16 != 0)) = false →
     liveMask (taken p s).flt (fld (word p 0) 8 0) &&& memBit (memOf (fld (word p 0) 8 0) (fld (word p 0) 20 16)) = 0 →
     exec (.injectHold p) s = .next (replied p 0 [] (report (wireReport (fld (word p 0) 8 0) (memOf (fld (word p 0) 8 0) (fld (word p 0) 20 16)) true false (modFlt (fun f => { f with hold := addBit f.hold (fld (word p 0) 8 0) (memBit (memOf (fld (word p 0) 8 0) (fld (word p 0) 20 16))) }) (taken p s))) (modFlt (fun f => { f with hold := addBit f.hold (fld (word p 0) 8 0) (memBit (memOf (fld (word p 0) 8 0) (fld (word p 0) 20 16))) }) (taken p s))))) ∧
  (∀ (p : Pkt) (s : State),
     runs 0x92 p s = true →
     p.pay.length = 1 →
     fld (word p 0) 25 24 = 2 →
     sender p s = 0 →
     (decide (0x010 ≤ (fld (word p 0) 8 0)) && decide ((fld (word p 0) 8 0) ≤ 0x017)) = false →
     (!srcUsed (fld (word p 0) 8 0) || (match srcMembers (fld (word p 0) 8 0) with | some n => decide (n ≤ fld (word p 0) 20 16) | none => fld (word p 0) 20 16 != 0)) = false →
     (nget 0 (taken p s).flt.bw (fld (word p 0) 8 0) ||| nget 0 (taken p s).flt.bwInj (fld (word p 0) 8 0)) &&& memBit (memOf (fld (word p 0) 8 0) (fld (word p 0) 20 16)) = 0 →
     exec (.injectBrokenWire p) s = .next (replied p 0 [] (report (wireReport (fld (word p 0) 8 0) (memOf (fld (word p 0) 8 0) (fld (word p 0) 20 16)) true true (modFlt (fun f => { f with bwInj := addBit f.bwInj (fld (word p 0) 8 0) (memBit (memOf (fld (word p 0) 8 0) (fld (word p 0) 20 16))) }) (taken p s))) (modFlt (fun f => { f with bwInj := addBit f.bwInj (fld (word p 0) 8 0) (memBit (memOf (fld (word p 0) 8 0) (fld (word p 0) 20 16))) }) (taken p s))))) ∧
  (∀ (p : Pkt) (s : State),
     runs 0x92 p s = true →
     p.pay.length = 1 →
     fld (word p 0) 25 24 = 3 →
     sender p s = 0 →
     (decide (0x010 ≤ (fld (word p 0) 8 0)) && decide ((fld (word p 0) 8 0) ≤ 0x017)) = false →
     (!srcUsed (fld (word p 0) 8 0) || (match srcMembers (fld (word p 0) 8 0) with | some n => decide (n ≤ fld (word p 0) 20 16) | none => fld (word p 0) 20 16 != 0)) = false →
     exec (.injectRelease p) s = .next (replied p 0 [] (modFlt (fun f => { f with hold := subBit f.hold (fld (word p 0) 8 0) (memBit (memOf (fld (word p 0) 8 0) (fld (word p 0) 20 16))), bwInj := subBit f.bwInj (fld (word p 0) 8 0) (memBit (memOf (fld (word p 0) 8 0) (fld (word p 0) 20 16))) }) (taken p s))))

/-- NVM_READ, NVM_WRITE and NVM_LOCK -/
def Obligations.NvmCommands : Prop :=
  (∀ (p : Pkt) (s : State),
     runs 0xA0 p s = true →
     p.pay.length = 2 →
     (fld (word p 0) 17 0) % 4 = 0 →
     1 ≤ fld (word p 1) 7 0 →
     fld (word p 1) 7 0 ≤ 254 →
     (!nvmOneArea (fld (word p 0) 17 0) (fld (word p 1) 7 0) || nvmArea ((fld (word p 0) 17 0) / 256) == some 3) = false →
     sender p s = 0 →
     exec (.nvmRead p) s = .next (replied p 0 ((List.range (fld (word p 1) 7 0)).map fun i => nvmW (taken p s) ((fld (word p 0) 17 0) + 4 * i)) (taken p s))) ∧
  (∀ (p : Pkt) (s : State),
     runs 0xA1 p s = true →
     2 ≤ p.pay.length →
     p.pay.length ≤ 66 →
     (fld (word p 0) 17 0) % 4 = 0 →
     1 ≤ fld (word p 1) 6 0 →
     fld (word p 1) 6 0 ≤ 64 →
     p.pay.length = 2 + fld (word p 1) 6 0 →
     (!nvmOneArea (fld (word p 0) 17 0) (fld (word p 1) 6 0) || (fld (word p 0) 17 0) / 256 != ((fld (word p 0) 17 0) + 4 * fld (word p 1) 6 0 - 1) / 256) = false →
     (sender p s != 0 && nvmArea ((fld (word p 0) 17 0) / 256) != some 2) = false →
     (nvmBusy (taken p s) || opsFull (taken p s) p.q.val) = false →
     nvmRefusal (taken p s) (nvmArea ((fld (word p 0) 17 0) / 256)) (fld (word p 0) 17 0) (fld (word p 1) 6 0) = none →
     nvmRangeBad (taken p s) (nvmArea ((fld (word p 0) 17 0) / 256)) (fld (word p 0) 17 0) (fld (word p 1) 6 0) = false →
     exec (.nvmWrite p) s = .next (replied p 0x01 [] (started p (sender p s) (.nvmWrite (fld (word p 0) 17 0) (nvmWords p (sender p s) (taken p s))) (setB (nvk 0) 0 true (taken p s))))) ∧
  (∀ (ok : Bool) (o : LongOp) (a : Nat) (ws : List Word) (s : State),
     live s = true →
     nvmOp s = some o →
     o.kind = .nvmWrite a ws →
     ok = true →
     a / 256 ≠ 65 →
     a / 256 ≠ 66 →
     exec (.nvmWriteDone ok) s = .next (finish (complete o.q o.tag 0 [] (putNvmW a ws (nvmIdle s))))) ∧
  (∀ (ok : Bool) (o : LongOp) (a : Nat) (ws : List Word) (s : State),
     live s = true →
     nvmOp s = some o →
     o.kind = .nvmWrite a ws →
     ok = true →
     a / 256 = 65 →
     exec (.nvmWriteDone ok) s = .next (finish (complete o.q o.tag 0 [] (ffStored ((List.range 96).map (ffNvEntry (nvmIdle s))) (putNvmW a ws (nvmIdle s)))))) ∧
  (∀ (ok : Bool) (o : LongOp) (a : Nat) (ws : List Word) (s : State),
     live s = true →
     nvmOp s = some o →
     o.kind = .nvmWrite a ws →
     ok = true →
     a / 256 = 66 →
     exec (.nvmWriteDone ok) s = .next (finish (complete o.q o.tag 0 [] (setB (nvk 0) 4 true (putNvmW 0x4210 [nvmW (putNvmW a ws (nvmIdle s)) 0x4210 &&& ~~~(8#32)] (putNvmW a ws (nvmIdle s))))))) ∧
  (∀ (ok : Bool) (o : LongOp) (a : Nat) (ws : List Word) (s : State),
     live s = true →
     nvmOp s = some o →
     o.kind = .nvmWrite a ws →
     ok = false →
     exec (.nvmWriteDone ok) s = .next (finish (complete o.q o.tag 0x06 [0xACFF] (raiseHw 0x006 none 0x01 0 (wr (nvk 0x10) (BitVec.ofNat 32 (a / 256 + 2 ^ 31)) (pageLost (a / 256) (setB (nvk 0) 0 false s))))))) ∧
  (∀ (p : Pkt) (s : State),
     runs 0xA0 p s = true →
     p.pay.length = 2 →
     ¬ (fld (word p 0) 17 0) % 4 ≠ 0 →
     (fld (word p 1) 7 0 = 0 || fld (word p 1) 7 0 == 255) = false →
     (!nvmOneArea (fld (word p 0) 17 0) (fld (word p 1) 7 0) || nvmArea ((fld (word p 0) 17 0) / 256) == some 3) = false →
     sender p s ≠ 0 →
     exec (.nvmRead p) s = .next (replied p 3 [0] (report (deniedReport 0xA0 2 0 0 p s) (taken p s)))) ∧
  (∀ (p : Pkt) (s : State),
     runs 0xA2 p s = true →
     p.pay.length = 1 →
     fld (word p 0) 2 0 ≠ 0 →
     sender p s ≠ 0 →
     exec (.nvmLock p) s = .next (replied p 3 [0] (report (deniedReport 0xA2 2 0 0 p s) (taken p s)))) ∧
  (∀ (p : Pkt) (s : State),
     runs 0xA2 p s = true →
     p.pay.length = 1 →
     fld (word p 0) 2 0 ≠ 0 →
     sender p s = 0 →
     (nvmBusy (taken p s) || opsFull (taken p s) p.q.val) = false →
     exec (.nvmLock p) s = .next (replied p 0x01 [] (started p (sender p s) (.nvmLock (fld (word p 0) 2 0)) (setB (nvk 0) 0 true (taken p s))))) ∧
  (∀ (o : LongOp) (m : Nat) (s : State),
     live s = true →
     lockOp s = some o →
     o.kind = .nvmLock m →
     exec .nvmLockDone s = .next (finish (complete o.q o.tag 0 [] (setF (nvk 0) 10 8 (rf (setB (nvk 0) 0 false s) (nvk 0) 10 8 ||| m)
       (putNvmW 0x4210 [nvmW (setB (nvk 0) 0 false s) 0x4210 &&& ~~~(BitVec.ofNat 32 m)] (setB (nvk 0) 0 false s))))))

/-- SUP_SNAP answers and restarts accumulators; SUP_URGENT and the path test are requested -/
def Obligations.SupervisoryCommands : Prop :=
  (∀ (p : Pkt) (s : State),
     runs 0xB0 p s = true →
     p.pay.length = 1 →
     1 ≤ fld (word p 0) 13 8 →
     fld (word p 0) 13 8 ≤ 32 →
     fld (word p 0) 6 0 + fld (word p 0) 13 8 ≤ 128 →
     ((List.range (fld (word p 0) 13 8)).any fun i => ownerOf (taken p s) 0x09 ((fld (word p 0) 6 0) + i) != sender p s) = false →
     (bit (word p 0) 17 == false && (List.range (fld (word p 0) 13 8)).any fun i => busy (taken p s) 0x09 ((fld (word p 0) 6 0) + i)) = false →
     exec (.supSnap p) s = .next (replied p 0 ([lo32 (taken p s).tb, hi32 (taken p s).tb] ++ (List.range (fld (word p 0) 13 8)).flatMap fun i => snapBlock (taken p s) (bit (word p 0) 16) ((fld (word p 0) 6 0) + i)) (if bit (word p 0) 17 then taken p s else forEach ((List.range (fld (word p 0) 13 8)).map ((fld (word p 0) 6 0) + ·)) accRestart (taken p s)))) ∧
  (∀ (p : Pkt) (s : State),
     runs 0xB1 p s = true →
     p.pay.length = 1 →
     bit (word p 0) 8 = false →
     ownerOf (taken p s) 0x09 (fld (word p 0) 6 0) = sender p s →
     supOdd (taken p s) (fld (word p 0) 6 0) = false →
     busy (taken p s) 0x09 (fld (word p 0) 6 0) = false →
     standby (taken p s) = false →
     exec (.supUrgent p) s = .next (finish (waits p (sender p s) (supRequest ⟨supConv (fld (word p 0) 6 0), 2, supLoc (fld (word p 0) 6 0), some ⟨p.q.val, p.tag.toNat, p.flags.getLsbD 0, sender p s⟩, none, false, none⟩ (taken p s))))) ∧
  (∀ (p : Pkt) (s : State),
     runs 0xB1 p s = true →
     p.pay.length = 1 →
     bit (word p 0) 8 = true →
     ownerOf (taken p s) 0x09 (fld (word p 0) 6 0) = sender p s →
     supOdd (taken p s) (fld (word p 0) 6 0) = false →
     (decide (64 ≤ (fld (word p 0) 6 0)) || supDiff (taken p s) (fld (word p 0) 6 0) || decide (fld (word p 0) 25 16 < 16) || decide (1000 < fld (word p 0) 25 16)) = false →
     busy (taken p s) 0x09 (fld (word p 0) 6 0) = false →
     standby (taken p s) = false →
     exec (.supPathTest p) s = .next (finish (waits p (sender p s) (modSup (fun x => { x with dac := some ((taken p s).tb + 5000, ⟨supConv (fld (word p 0) 6 0), 2, supLoc (fld (word p 0) 6 0), some ⟨p.q.val, p.tag.toNat, p.flags.getLsbD 0, sender p s⟩, some (fld (word p 0) 25 16), false, none⟩) }) (taken p s)))))

/-- FF_LOAD appends entries; FF_CLEAR clears latches -/
def Obligations.FireflyCommands : Prop :=
  (∀ (p : Pkt) (s : State),
     runs 0xC0 p s = true →
     p.pay.length = 1 + ((fld (word p 0) 24 16) + 1) / 2 →
     (fld (word p 0) 6 0) ≤ 95 →
     (fld (word p 0) 24 16) ≤ 256 →
     (fld (word p 0) 24 16) ≠ 0 ∨ bit (word p 0) 8 = true →
     ownerOf (taken p s) 0x04 (fld (word p 0) 6 0) = sender p s →
     busy (taken p s) 0x04 (fld (word p 0) 6 0) = false →
     (fld (word p 0) 24 16) ≤ 256 - (if bit (word p 0) 8 then 0 else (ffP (taken p s) (fld (word p 0) 6 0)).q.length) →
     exec (.ffLoad p) s = .next (replied p 0 (numW (ffP (ffFilled (fld (word p 0) 6 0) ((List.range (fld (word p 0) 24 16)).map (ffEntry (cmdOf 0xC0 p s))) (bit (word p 0) 8) (taken p s)) (fld (word p 0) 6 0)).q.length) (ffFilled (fld (word p 0) 6 0) ((List.range (fld (word p 0) 24 16)).map (ffEntry (cmdOf 0xC0 p s))) (bit (word p 0) 8) (taken p s)))) ∧
  (∀ (p : Pkt) (s : State),
     runs 0xC1 p s = true →
     p.pay.length = 4 →
     ((mask96 (word p 1) (word p 2) (word p 3)).any fun n => ownerOf (taken p s) 0x04 n != sender p s) = false →
     (!(bitsOf (word p 0) 8).isEmpty && sender p s != 0) = false →
     ((bitsOf (word p 0) 8).isEmpty && (mask96 (word p 1) (word p 2) (word p 3)).isEmpty) = false →
     ((mask96 (word p 1) (word p 2) (word p 3)).any (busy (taken p s) 0x04)) = false →
     ((mask96 (word p 1) (word p 2) (word p 3)).any (rawOf (taken p s))) = false →
     ((bitsOf (word p 0) 8).any fun t => (tile (taken p s) t).trip) = false →
     exec (.ffClear p) s = .next (replied p 0 [] (forEach (bitsOf (word p 0) 8) tripClear (forEach (mask96 (word p 1) (word p 2) (word p 3)) latchClear (taken p s)))))

/-- SWARM_CTL and RESYNC of the holder of the Swarm link, and how they end -/
def Obligations.SwarmCommands : Prop :=
  (∀ (p : Pkt) (s : State),
     runs 0xD0 p s = true →
     p.pay.length = 1 →
     fld (word p 0) 1 0 = 0 →
     holds (taken p s) 16 (sender p s) = true →
     swHeld (taken p s) = false →
     opsFull (taken p s) p.q.val = false →
     exec (.swarmStop p) s = .next (finish (complete p.q.val p.tag.toNat 0 [] (firstReply p.q.val 0x01 p.tag.toNat (p.flags.getLsbD 0) [] (started p (sender p s) .finished (swarmOff (taken p s))))))) ∧
  (∀ (p : Pkt) (s : State),
     runs 0xD0 p s = true →
     p.pay.length = 1 →
     fld (word p 0) 1 0 = 1 →
     holds (taken p s) 16 (sender p s) = true →
     swHeld (taken p s) = false →
     opsFull (taken p s) p.q.val = false →
     swState (taken p s) = 0 →
     rb (taken p s) (swk 0) 3 = false →
     exec (.swarmListen p) s = .next (finish (complete p.q.val p.tag.toNat 0 [] (firstReply p.q.val 0x01 p.tag.toNat (p.flags.getLsbD 0) [] (started p (sender p s) .finished (setF (swk 0x20) 2 0 1 (taken p s))))))) ∧
  (∀ (p : Pkt) (s : State),
     runs 0xD0 p s = true →
     p.pay.length = 1 →
     fld (word p 0) 1 0 = 2 →
     holds (taken p s) 16 (sender p s) = true →
     swHeld (taken p s) = false →
     opsFull (taken p s) p.q.val = false →
     swState (taken p s) = 0 →
     rb (taken p s) (swk 0) 3 = true →
     exportArmed (taken p s) = false →
     exec (.swarmTrain p) s = .next (if bit (takeFree (taken p s)).1 0 then replied p 2 [0x2000] (takeFree (taken p s)).2
       else replied p 0x01 [] (started p (sender p s) .train (takeFree (taken p s)).2))) ∧
  (∀ (p : Pkt) (s : State),
     runs 0xD0 p s = true →
     p.pay.length = 1 →
     fld (word p 0) 1 0 = 2 →
     holds (taken p s) 16 (sender p s) = true →
     swHeld (taken p s) = false →
     opsFull (taken p s) p.q.val = false →
     swState (taken p s) = 0 →
     rb (taken p s) (swk 0) 3 = true →
     exportArmed (taken p s) = true →
     exec (.swarmTrain p) s = .next (replied p 2 [0x2000] (taken p s))) ∧
  (∀ (consecutive : Bool) (hops : List (BitVec 16 × BitVec 16)) (newTb : BitVec 64) (o : LongOp) (s : State),
     live s = true →
     rb s (swk 0) 3 = true →
     s.ops.find? (fun o => match o.kind with | .train => true | _ => false) = some o →
     (!consecutive || hops.length != swN s) = true →
     exec (.swarmTrainDone consecutive hops newTb) s = .next (finish (complete o.q o.tag 0x06 [0x21FF] s))) ∧
  (∀ (consecutive : Bool) (hops : List (BitVec 16 × BitVec 16)) (newTb : BitVec 64) (o : LongOp) (s : State),
     live s = true →
     rb s (swk 0) 3 = true →
     s.ops.find? (fun o => match o.kind with | .train => true | _ => false) = some o →
     (!consecutive || hops.length != swN s) = false →
     exec (.swarmTrainDone consecutive hops newTb) s = .next (finish (complete o.q o.tag 0 [BitVec.ofNat 32 (trainBudget hops (hopsStored hops s) % 65536 + 65536 * (swN s - 1))]
       (ringUp (trainBudget hops (hopsStored hops s)) newTb.toNat (swN s) (hopsStored hops s))))) ∧
  (∀ (consecutive : Bool) (hops : List (BitVec 16 × BitVec 16)) (newTb : BitVec 64) (s : State),
     live s = true →
     rb s (swk 0) 3 = false →
     swState s = 1 →
     consecutive = true →
     exec (.swarmTrainDone consecutive hops newTb) s = .next (finish (modSw (fun w => { w with lastTime := some (stepTb newTb.toNat (setF (swk 0x20) 2 0 2 s)).tb }) (stepTb newTb.toNat (setF (swk 0x20) 2 0 2 s))))) ∧
  (∀ (p : Pkt) (s : State),
     runs 0xD1 p s = true →
     p.pay.length = 1 →
     1 ≤ fld (word p 0) 13 0 →
     fld (word p 0) 13 0 ≤ 10000 →
     holds (taken p s) 16 (sender p s) = true →
     swHeld (taken p s) = false →
     opsFull (taken p s) p.q.val = false →
     (rb (taken p s) (swk 0) 3 || swState (taken p s) != 5) = false →
     exec (.resync p) s = .next (finish (resyncDone (firstReply p.q.val 0x01 p.tag.toNat (p.flags.getLsbD 0) [] (started p (sender p s) (.resync (s.tb + 1000000 * fld (word p 0) 13 0))
       (setF (swk 0x20) 2 0 6 (modSw (fun w => { w with rsGens := (List.range 16).filter (fun g => rb (taken p s) (gk g 0) 4), rsT := none, rsAxes := [], rsSave := [], rsStep := [] }) (taken p s)))))))) ∧
  (∀ (q : Fin 65) (tag : BitVec 8) (o : LongOp) (d : Nat) (s : State),
     live s = true →
     opOf s q.val tag.toNat = some o →
     o.kind = .resync d →
     d ≤ s.tb →
     exec (.resyncDeadline q tag) s = .next (finish (complete q.val tag.toNat 0x0B [0xFF] (resyncAbandon s))))

/-- DMA_CTL by the owner of a channel that nothing holds -/
def Obligations.DmaCommands : Prop :=
  (∀ (p : Pkt) (s : State),
     runs 0xE0 p s = true →
     p.pay.length = 1 →
     fld (word p 0) 10 8 = 1 →
     (dmaOwner (taken p s) (fld (word p 0) 5 0) != sender p s) = true →
     exec (.dmaPause p) s = .next (replied p 3 [0] (report (deniedReport 0xE0 2 0 0 p s) (taken p s)))) ∧
  (∀ (p : Pkt) (s : State),
     runs 0xE0 p s = true →
     p.pay.length = 1 →
     fld (word p 0) 10 8 = 2 →
     (dmaOwner (taken p s) (fld (word p 0) 5 0) != sender p s) = true →
     exec (.dmaResume p) s = .next (replied p 3 [0] (report (deniedReport 0xE0 2 0 0 p s) (taken p s)))) ∧
  (∀ (p : Pkt) (s : State),
     runs 0xE0 p s = true →
     p.pay.length = 1 →
     fld (word p 0) 10 8 = 3 →
     (dmaOwner (taken p s) (fld (word p 0) 5 0) != sender p s) = true →
     exec (.dmaAbort p) s = .next (replied p 3 [0] (report (deniedReport 0xE0 2 0 0 p s) (taken p s)))) ∧
  (∀ (p : Pkt) (s : State),
     runs 0xE0 p s = true →
     p.pay.length = 1 →
     fld (word p 0) 10 8 = 4 →
     (dmaOwner (taken p s) (fld (word p 0) 5 0) != sender p s) = true →
     exec (.dmaEnable p) s = .next (replied p 3 [0] (report (deniedReport 0xE0 2 0 0 p s) (taken p s)))) ∧
  (∀ (p : Pkt) (s : State),
     runs 0xE0 p s = true →
     p.pay.length = 1 →
     fld (word p 0) 10 8 = 5 →
     (dmaOwner (taken p s) (fld (word p 0) 5 0) != sender p s) = true →
     exec (.dmaDisable p) s = .next (replied p 3 [0] (report (deniedReport 0xE0 2 0 0 p s) (taken p s)))) ∧
  (∀ (p : Pkt) (s : State),
     runs 0xE0 p s = true →
     p.pay.length = 1 →
     fld (word p 0) 10 8 = 0 →
     dmaOwner (taken p s) (fld (word p 0) 5 0) = sender p s →
     busy (taken p s) 0x0C (fld (word p 0) 5 0) = false →
     exec (.dmaKick p) s = .next (replied p 0 (dmaAnswer (fld (word p 0) 5 0) (dmaStart (fld (word p 0) 5 0) (taken p s))) (dmaStart (fld (word p 0) 5 0) (taken p s)))) ∧
  (∀ (p : Pkt) (s : State),
     runs 0xE0 p s = true →
     p.pay.length = 1 →
     fld (word p 0) 10 8 = 1 →
     dmaOwner (taken p s) (fld (word p 0) 5 0) = sender p s →
     busy (taken p s) 0x0C (fld (word p 0) 5 0) = false →
     1 ≤ dmaState (taken p s) (fld (word p 0) 5 0) →
     dmaState (taken p s) (fld (word p 0) 5 0) ≤ 4 →
     exec (.dmaPause p) s = .next (replied p 0 (dmaAnswer (fld (word p 0) 5 0) (dmaPause (fld (word p 0) 5 0) (taken p s))) (dmaPause (fld (word p 0) 5 0) (taken p s)))) ∧
  (∀ (p : Pkt) (s : State),
     runs 0xE0 p s = true →
     p.pay.length = 1 →
     fld (word p 0) 10 8 = 2 →
     dmaOwner (taken p s) (fld (word p 0) 5 0) = sender p s →
     busy (taken p s) 0x0C (fld (word p 0) 5 0) = false →
     dmaState (taken p s) (fld (word p 0) 5 0) = 3 ∨ dmaState (taken p s) (fld (word p 0) 5 0) = 4 →
     exec (.dmaResume p) s = .next (replied p 0 (dmaAnswer (fld (word p 0) 5 0) (dmaResume (fld (word p 0) 5 0) (taken p s))) (dmaResume (fld (word p 0) 5 0) (taken p s)))) ∧
  (∀ (p : Pkt) (s : State),
     runs 0xE0 p s = true →
     p.pay.length = 1 →
     fld (word p 0) 10 8 = 3 →
     dmaOwner (taken p s) (fld (word p 0) 5 0) = sender p s →
     busy (taken p s) 0x0C (fld (word p 0) 5 0) = false →
     2 ≤ dmaState (taken p s) (fld (word p 0) 5 0) →
     dmaState (taken p s) (fld (word p 0) 5 0) ≤ 4 →
     exec (.dmaAbort p) s = .next (replied p 0 (dmaAnswer (fld (word p 0) 5 0) (dmaStop (fld (word p 0) 5 0) 5 (taken p s))) (dmaStop (fld (word p 0) 5 0) 5 (taken p s)))) ∧
  (∀ (p : Pkt) (s : State),
     runs 0xE0 p s = true →
     p.pay.length = 1 →
     fld (word p 0) 10 8 = 4 →
     dmaOwner (taken p s) (fld (word p 0) 5 0) = sender p s →
     busy (taken p s) 0x0C (fld (word p 0) 5 0) = false →
     dmaState (taken p s) (fld (word p 0) 5 0) = 0 →
     ¬ ((rd (taken p s) (dmk (fld (word p 0) 5 0) 8)).toNat % 32 ≠ 0 ∨ (rb (taken p s) (dmk (fld (word p 0) 5 0) 4) 3 = true ∧
       (roleOf (taken p s) (dmaPort (taken p s) (fld (word p 0) 5 0)) ≠ 1 ∨ !((List.range 8).any fun j => bound (taken p s) (8 * dmaPort (taken p s) (fld (word p 0) 5 0) + j) && partOf (taken p s) (8 * dmaPort (taken p s) (fld (word p 0) 5 0) + j) == sender p s)))) →
     exec (.dmaEnable p) s = .next (replied p 0 (dmaAnswer (fld (word p 0) 5 0) (setDmaState (fld (word p 0) 5 0) 1 (setB (dmk (fld (word p 0) 5 0) 0) 1 false (forEach [0x18, 0x1C, 0x20, 0x24] (fun o t => wr (dmk (fld (word p 0) 5 0) o) 0 t)
       (setPtr (fld (word p 0) 5 0) ((rd (taken p s) (dmk (fld (word p 0) 5 0) 8)).toNat + 2 ^ 32 * (rd (taken p s) (dmk (fld (word p 0) 5 0) 0xC)).toNat)
         (modDma (fld (word p 0) 5 0) (fun _ => { dmaEmpty with sp := rb (taken p s) (dmk (fld (word p 0) 5 0) 4) 3 }) (taken p s))))))) (setDmaState (fld (word p 0) 5 0) 1 (setB (dmk (fld (word p 0) 5 0) 0) 1 false (forEach [0x18, 0x1C, 0x20, 0x24] (fun o t => wr (dmk (fld (word p 0) 5 0) o) 0 t)
       (setPtr (fld (word p 0) 5 0) ((rd (taken p s) (dmk (fld (word p 0) 5 0) 8)).toNat + 2 ^ 32 * (rd (taken p s) (dmk (fld (word p 0) 5 0) 0xC)).toNat)
         (modDma (fld (word p 0) 5 0) (fun _ => { dmaEmpty with sp := rb (taken p s) (dmk (fld (word p 0) 5 0) 4) 3 }) (taken p s)))))))) ∧
  (∀ (p : Pkt) (s : State),
     runs 0xE0 p s = true →
     p.pay.length = 1 →
     fld (word p 0) 10 8 = 5 →
     dmaOwner (taken p s) (fld (word p 0) 5 0) = sender p s →
     busy (taken p s) 0x0C (fld (word p 0) 5 0) = false →
     dmaState (taken p s) (fld (word p 0) 5 0) = 1 ∨ dmaState (taken p s) (fld (word p 0) 5 0) = 4 ∨ dmaState (taken p s) (fld (word p 0) 5 0) = 5 →
     exec (.dmaDisable p) s = .next (replied p 0 (dmaAnswer (fld (word p 0) 5 0) (dmaOff (fld (word p 0) 5 0) (taken p s))) (dmaOff (fld (word p 0) 5 0) (taken p s))))

/-- A token's line-start edge in a tile, and the end of a line's window -/
def Obligations.LinesStartAndEnd : Prop :=
  (∀ (orx : Bool) (ln : Nat) (a : ZoneAcc) (x : Nat × OutW × Bool),
     (x.2.2 || (orx && x.2.1.orr)) = true →
     zoneOut orx ln a x = { a with orr := a.orr || x.2.1.orr, excl := a.excl + 1 }) ∧
  (∀ (orx : Bool) (ln : Nat) (a : ZoneAcc) (x : Nat × OutW × Bool),
     (x.2.2 || (orx && x.2.1.orr)) = false →
     zoneOut orx ln a x = { a with
       orr := a.orr || x.2.1.orr, count := a.count + 1, sum := a.sum + x.2.1.y, sumsq := a.sumsq + x.2.1.y.natAbs * x.2.1.y.natAbs,
       mn := if a.count = 0 ∨ x.2.1.y < a.mn then x.2.1.y else a.mn, mnln := if a.count = 0 ∨ x.2.1.y < a.mn then ln else a.mnln,
       mnix := if a.count = 0 ∨ x.2.1.y < a.mn then x.1 else a.mnix,
       mx := if a.count = 0 ∨ a.mx < x.2.1.y then x.2.1.y else a.mx, mxln := if a.count = 0 ∨ a.mx < x.2.1.y then ln else a.mxln,
       mxix := if a.count = 0 ∨ a.mx < x.2.1.y then x.1 else a.mxix }) ∧
  (∀ (orx : Bool) (ln : Nat) (a : ZoneAcc) (os : List (Nat × OutW × Bool)),
     let b := os.foldl (zoneOut orx ln) a
     let inc := os.filter fun x => !(x.2.2 || (orx && x.2.1.orr))
     b.count = a.count + inc.length ∧ b.excl = a.excl + (os.filter fun x => (x.2.2 || (orx && x.2.1.orr))).length ∧ b.sum = a.sum + (inc.map fun x => x.2.1.y).sum ∧
     b.sumsq = a.sumsq + (inc.map fun x => x.2.1.y.natAbs * x.2.1.y.natAbs).sum ∧ (0 < a.count → b.mn ≤ a.mn ∧ a.mx ≤ b.mx) ∧
     (∀ x ∈ os, (x.2.2 || (orx && x.2.1.orr)) = false → b.mn ≤ x.2.1.y ∧ x.2.1.y ≤ b.mx)) ∧
  (∀ (z : Nat) (l : Line) (fine fast : List (OutW × Bool)) (a : ZoneAcc) (s : State),
     zoneAcc s z = some a →
     ownerOf s 0x08 z = ownerOf s 0x03 l.head →
     l.num ∈ a.prog →
     zoneLine z l fine fast s = (
       let os := ((if rb s (zk z 4) 0 then fast else fine).zipIdx.map fun x => (x.2, x.1.1, x.1.2)).filter fun x =>
         decide (rf s (zk z 8) 13 0 ≤ x.1) && decide (x.1 < rf s (zk z 8) 13 0 + rf s (zk z 8) 30 16)
       let b := os.foldl (zoneOut (rb s (zk z 4) 1) (l.num - a.j * max 1 (rf s (zk z 0xC) 15 0))) a
       putZone { b with lines := b.lines + 1, prog := b.prog.erase l.num, unsync := b.unsync || l.unsync,
                        epochChg := b.epochChg || (decide (b.lines ≠ 0) && b.epoch != l.epoch), epoch := l.epoch, head := l.head } s)) ∧
  (∀ (z : Nat) (l : Line) (fine fast : List (OutW × Bool)) (a : ZoneAcc) (s : State),
     zoneAcc s z = some a →
     ownerOf s 0x08 z ≠ ownerOf s 0x03 l.head →
     zoneLine z l fine fast s = refuse (ownerOf s 0x08 z) 0x27 s) ∧
  (∀ (a : ZoneAcc) (s : State),
     ownerOf s 0x0E (rf s (zk a.z 0x10) 11 0) = ownerOf s 0x08 a.z →
     zoneClose a s = (
       let ws := zoneWords { a with lines := a.lines + a.prog.length } (rb s (zk a.z 4) 0) false (max 1 (rf s (zk a.z 0xC) 15 0))
       (incF (zk a.z 0x14) 31 16 (setF (zk a.z 0x14) 0 0 (a.j % 2) (putMemW (rf s (zk a.z 0x10) 11 0 * 4096 + 48 * (rf s (zk a.z 0x10) 22 16 + a.j % 2)) ws s)),
        if rb s (zk a.z 4) 2 then ws else []))) ∧
  (∀ (a : ZoneAcc) (s : State),
     ownerOf s 0x0E (rf s (zk a.z 0x10) 11 0) ≠ ownerOf s 0x08 a.z →
     zoneClose a s = (refuse (ownerOf s 0x08 a.z) 0x27 s,
        if rb s (zk a.z 4) 2 then zoneWords { a with lines := a.lines + a.prog.length } (rb s (zk a.z 4) 0) false (max 1 (rf s (zk a.z 0xC) 15 0)) else [])) ∧
  (∀ (a : ZoneAcc) (fast snap : Bool) (n : Nat),
     zoneWords a fast snap n =
       [BitVec.ofNat 32 (6 + 16 * a.head + 2048 * a.epoch + 32768 * fast.toNat + 65536 * a.z + 2 ^ 26 * a.unsync.toNat
          + 2 ^ 27 * a.orr.toNat + 2 ^ 28 * a.epochChg.toNat + 2 ^ 29 * snap.toNat),
        lo32 (a.j * n), BitVec.ofNat 32 (a.j * n / 2 ^ 32 % 65536 + 65536 * (a.lines % 65536)), lo32 a.count, lo32 a.excl, lo32 (a.sum % 2 ^ 48).toNat,
        BitVec.ofNat 32 ((a.sum % 2 ^ 48).toNat / 2 ^ 32), lo32 a.sumsq, hi32 a.sumsq,
        BitVec.ofNat 32 ((a.mn % 65536).toNat + 65536 * (a.mx % 65536).toNat),
        BitVec.ofNat 32 (a.mnln % 65536 + 65536 * (a.mxln % 65536)), BitVec.ofNat 32 (a.mnix % 65536 + 65536 * (a.mxix % 65536))]) ∧
  (∀ (z h num ep : Nat) (s : State),
     zonesOf s h = [z] →
     zoneAcc s z = none →
     zonesStart h num ep s = (zoneStarts z h num (setB (zk z 0x14) 1 true (putZone (zoneNew z (num / max 1 (rf s (zk z 0xC) 15 0)) h ep) s)), [])) ∧
  (∀ (z h num ep : Nat) (a : ZoneAcc) (s : State),
     zonesOf s h = [z] →
     zoneAcc s z = some a →
     a.j < num / max 1 (rf s (zk z 0xC) 15 0) →
     zonesStart h num ep s = (zoneStarts z h num (setB (zk z 0x14) 1 true (putZone (zoneNew z (num / max 1 (rf s (zk z 0xC) 15 0)) h ep) (zoneClose a s).1)),
       if (zoneClose a s).2.isEmpty then [] else [(zoneClose a s).2])) ∧
  (∀ (z h num ep : Nat) (a : ZoneAcc) (s : State),
     zonesOf s h = [z] →
     zoneAcc s z = some a →
     num / max 1 (rf s (zk z 0xC) 15 0) ≤ a.j →
     zonesStart h num ep s = (zoneStarts z h num s, [])) ∧
  (∀ (t : Fin 8) (left : List Nat) (k : Token) (ks : List Token) (s : State),
     live s = true →
     rb s (tk t.val 4) 0 = true →
     (tile s t.val).toks = k :: ks →
     exec (.lineStart t left) s = .next (finish (tapsOffered (headsStarted t.val k left (moltsSwitched t.val k ks s))))) ∧
  (∀ (t : Fin 8) (left : List Nat) (s : State),
     live s = true →
     rb s (tk t.val 4) 0 = false ∨ (tile s t.val).toks = [] →
     exec (.lineStart t left) s = .next (finish s)) ∧
  (∀ (n : Fin 96) (px : List Pixel) (l : Line) (s : State),
     live s = true →
     (chan s n.val).line = some l →
     (l.refused || l.fenced || l.count == 0 || decide (l.first + l.count ≤ px.length)) = true →
     exec (.lineEnd n px) s = .next (finish (pathReset n.val (lateSwap n.val (modChan n.val (fun c => { c with oldPort := false }) (lineClamp n.val l px ((if l.refused || l.fenced then lineNothing n.val l else lineWhole n.val l px)
       (setB (vk n.val 0x20) 2 false (modChan n.val (fun c => { c with line := none }) s))))))))) ∧
  (∀ (n : Fin 96) (px : List Pixel) (s : State),
     live s = true →
     (chan s n.val).line = none →
     exec (.lineEnd n px) s = .next (finish s)) ∧
  (∀ (n : Fin 96) (px : List Pixel) (l : Line) (s : State),
     live s = true →
     (chan s n.val).line = some l →
     (l.refused || l.fenced || l.count == 0 || decide (l.first + l.count ≤ px.length)) = false →
     exec (.lineEnd n px) s = .next (finish s)) ∧
  (∀ (n : Fin 96) (k : RKey) (s : State),
     (ck n.val 4 :: vidStaged n.val).contains k = true →
     act (vidApply n.val s) k = rd s k) ∧
  (∀ (n : Fin 96) (k : RKey) (s : State),
     (ck n.val 4 :: vidStaged n.val).contains k = false →
     act (vidApply n.val s) k = act s k) ∧
  (∀ (n : Fin 96) (num : Nat) (k : RKey) (s : State),
     (filStaged n.val).contains k = true →
     (chan s n.val).held.contains k = false ∨ rb s (fk n.val 4) 0 = false ∨ syncDue s n.val num = true →
     act (filApply n.val num s) k = rd s k) ∧
  (∀ (n : Fin 96) (num : Nat) (k : RKey) (s : State),
     (filStaged n.val).contains k = true →
     (chan s n.val).held.contains k = true →
     rb s (fk n.val 4) 0 = true →
     syncDue s n.val num = false →
     act (filApply n.val num s) k = (dueOf s k).getD (act s k)) ∧
  (∀ (n : Fin 96) (num : Nat) (k : RKey) (s : State),
     (filStaged n.val).contains k = false →
     act (filApply n.val num s) k = act s k)

/-- An event is written while there is room, else joins the burst; the marker ends the burst -/
def Obligations.EventsReachTheirCollector : Prop :=
  (∀ (n : Fin 96) (r : EvRec) (q : List QItem) (s : State),
     live s = true →
     (chan s n.val).evq = .ev r :: q →
     ((chan (modChan n.val (fun c => { c with evq := q }) s) n.val).burst.isNone && collRoom (modChan n.val (fun c => { c with evq := q }) s) n.val) = true →
     exec (.eventArrival n) s = .next (finish (ledAdd 2 n.val 1 1 (ledAdd 2 n.val 0 1 (collWrite n.val r (modChan n.val (fun c => { c with evq := q }) s)))))) ∧
  (∀ (n : Fin 96) (r : EvRec) (q : List QItem) (s : State),
     live s = true →
     (chan s n.val).evq = .ev r :: q →
     ((chan (modChan n.val (fun c => { c with evq := q }) s) n.val).burst.isNone && collRoom (modChan n.val (fun c => { c with evq := q }) s) n.val) = false →
     exec (.eventArrival n) s = .next (finish (modChan n.val (fun c => { c with burst := some (joinBurst c.burst r) }) (modChan n.val (fun c => { c with evq := q }) s)))) ∧
  (∀ (n : Fin 96) (t : LineTag) (q : List QItem) (s : State),
     live s = true →
     (chan s n.val).evq = .mark t :: q →
     (chan s n.val).burst = none →
     exec (.lineEndMarker n) s = .next (finish (markerPassed n.val t q (s)))) ∧
  (∀ (n : Fin 96) (t : LineTag) (q : List QItem) (b : Burst) (s : State),
     live s = true →
     (chan s n.val).evq = .mark t :: q →
     (chan s n.val).burst = some b →
     collRoom (incR (thk n.val 0x28) s) n.val = true →
     exec (.lineEndMarker n) s = .next (finish (markerPassed n.val t q (ledAdd 2 n.val 2 b.n (ledAdd 2 n.val 0 b.n (setB (thk n.val 0x20) 0 true (collWrite n.val (burstRec b) (incR (thk n.val 0x28) s)))))))) ∧
  (∀ (n : Fin 96) (t : LineTag) (q : List QItem) (b : Burst) (s : State),
     live s = true →
     (chan s n.val).evq = .mark t :: q →
     (chan s n.val).burst = some b →
     collRoom (incR (thk n.val 0x28) s) n.val = false →
     exec (.lineEndMarker n) s = .next (finish (markerPassed n.val t q (ledAdd 2 n.val 3 b.n (ledAdd 2 n.val 0 b.n (setB (thk n.val 0x20) 1 true (incR (thk n.val 0x2C) (incR (thk n.val 0x28) s))))))))

/-- The stitcher takes one item in turn; candidates leave at the latest 20 µs after their marker -/
def Obligations.RecordsLeaveTheStitcher : Prop :=
  (∀ (t n : Nat) (r : EvRec) (xs : List (Nat × QItem)) (s : State),
     live s = true →
     insFull s = false →
     s.ruleQ = [] →
     ((List.range 8).map fun i => (s.stRr + i) % 8).find? (fun t => !(coll s t).isEmpty) = some t →
     coll s t = (n, .ev r) :: xs →
     exec .stitcherTake s = .next (finish (recordsOut (stitchRec r { setColl t xs s with stRr := (t + 1) % 8 })))) ∧
  (∀ (t n : Nat) (m : LineTag) (xs : List (Nat × QItem)) (s : State),
     live s = true →
     insFull s = false →
     s.ruleQ = [] →
     ((List.range 8).map fun i => (s.stRr + i) % 8).find? (fun t => !(coll s t).isEmpty) = some t →
     coll s t = (n, .mark m) :: xs →
     exec .stitcherTake s = .next (finish (recordsOut (stitchMark m { setColl t xs s with stRr := (t + 1) % 8 })))) ∧
  (∀ (s : State),
     live s = true →
     (!insFull s && s.ruleQ.isEmpty) = false →
     exec .stitcherTake s = .next (finish s)) ∧
  (∀ (h : Fin 96) (s : State),
     live s = true →
     exec (.stitchTimeout h) s = .next (finish (recordsOut (letGo { wr ⟨.ruleG, 0, 0⟩ (rd s ⟨.ruleG, 0, 0⟩ + BitVec.ofNat 32 (s.hold.filter fun c => !c.out && c.r.tag.head == h.val && (match c.mark with | some t => decide (t + 20000 ≤ s.tb) | none => false)).length) s with
       hold := s.hold.map fun c => if (!c.out && c.r.tag.head == h.val && (match c.mark with | some t => decide (t + 20000 ≤ s.tb) | none => false)) then { c with out := true } else c }))))

/-- The tests that an insert meets as it leaves the buffer, in order -/
def Obligations.InsertsMeetTheQueue : Prop :=
  (∀ (i : Insert) (rest : List Insert) (s : State),
     live s = true →
     s.insBuf = i :: rest →
     rf { s with insBuf := rest } ⟨.part, 0, 0x200 + 4 * i.owner⟩ 17 0 ≤ pendingOf { s with insBuf := rest } i.owner →
     exec .insertTaken s = .next (finish (rulesGoOn (insRefused i 0x18 0x0C 0x80 { s with insBuf := rest })))) ∧
  (∀ (i : Insert) (rest : List Insert) (s : State),
     live s = true →
     s.insBuf = i :: rest →
     pendingOf { s with insBuf := rest } i.owner < rf { s with insBuf := rest } ⟨.part, 0, 0x200 + 4 * i.owner⟩ 17 0 →
     131072 ≤ s.paq.length →
     exec .insertTaken s = .next (finish (rulesGoOn (insRefused i 0x1C 0x0C 0x81 (setB (pqk 4) 3 true { s with insBuf := rest }))))) ∧
  (∀ (i : Insert) (rest : List Insert) (s : State),
     live s = true →
     s.insBuf = i :: rest →
     pendingOf { s with insBuf := rest } i.owner < rf { s with insBuf := rest } ⟨.part, 0, 0x200 + 4 * i.owner⟩ 17 0 →
     s.paq.length < 131072 →
     ahead { s with insBuf := rest } i.axis i.key ≤ 0 →
     i.execLate = true →
     exec .insertTaken s = .next (finish (rulesGoOn (insAccept i true { s with insBuf := rest })))) ∧
  (∀ (i : Insert) (rest : List Insert) (s : State),
     live s = true →
     s.insBuf = i :: rest →
     pendingOf { s with insBuf := rest } i.owner < rf { s with insBuf := rest } ⟨.part, 0, 0x200 + 4 * i.owner⟩ 17 0 →
     s.paq.length < 131072 →
     ahead { s with insBuf := rest } i.axis i.key ≤ 0 →
     i.execLate = false →
     exec .insertTaken s = .next (finish (rulesGoOn (insRefused i 0x20 0x0B 0 { s with insBuf := rest })))) ∧
  (∀ (i : Insert) (rest : List Insert) (s : State),
     live s = true →
     s.insBuf = i :: rest →
     pendingOf { s with insBuf := rest } i.owner < rf { s with insBuf := rest } ⟨.part, 0, 0x200 + 4 * i.owner⟩ 17 0 →
     s.paq.length < 131072 →
     0 < ahead { s with insBuf := rest } i.axis i.key →
     exec .insertTaken s = .next (finish (rulesGoOn (insAccept i false { s with insBuf := rest })))) ∧
  (∀ (a : Fin 8) (s : State),
     live s = true →
     0 < sdiff (axis s a.val).pos (obsPos s a.val) →
     s.paused = false →
     exec (.actionExecute a) s = .next (finish (forEach (execOrder { s with obs := vset s.obs a.val (axis s a.val).pos } (dueOn { s with obs := vset s.obs a.val (axis s a.val).pos } a.val)) execEntry
       { s with obs := vset s.obs a.val (axis s a.val).pos }))) ∧
  (∀ (a : Fin 8) (s : State),
     live s = true →
     sdiff (axis s a.val).pos (obsPos s a.val) ≤ 0 ∨ s.paused = true →
     exec (.actionExecute a) s = .next (finish { s with obs := vset s.obs a.val (axis s a.val).pos })) ∧
  (∀ (pin : Fin 256) (s : State),
     live s = true →
     (nget 0 s.markers (markerOf s pin.val) != 0 && decide (nget 0 s.markers (markerOf s pin.val) ≤ s.tb)) = true →
     exec (.markerPulseEnd pin) s = .next (finish { s with markers := nput 0 s.markers (markerOf s pin.val) 0 })) ∧
  (∀ (pin : Fin 256) (s : State),
     live s = true →
     (nget 0 s.markers (markerOf s pin.val) != 0 && decide (nget 0 s.markers (markerOf s pin.val) ≤ s.tb)) = false →
     exec (.markerPulseEnd pin) s = .next (finish s))

/-- Update edges, the deglitcher, the limiter and compliance, and strobe pulses of a Firefly port -/
def Obligations.FireflyPortEvents : Prop :=
  (∀ (n : Fin 96) (s : State),
     live s = true →
     ffClock s (n.val / 12) = true →
     rb s (ffk n.val 0) 0 = true →
     (ffP s n.val).dark = none →
     (ffP s n.val).enable = false →
     rb s (ffk n.val 0xC) 0 = true →
     exec (.ffUpdateEdge n) s = .next (finish (ffDrive n.val (ffTake n.val (ffPop n.val s))))) ∧
  (∀ (n : Fin 96) (s : State),
     live s = true →
     ffClock s (n.val / 12) = true →
     rb s (ffk n.val 0) 0 = false →
     exec (.ffUpdateEdge n) s = .next (finish (ffSettle n.val s))) ∧
  (∀ (n : Fin 96) (s : State),
     live s = true →
     ffClock s (n.val / 12) = false →
     exec (.ffUpdateEdge n) s = .next (finish s)) ∧
  (∀ (n : Fin 96) (s : State),
     live s = true →
     exec (.deglitchHoldEnd n) s = .next (finish (modFf n.val (fun f => { f with held := none }) s))) ∧
  (∀ (n : Fin 96) (s : State),
     live s = true →
     exec (.ffShortCircuit n) s = .next (finish (causeOn (0x100 + 16 * (n.val / 12) + 7) (some (n.val % 12)) (0x10 + n.val / 12) (ownerOf s 0x04 n.val) 0 (setB (ffk n.val 0xC) 2 true (setB (ffk n.val 0xC) 1 true s))))) ∧
  (∀ (n : Fin 96) (s : State),
     live s = true →
     exec (.ffShortCircuitEnd n) s = .next (finish (causeOff (0x100 + 16 * (n.val / 12) + 7) (some (n.val % 12)) (setB (ffk n.val 0xC) 1 false s)))) ∧
  (∀ (n : Fin 96) (s : State),
     live s = true →
     (ffP s n.val).cur = true →
     exec (.ffCompliance n) s = .next (finish (causeOn (0x100 + 16 * (n.val / 12) + 8) (some (n.val % 12)) (0x10 + n.val / 12) (ownerOf s 0x04 n.val) 0 (setB (ffk n.val 0xC) 4 true (setB (ffk n.val 0xC) 3 true s))))) ∧
  (∀ (n : Fin 96) (s : State),
     live s = true →
     (ffP s n.val).cur = false →
     exec (.ffCompliance n) s = .next (finish s)) ∧
  (∀ (n : Fin 96) (s : State),
     live s = true →
     exec (.ffComplianceEnd n) s = .next (finish (causeOff (0x100 + 16 * (n.val / 12) + 8) (some (n.val % 12)) (setB (ffk n.val 0xC) 3 false s)))) ∧
  (∀ (n : Fin 96) (k : Fin 4) (s : State),
     live s = true →
     (ffP s n.val).pulses.contains (k.val, false) = true →
     ffRank s n.val ≠ 5 →
     exec (.strobePulseBegin n k) s = .next (finish (modFf n.val (fun f => { f with pulses := mapFirst (· == (k.val, false)) (fun _ => (k.val, true)) f.pulses, wait := f.wait && true }) s))) ∧
  (∀ (n : Fin 96) (k : Fin 4) (s : State),
     live s = true →
     exec (.strobePulseEnd n k) s = .next (finish (modFf n.val (fun f => { f with pulses := f.pulses.erase (k.val, true) }) s)))

/-- A comparator that is enabled latches once, with the time; TRIP_N latches its tile -/
def Obligations.TripsLatch : Prop :=
  (∀ (n : Fin 96) (level : Int) (s : State),
     live s = true →
     rb s (cpk n.val 0) 0 = true →
     rb s (cpk n.val 0) 1 = true →
     rb s (cpk n.val 0) 2 = false →
     rawOf s n.val = false →
     500 * (rf s (cpk n.val 4) 25 16 : Int) < level →
     rb s (cpk n.val 0) 7 = false →
     rb s (tk (n.val / 12) 0x310) 4 = false →
     rb s (cpk n.val 8) 1 = false →
     exec (.comparatorTrip ⟨n, level⟩) s = .next (finish (causeOn (0x100 + 16 * (n.val / 12) + 9) (some (n.val % 12)) (0x10 + n.val / 12) (ownerOf s 0x04 n.val) 0 (ffBlock n.val
       (wr (cpk n.val 0x14) (hi32 s.tb) (wr (cpk n.val 0x10) (lo32 s.tb) (incR (cpk n.val 0xC) (setF (cpk n.val 8) 3 2 1 (setB (cpk n.val 8) 1 true
         (setB (cpk n.val 8) 0 true (modFf n.val (fun f => { f with hi := true, lo := false }) (modFf n.val (fun f => { f with sns := level }) s)))))))))))) ∧
  (∀ (n : Fin 96) (level : Int) (s : State),
     live s = true →
     rb s (cpk n.val 0) 0 = true →
     rb s (cpk n.val 0) 1 = true →
     rb s (cpk n.val 0) 2 = false →
     rawOf s n.val = false →
     500 * (rf s (cpk n.val 4) 25 16 : Int) < level →
     rb s (cpk n.val 8) 1 = true →
     exec (.comparatorTrip ⟨n, level⟩) s = .next (finish (setB (cpk n.val 8) 0 true (modFf n.val (fun f => { f with hi := true, lo := false }) (modFf n.val (fun f => { f with sns := level }) s))))) ∧
  (∀ (n : Fin 96) (level : Int) (s : State),
     live s = true →
     rb s (cpk n.val 0) 0 = false →
     exec (.comparatorTrip ⟨n, level⟩) s = .next (finish (setB (cpk n.val 8) 0 false (modFf n.val (fun f => { f with hi := false, lo := false }) (modFf n.val (fun f => { f with sns := level }) s))))) ∧
  (∀ (t : Fin 8) (s : State),
     live s = true →
     (tile s t.val).trip = false →
     exec (.tripNLow t) s = .next (finish (causeOn (0x100 + 16 * t.val + 0xA) none (0x10 + t.val) 0 0 (forEach (tilePorts t.val) ffBlock
       (satF (tk t.val 0x30C) 31 16 (setF (tk t.val 0x30C) 1 0 3 (modTile t.val (fun x => { x with trip := true }) s))))))) ∧
  (∀ (t : Fin 8) (s : State),
     live s = true →
     pinPowered s (.tripN t.val) = true →
     (tile s t.val).trip = true →
     rb (setB (tk t.val 0x30C) 0 false (modTile t.val (fun x => { x with trip := false }) s)) (tk t.val 0x30C) 1 = true →
     exec (.tripNHigh t) s = .next (finish (setB (tk t.val 0x30C) 0 false (modTile t.val (fun x => { x with trip := false }) s)))) ∧
  (∀ (t : Fin 8) (s : State),
     live s = true →
     pinPowered s (.tripN t.val) = true →
     (tile s t.val).trip = true →
     rb (setB (tk t.val 0x30C) 0 false (modTile t.val (fun x => { x with trip := false }) s)) (tk t.val 0x30C) 1 = false →
     exec (.tripNHigh t) s = .next (finish (causeOff (0x100 + 16 * t.val + 0xA) none (setB (tk t.val 0x30C) 0 false (modTile t.val (fun x => { x with trip := false }) s)))))

/-- A slot of the supervisory converters ends; a region's request is taken; a fabric PLL locks -/
def Obligations.ConversionsAndRequests : Prop :=
  (∀ (codes : List Int) (k : Nat) (s : State),
     live s = true →
     s.sup.urg = none →
     s.sup.slot = some k →
     supMay (slotTaken codes k s) = true →
     k + 1 < (slotTaken codes k s).sup.len →
     (slotTaken codes k s).sup.ending = false →
     exec (.supSlotEnd codes) s = .next (finish (modSup (fun x => { x with slot := some (k + 1), at_ := (slotTaken codes k s).tb }) (slotTaken codes k s)))) ∧
  (∀ (codes : List Int) (u : List SupReq) (s : State),
     live s = true →
     s.sup.urg = some u →
     exec (.supSlotEnd codes) s = .next (finish (supKick (modSup (fun x => { x with urg := none }) (forEach u (urgentEnd codes) s))))) ∧
  (∀ (codes : List Int) (s : State),
     live s = true →
     s.sup.urg = none →
     s.sup.slot = none →
     exec (.supSlotEnd codes) s = .next (finish s)) ∧
  (∀ (r : Fin 8) (k : Fin 16) (merged : BitVec 12) (s : State),
     live s = true →
     regionState s r.val = 3 ∨ regionState s r.val = 4 →
     fld (rd s (fbk r.val (0x40 + 4 * k.val))) 1 0 = 2 →
     ownerOf s 0x0C (fld (rd s (fbk r.val (0x40 + 4 * k.val))) 13 8) = regOwner s r.val →
     exec (.fabricRequest r k merged) s = .next (finish (dmaStart (fld (rd s (fbk r.val (0x40 + 4 * k.val))) 13 8) (wr (fbk r.val 0xCC) (rd s (fbk r.val 0xCC) + BitVec.ofNat 32 merged.toNat) (modFab r.val (fun f => { f with req := f.req &&& ~~~(BitVec.ofNat 16 (2 ^ k.val)) }) s))))) ∧
  (∀ (r : Fin 8) (k : Fin 16) (merged : BitVec 12) (s : State),
     live s = true →
     regionState s r.val ≠ 3 →
     regionState s r.val ≠ 4 →
     (fabOf s r.val).req.getLsbD k.val = false →
     exec (.fabricRequest r k merged) s = .next (finish s)) ∧
  (∀ (r : Fin 8) (s : State),
     live s = true →
     rb s (fbk r.val 0xC) 16 = true →
     exec (.fabricPllLock r) s = .next (finish (setB (fbk r.val 0) 4 true s)))

/-- Interrupt lines, the time-base pulse, the tile sample PLLs, the outputs of a video port, and the speed sensor -/
def Obligations.PinsAndClocks : Prop :=
  (∀ (h : Fin 96) (s : State),
     s.rails.getLsbD (h.val / 12) = false ∨ s.por = true →
     vspPad s h.val = .open_ ∧ vckPad s h.val = .open_) ∧
  (∀ (h : Fin 96) (n : Nat) (s : State),
     s.rails.getLsbD (h.val / 12) = true →
     s.por = false →
     s.step1 = true →
     chanOf s h.val = some n →
     rb s (vk n 0) 0 = false ∨ rb s (vk n 0) 5 = false ∨ rb s (tk (h.val / 12) 4) 0 = false →
     vspPad s h.val = .level (rb s (vk n 0) 6)) ∧
  (∀ (h : Fin 96) (n : Nat) (s : State),
     s.rails.getLsbD (h.val / 12) = true →
     s.por = false →
     s.step1 = true →
     chanOf s h.val = some n →
     rb s (vk n 0) 0 = false ∨ rb s (vk n 0) 4 = false ∨ rb s (tk (n / 12) 4) 0 = false →
     vckPad s h.val = .level false) ∧
  (∀ (k : Fin 8) (level : Bool) (s : State),
     live s = true →
     s.rails.getLsbD (16 + irqPin s k.val / 32) = true →
     standby s = false →
     rb s (iqk k.val 0) (if level then 16 else 17) = true →
     exec (.gpioIrqEdge k level) s = .next (finish (causeOn (0x0C8 + k.val) none 0x29 (ownerOf s 0x0A (irqPin s k.val)) 0
       (wr (iqk k.val 0xC) (hi32 s.tb) (wr (iqk k.val 8) (lo32 s.tb) (satF (iqk k.val 4) 31 16 (setB (iqk k.val 4) 0 true (boardDrives k.val level s)))))))) ∧
  (∀ (k : Fin 8) (level : Bool) (s : State),
     live s = true →
     s.rails.getLsbD (16 + irqPin s k.val / 32) = true →
     rb s (iqk k.val 0) (if level then 16 else 17) = false →
     exec (.gpioIrqEdge k level) s = .next (finish (boardDrives k.val level s))) ∧
  (∀ (k : Fin 8) (level : Bool) (s : State),
     live s = true →
     s.rails.getLsbD (16 + irqPin s k.val / 32) = false →
     exec (.gpioIrqEdge k level) s = .next (finish s)) ∧
  (∀ (s : State),
     live s = true →
     rb s tbpK 0 = true →
     s.tbpLast / 2 ^ rf s tbpK 12 8 < s.tb / 2 ^ rf s tbpK 12 8 →
     exec .timeBasePulse s = .next (finish { s with tbpEnd := some (s.tb + 10 * rf s tbpK 23 16), tbpLast := s.tb })) ∧
  (∀ (e : Nat) (s : State),
     live s = true →
     s.tbpEnd = some e →
     e ≤ s.tb →
     exec .timeBasePulseEnd s = .next (finish { s with tbpEnd := none })) ∧
  (∀ (t : Fin 8) (s : State),
     live s = true →
     standby s = false →
     (rb s (tk t.val 0) 16 && !rb s (tk t.val 4) 0) = true →
     exec (.tilePllLock t) s = .next (finish (causeOff (tileSrc t.val 1) none (setB (tk t.val 4) 0 true (modTile t.val (fun x => { x with pllStart := none, lost := false }) s))))) ∧
  (∀ (t : Fin 8) (s : State),
     live s = true →
     standby s = true →
     exec (.tilePllLock t) s = .next (finish s)) ∧
  (∀ (t : Fin 8) (t0 : Nat) (s : State),
     live s = true →
     (tile s t.val).pllStart = some t0 →
     rb s (tk t.val 0) 16 = true →
     rb s (tk t.val 4) 0 = false →
     t0 + 200000 ≤ s.tb →
     exec (.tilePllLockTimeout t) s = .next (finish (causeOn (tileSrc t.val 1) none (0x10 + t.val) 0 0 s))) ∧
  (∀ (t : Fin 8) (s : State),
     live s = true →
     rb s (tk t.val 0) 16 = true →
     rb s (tk t.val 4) 0 = true →
     exec (.tileCalibrationDone t) s = .next (finish (setStep { setB (tk t.val 4) 1 true s with bootTiles := s.bootTiles.filter (· != t.val) }))) ∧
  (∀ (t : Fin 8) (s : State),
     live s = true →
     (rb s (tk t.val 0) 16 && rb s (tk t.val 4) 0) = true →
     exec (.tilePllLossOfLock t) s = .next (finish (forEach (tilePorts t.val) (fun n u => disarmChan n (modChan n (fun c => { c with line := c.line.map fun l => { l with marked := true } }) u))
       (causeOn (tileSrc t.val 1) none (0x10 + t.val) 0 0 (modTile t.val (fun x => { x with lost := true }) (setB (tk t.val 4) 2 true
         (pllClear t.val s))))))) ∧
  (∀ (t : Fin 8) (ratio : BitVec 16) (s : State),
     live s = true →
     s.step1 = true →
     rf s (tk t.val 0x14) 15 0 ≤ ratio.toNat →
     exec (.speedUpdate t ratio) s = .next (finish (causeOff (tileSrc t.val 0) none (speedStored t.val ratio.toNat s)))) ∧
  (∀ (t : Fin 8) (ratio : BitVec 16) (s : State),
     live s = true →
     s.step1 = true →
     ratio.toNat < rf s (tk t.val 0x14) 15 0 →
     exec (.speedUpdate t ratio) s = .next (finish (causeOn (tileSrc t.val 0) none (0x10 + t.val) 0 0 (speedStored t.val ratio.toNat s)))) ∧
  (∀ (t : Fin 8) (ratio : BitVec 16) (s : State),
     live s = true →
     s.step1 = false →
     exec (.speedUpdate t ratio) s = .next (finish s))

/-- A DMA channel reads the descriptor at PTR -/
def Obligations.DescriptorsAreRead : Prop :=
  (∀ (c : Fin 64) (host : HostBytes) (s : State),
     live s = true →
     fetches c.val s = true →
     mayFetch c.val s = true →
     bit (dW (descWords c.val host s) 0) 0 = true →
     badFormat (descWords c.val host s) = false →
     bit (dW (descWords c.val host s) 0) 1 = false →
     exec (.dmaDescriptorRead c host) s = .next (finish (schedule (descHeld c.val (descWords c.val host s) s)))) ∧
  (∀ (c : Fin 64) (host : HostBytes) (s : State),
     live s = true →
     fetches c.val s = true →
     mayFetch c.val s = true →
     bit (dW (descWords c.val host s) 0) 0 = true →
     badFormat (descWords c.val host s) = false →
     bit (dW (descWords c.val host s) 0) 1 = true →
     exec (.dmaDescriptorRead c host) s = .next (finish (setPtr c.val (d64 (descWords c.val host s) 1) (modDma c.val (fun y => { y with sp := bit (dW (descWords c.val host s) 0) 4 }) (descHeld c.val (descWords c.val host s) s))))) ∧
  (∀ (c : Fin 64) (host : HostBytes) (s : State),
     live s = true →
     fetches c.val s = true →
     mayFetch c.val s = true →
     bit (dW (descWords c.val host s) 0) 0 = true →
     badFormat (descWords c.val host s) = true →
     exec (.dmaDescriptorRead c host) s = .next (finish (dmaStop c.val 1 (descHeld c.val (descWords c.val host s) s)))) ∧
  (∀ (c : Fin 64) (host : HostBytes) (s : State),
     live s = true →
     fetches c.val s = true →
     mayFetch c.val s = true →
     bit (dW (descWords c.val host s) 0) 0 = false →
     rb s (dmk c.val 0) 1 = false →
     exec (.dmaDescriptorRead c host) s = .next (finish (setDmaState c.val 1 (modDma c.val (fun y => { y with fetch := false }) (descAsked c.val s))))) ∧
  (∀ (c : Fin 64) (host : HostBytes) (s : State),
     live s = true →
     fetches c.val s = true →
     mayFetch c.val s = true →
     bit (dW (descWords c.val host s) 0) 0 = false →
     rb s (dmk c.val 0) 1 = true →
     exec (.dmaDescriptorRead c host) s = .next (finish (setDmaState c.val 2 (modDma c.val (fun y => { y with fetch := true }) (setB (dmk c.val 0) 1 false (modDma c.val (fun y => { y with fetch := false }) (descAsked c.val s))))))) ∧
  (∀ (c : Fin 64) (host : HostBytes) (s : State),
     live s = true →
     fetches c.val s = true →
     mayFetch c.val s = false →
     exec (.dmaDescriptorRead c host) s = .next (finish (dmaStop c.val (if (dch s c.val).sp then 3 else 2) s))) ∧
  (∀ (c : Fin 64) (host : HostBytes) (s : State),
     live s = true →
     fetches c.val s = false →
     exec (.dmaDescriptorRead c host) s = .next (finish s))

/-- A DMA channel moves a quantum, returns its descriptor, drains (how much of a quantum had been issued at a pause: log entry 83), and stops -/
def Obligations.DescriptorsMoveAndReturn : Prop :=
  (∀ (c : Fin 64) (host : HostBytes) (s : State),
     live s = true →
     onMover s c.val = true →
     dmaState s c.val = 2 →
     (dch s c.val).stop = none →
     exec (.dmaQuantumEnd c host) s = .next (finish (schedule (offMover c.val (dmaMove c.val 4096 host s))))) ∧
  (∀ (c : Fin 64) (d : List Word) (s : State),
     live s = true →
     (dch s c.val).desc = some d →
     (dch s c.val).done = true →
     (dch s c.val).stop = none →
     mayReturn c.val s = true →
     bit (dW d 0) 1 = false →
     bit (dW d 0) 7 = false →
     exec (.dmaDescriptorComplete c) s = .next (finish (modDma c.val (fun y => { y with desc := none, done := false, fetch := true }) (setPtr c.val ((dch s c.val).at_ + 32) (ledSub 5 c.val 2 1 (ledAdd 5 c.val 1 1 (ownBack c.val d s))))))) ∧
  (∀ (c : Fin 64) (d : List Word) (s : State),
     live s = true →
     (dch s c.val).desc = some d →
     (dch s c.val).done = true →
     (dch s c.val).stop = none →
     mayReturn c.val s = true →
     bit (dW d 0) 1 = true →
     exec (.dmaDescriptorComplete c) s = .next (finish (modDma c.val (fun y => { y with desc := none, done := false, fetch := true }) (ledSub 5 c.val 2 1 (ledAdd 5 c.val 1 1 (ownBack c.val d s)))))) ∧
  (∀ (c : Fin 64) (d : List Word) (s : State),
     live s = true →
     (dch s c.val).desc = some d →
     (dch s c.val).done = true →
     (dch s c.val).stop = none →
     mayReturn c.val s = false →
     exec (.dmaDescriptorComplete c) s = .next (finish (dmaStop c.val (if (dch s c.val).atHost then 3 else 2) s))) ∧
  (∀ (c : Fin 64) (s : State),
     live s = true →
     (dch s c.val).desc = none →
     exec (.dmaDescriptorComplete c) s = .next (finish s)) ∧
  (∀ (c : Fin 64) (s : State),
     live s = true →
     onMover s c.val = true →
     readsHost c.val s = true →
     (dch s c.val).stop = none →
     dmaState s c.val = 2 ∨ dmaState s c.val = 3 →
     exec (.dmaHostReadError c) s = .next (finish (dmaStop c.val 4 s))) ∧
  (∀ (c : Fin 64) (s : State),
     live s = true →
     ((dch s c.val).fetch && (dch s c.val).sp) = true →
     (dch s c.val).stop = none →
     dmaState s c.val = 2 →
     exec (.dmaHostReadError c) s = .next (finish (dmaStop c.val 4 s))) ∧
  (∀ (c : Fin 64) (s : State),
     live s = true →
     (onMover s c.val && readsHost c.val s) = false →
     ((dch s c.val).fetch && (dch s c.val).sp) = false →
     exec (.dmaHostReadError c) s = .next (finish s)) ∧
  (∀ (e : DrainEnd) (s : State),
     live s = true →
     dmaState s e.c.val = 3 →
     (dch s e.c.val).desc = none →
     dmaPaused s e.c.val = true →
     exec (.dmaPauseDrainEnd e) s = .next (finish (schedule (setDmaState e.c.val 4 (offMover e.c.val s))))) ∧
  (∀ (e : DrainEnd) (d : List Word) (s : State),
     live s = true →
     dmaState s e.c.val = 3 →
     (dch s e.c.val).desc = some d →
     onMover s e.c.val = true →
     (dch s e.c.val).done = false →
     (dch s e.c.val).stop = none →
     exec (.dmaPauseDrainEnd e) s = .next (finish (pauseEnded e.c.val (descDone e.c.val (offMover e.c.val (dmaMove e.c.val (issuedBytes d s) e.host (takeFree s).2)))))) ∧
  (∀ (e : DrainEnd) (d : List Word) (s : State),
     live s = true →
     dmaState s e.c.val = 3 →
     (dch s e.c.val).desc = some d →
     (onMover s e.c.val && !(dch s e.c.val).done && (dch s e.c.val).stop.isNone) = false →
     exec (.dmaPauseDrainEnd e) s = .next (finish (pauseEnded e.c.val (descDone e.c.val (offMover e.c.val s))))) ∧
  (∀ (e : DrainEnd) (s : State),
     live s = true →
     dmaState s e.c.val ≠ 3 →
     exec (.dmaPauseDrainEnd e) s = .next (finish s)) ∧
  (∀ (c : Fin 64) (k : Nat) (s : State),
     live s = true →
     (dch s c.val).stop = some k →
     exec (.dmaStopDrainEnd c) s = .next (finish (setF (dmk c.val 0) 11 8 k (setDmaState c.val 5 (modDma c.val (fun d => { d with stop := none, outq := [], done := false }) s))))) ∧
  (∀ (c : Fin 64) (s : State),
     live s = true →
     (dch s c.val).stop = none →
     exec (.dmaStopDrainEnd c) s = .next (finish s))

/-- A stream port sends a frame (the order of the kinds: log entry 85; its limit of credits spent: log entry 120), takes credits, and loses its reverse lane -/
def Obligations.StreamPortsSend : Prop :=
  (∀ (k : Fin 8) (kind : Nat) (ws : List Word) (r : List (Nat × List Word)) (s : State),
     live s = true →
     strmOn s k.val = true →
     rb s (stk k.val 4) 0 = true →
     ledGet s 6 k.val 2 ≠ 0 →
     (strm s k.val).spent < 65535 →
     (strm s k.val).recs = (kind, ws) :: r →
     exec (.streamFrameSend k) s = .next (finish (frameOut k.val kind true true (takeRecs kind 128 ((kind, ws) :: r)) (modStrm k.val (fun x => { x with recs := x.recs.drop (takeCount kind 128 ((kind, ws) :: r)) }) s)))) ∧
  (∀ (k : Fin 8) (b : LBlock) (ws : List Word) (s : State),
     live s = true →
     strmOn s k.val = true →
     rb s (stk k.val 4) 0 = true →
     ledGet s 6 k.val 2 ≠ 0 →
     (strm s k.val).spent < 65535 →
     (strm s k.val).recs = [] →
     ((strm s k.val).lbs.find? (fun b => b.sent != 0)).orElse (fun _ => lbReady [] (strm s k.val).lbs) = some b →
     b.words = some ws →
     b.sent + 128 < ws.length →
     exec (.streamFrameSend k) s = .next (finish (frameOut k.val 1 (b.sent == 0) false ((ws.drop b.sent).take 128)
       (modStrm k.val (fun x => { x with lbs := x.lbs.map fun c => if c.id == b.id && c.fast == b.fast then { c with sent := c.sent + 128 } else c }) s)))) ∧
  (∀ (k : Fin 8) (b : LBlock) (ws : List Word) (s : State),
     live s = true →
     strmOn s k.val = true →
     rb s (stk k.val 4) 0 = true →
     ledGet s 6 k.val 2 ≠ 0 →
     (strm s k.val).spent < 65535 →
     (strm s k.val).recs = [] →
     ((strm s k.val).lbs.find? (fun b => b.sent != 0)).orElse (fun _ => lbReady [] (strm s k.val).lbs) = some b →
     b.words = some ws →
     ws.length ≤ b.sent + 128 →
     exec (.streamFrameSend k) s = .next (finish (frameOut k.val 1 (b.sent == 0) true ((ws.drop b.sent).take 128)
       (incR (stk k.val 0x28) (modStrm k.val (fun x => { x with lbs := x.lbs.filter fun c => !(c.id == b.id && c.fast == b.fast) }) s))))) ∧
  (∀ (k : Fin 8) (s : State),
     live s = true →
     (strmOn s k.val && rb s (stk k.val 4) 0 && decide (ledGet s 6 k.val 2 ≠ 0) && decide ((strm s k.val).spent < 65535)) = false →
     exec (.streamFrameSend k) s = .next (finish s)) ∧
  (∀ (k : Fin 8) (w0 w1 : Word) (s : State),
     live s = true →
     roleOf s k.val = 2 →
     crc16 (wordBytes w0) = w1.extractLsb' 0 16 →
     (strm s k.val).lost = false →
     exec (.streamCreditBlock k w0 w1) s = .next (finish (ledAdd 6 k.val 2 (w0 - (strm s k.val).gLast).toNat (ledAdd 6 k.val 0 (w0 - (strm s k.val).gLast).toNat
       (setB (stk k.val 4) 0 true (modStrm k.val (fun x => { x with lost := false, gLast := w0, spent := 0 }) s)))))) ∧
  (∀ (k : Fin 8) (w0 w1 : Word) (s : State),
     live s = true →
     roleOf s k.val = 2 →
     crc16 (wordBytes w0) = w1.extractLsb' 0 16 →
     (strm s k.val).lost = true →
     exec (.streamCreditBlock k w0 w1) s = .next (finish (ledAdd 6 k.val 2 0 (ledAdd 6 k.val 0 0 (setB (stk k.val 4) 0 true (modStrm k.val (fun x => { x with lost := false, gLast := w0, spent := 0 }) s)))))) ∧
  (∀ (k : Fin 8) (w0 w1 : Word) (s : State),
     live s = true →
     roleOf s k.val = 2 →
     crc16 (wordBytes w0) ≠ w1.extractLsb' 0 16 →
     exec (.streamCreditBlock k w0 w1) s = .next (finish (incR (stk k.val 0x38) s))) ∧
  (∀ (k : Fin 8) (s : State),
     live s = true →
     roleOf s k.val = 2 →
     exec (.streamLinkDown k) s = .next (finish (setB (stk k.val 4) 0 false (modStrm k.val (fun x => { x with lost := true }) s)))) ∧
  (∀ (k : Fin 8) (s : State),
     live s = true →
     roleOf s k.val ≠ 2 →
     exec (.streamLinkDown k) s = .next (finish s))

/-- Broken wires, memory errors, temperature, SCLK_REF, the reference PLL, SYNC, and the group 3 supplies -/
def Obligations.OutsideCausesAndSupplies : Prop :=
  (∀ (src : Fin 512) (mem : BitVec 5) (s : State),
     (srcUsed src.val && memValid src.val mem.toNat) = true →
     nget 0 s.flt.bw src.val &&& memBit (memOf src.val mem.toNat) = 0 →
     s.por = false →
     exec (.brokenWire src mem) s = .next (finish (report (wireReport src.val (memOf src.val mem.toNat) false true s) (modFlt (fun f => { f with bw := addBit f.bw src.val (memBit (memOf src.val mem.toNat)) }) s)))) ∧
  (∀ (src : Fin 512) (mem : BitVec 5) (s : State),
     (srcUsed src.val && memValid src.val mem.toNat) = true →
     nget 0 s.flt.bw src.val &&& memBit (memOf src.val mem.toNat) = 0 →
     s.por = true →
     exec (.brokenWire src mem) s = .next (finish (modFlt (fun f => { f with bw := addBit f.bw src.val (memBit (memOf src.val mem.toNat)) }) s))) ∧
  (∀ (src : Fin 512) (mem : BitVec 5) (s : State),
     (srcUsed src.val && memValid src.val mem.toNat) = true →
     nget 0 s.flt.bw src.val &&& memBit (memOf src.val mem.toNat) ≠ 0 →
     exec (.brokenWire src mem) s = .next (finish s)) ∧
  (∀ (src : Fin 512) (mem : BitVec 5) (s : State),
     (srcUsed src.val && memValid src.val mem.toNat) = true →
     exec (.brokenWireCleared src mem) s = .next (finish (modFlt (fun f => { f with bw := subBit f.bw src.val (memBit (memOf src.val mem.toNat)) }) s))) ∧
  (∀ (src : Fin 512) (mem : BitVec 5) (unit : BitVec 8) (lasting : Bool) (s : State),
     live s = true →
     src.val = 0x030 →
     exec (.sramEccError src mem unit lasting) s = .next (finish (raiseHw (if lasting then 0x031 else 0x030) none unit.toNat 0 s))) ∧
  (∀ (t : Fin 8) (mem : BitVec 5) (unit : BitVec 8) (lasting : Bool) (s : State),
     live s = true →
     mem.toNat < 12 →
     exec (.sramEccError ⟨0x100 + 16 * t.val + 0xD, by omega⟩ mem unit lasting) s = .next (finish (raiseHw (0x100 + 16 * t.val + (if lasting then 0xE else 0xD)) (some mem.toNat) (0x10 + t.val) (srcOwner s (0x100 + 16 * t.val + (if lasting then 0xE else 0xD)) mem.toNat) s))) ∧
  (∀ (t : Fin 8) (temp : BitVec 16) (s : State),
     s.por = false →
     tjMax < sext 16 temp.toNat →
     exec (.dieOverTemperature t temp) s = .next (finish (causeOn (tileSrc t.val 0xF) none (0x10 + t.val) 0 (BitVec.ofNat 32 temp.toNat) (modTile t.val (fun x => { x with dieTemp := BitVec.ofNat 32 temp.toNat }) s)))) ∧
  (∀ (t : Fin 8) (temp : BitVec 16) (s : State),
     s.por = true →
     exec (.dieOverTemperature t temp) s = .next s) ∧
  (∀ (t : Fin 8) (temp : BitVec 16) (s : State),
     s.por = false →
     sext 16 temp.toNat ≤ tjMax →
     exec (.dieOverTemperature t temp) s = .next (finish s)) ∧
  (∀ (t : Fin 8) (s : State),
     exec (.dieTemperatureNormal t) s = .next (finish (causeOff (tileSrc t.val 0xF) none s))) ∧
  (∀ (s : State),
     s.por = false →
     exec .sclkRefLost s = .next (finish (causeOn 0x008 none 0x2A 0 0 s))) ∧
  (∀ (s : State),
     s.por = true →
     exec .sclkRefLost s = .next s) ∧
  (∀ (s : State),
     exec .sclkRefReturn s = .next (finish (causeOff 0x008 none s))) ∧
  (∀ (s : State),
     s.por = false →
     exec .referencePllUnlock s = .next (finish (causeOn 0x009 none 0x2A 0 0 s))) ∧
  (∀ (s : State),
     s.por = true →
     exec .referencePllUnlock s = .next s) ∧
  (∀ (s : State),
     exec .referencePllLock s = .next (finish (causeOff 0x009 none s))) ∧
  (∀ (s : State),
     s.por = false →
     exec .syncMissing s = .next (finish (causeOn 0x00A none 0x2A 0 0 s))) ∧
  (∀ (s : State),
     s.por = true →
     exec .syncMissing s = .next s) ∧
  (∀ (s : State),
     exec .syncReturn s = .next (finish (causeOff 0x00A none s))) ∧
  (∀ (rail : Fin 25) (s : State),
     8 ≤ rail.val →
     rail.val < 16 →
     live s = true →
     exec (.domainSupplyValid rail) s = .next (finish (forEach (tilePorts (rail.val - 8)) ffWake { s with rails := s.rails ||| BitVec.ofNat 25 (2 ^ rail.val) }))) ∧
  (∀ (rail : Fin 25) (s : State),
     rail.val < 8 ∨ 16 ≤ rail.val ∨ live s = false →
     exec (.domainSupplyValid rail) s = .next (finish { s with rails := s.rails ||| BitVec.ofNat 25 (2 ^ rail.val) })) ∧
  (∀ (rail : Fin 25) (s : State),
     8 ≤ rail.val →
     rail.val < 16 →
     exec (.domainSupplyLost rail) s = .next (finish (forEach (tilePorts (rail.val - 8)) (fun n u => onlyIf (live u) (compEval n) (ffSettle n (ffBlock n (modFf n (fun f => { f with driven := false, sns := 0 }) u)))) { s with rails := s.rails &&& ~~~(BitVec.ofNat 25 (2 ^ rail.val)) }))) ∧
  (∀ (rail : Fin 25) (s : State),
     rail.val < 8 ∨ (16 ≤ rail.val ∧ rail.val < 24) →
     exec (.domainSupplyLost rail) s = .next (finish { s with rails := s.rails &&& ~~~(BitVec.ofNat 25 (2 ^ rail.val)) })) ∧
  (∀ (rail : Fin 25) (s : State),
     rail.val = 24 →
     exec (.domainSupplyLost rail) s = .next (finish (forEach (List.range 8) (fun p u => modLink p (fun l => { l with perst := false }) (if u.por then u else linkDown p .down u))
       (forEach (List.range 8) (fun t u => if (tile u t).trip then u else
           if live (modTile t (fun x => { x with trip := true }) u) then tripLow t (modTile t (fun x => { x with trip := true }) u) else modTile t (fun x => { x with trip := true }) u)
         (forEach (List.range 32) encDark { s with rails := s.rails &&& ~~~(BitVec.ofNat 25 (2 ^ rail.val)) }))))) ∧
  (∀ (e : Nat) (s : State),
     live s = true →
     (encP s e).a = false →
     (encP s e).b = false →
     (encP s e).z = false →
     encDark e s = modEnc e (fun y => { y with chgA := none, chgB := none, chgZ := none }) s)

/-- Power-on reset, RESET_N and a power fail -/
def Obligations.ResetsAndPowerFail : Prop :=
  (∀ (s : State),
     exec .powerOnResetEntry s = .next { volatileLost s with por := true }) ∧
  (∀ (s : State),
     s.por = true →
     s.rstn = false →
     exec .powerOnResetRelease s = .next (finish (collectorStart { s with por := false }))) ∧
  (∀ (s : State),
     s.por = false ∨ s.rstn = true →
     exec .powerOnResetRelease s = .next (finish s)) ∧
  (∀ (s : State),
     s.por = false →
     s.pfail = false →
     s.rstn = false →
     ∃ u, exec .resetNAssert s = .next (finish u) ∧ u.rstn = true ∧ u.por = false ∧ u.pfail = false ∧ u.step1 = false ∧ u.step2 = false ∧
       u.chans = State.reset.chans ∧ u.gens = State.reset.gens ∧ u.axes = State.reset.axes ∧ u.sup = State.reset.sup ∧ u.sw = State.reset.sw ∧ u.dma = State.reset.dma ∧ u.paq = State.reset.paq ∧ u.insBuf = State.reset.insBuf ∧ u.sessions = State.reset.sessions ∧ u.fabCfg = State.reset.fabCfg ∧ u.fabs = State.reset.fabs ∧ u.molts = State.reset.molts ∧ u.zones = State.reset.zones ∧ u.coll = State.reset.coll ∧ u.owner = State.reset.owner ∧ u.leases = State.reset.leases ∧ u.ops = State.reset.ops ∧ u.rep = State.reset.rep ∧ u.corr = State.reset.corr ∧ u.hold = State.reset.hold ∧ u.ruleQ = State.reset.ruleQ ∧ u.headLine = State.reset.headLine ∧
       u.tb = (stoppedByReset s).tb ∧ u.led = (stoppedByReset s).led ∧ u.ring = (stoppedByReset s).ring ∧ u.rpl = (stoppedByReset s).rpl ∧ u.mem = (stoppedByReset s).mem ∧ u.nvm = (stoppedByReset s).nvm ∧ u.links = (stoppedByReset s).links ∧ u.snaps = (stoppedByReset s).snaps ∧ u.snapSeq = (stoppedByReset s).snapSeq ∧ u.injFlag = (stoppedByReset s).injFlag ∧ u.slowFlag = (stoppedByReset s).slowFlag ∧ u.bootQ = (stoppedByReset s).bootQ ∧ u.dbgDis = (stoppedByReset s).dbgDis ∧ u.fabAuth = (stoppedByReset s).fabAuth ∧ u.sel = (stoppedByReset s).sel ∧ u.gaspSlot = (stoppedByReset s).gaspSlot ∧ u.pending = (stoppedByReset s).pending ∧ u.out = (stoppedByReset s).out ∧ u.rails = (stoppedByReset s).rails ∧
       rd u rstcutK = rd (stoppedByReset s) rstcutK + BitVec.ofNat 32 (linesCut (stoppedByReset s)) ∧
       ∀ k, keptByReset k = true → rd u k = rd (stoppedByReset s) k) ∧
  (∀ (s : State),
     (s.por || s.pfail || s.rstn) = true →
     exec .resetNAssert s = .next (finish { s with rstn := true })) ∧
  (∀ (s : State),
     pinPowered s .resetN = true →
     s.rstn = true →
     s.por = false →
     s.pfail = false →
     exec .resetNRelease s = .next (finish (collectorStart { s with rstn := false }))) ∧
  (∀ (s : State),
     pinPowered s .resetN = true →
     s.rstn = true →
     (s.por || s.pfail) = true →
     exec .resetNRelease s = .next (finish { s with rstn := false })) ∧
  (∀ (s : State),
     pinPowered s .resetN = false →
     exec .resetNRelease s = .next (finish s)) ∧
  (∀ (pin mon : Bool) (s : State),
     s.pfail = false →
     s.por = false →
     (pin || mon) = true →
     exec (.powerFail pin mon) s = .next (finish (forEach (List.range 96) (fun n u => ffSettle n (ffBlock n u))
       (forEach (List.range 8) regionStandby (writesLost
         { gaspWrite (pin.toNat + 2 * mon.toNat) s (collect (causeOn 0x007 none 0x2A 0 0 { s with ledStop := true })) with pfail := true, paused := true }))))) ∧
  (∀ (pin mon : Bool) (s : State),
     (s.pfail || s.por) = true →
     exec (.powerFail pin mon) s = .next (finish s))

/-- The boot sequence -/
def Obligations.BootSteps : Prop :=
  (∀ (s : State),
     live s = true →
     s.step1 = false →
     exec .bootNvmLoadDone s = .next (finish (supKick (setStep (forEach (List.range 96) ffWake { forEach (List.range 96) (fun n u => setNvv n (if areaOk s 0x4100 192 then ffNvEntry u n else 0) u)
       (bootMapped (bmOk s) (slotReady (if rf (nvmFlagged s) rstatK 1 0 = 1 then bootRoles (bmOk s) (nvmFlagged s) else nvmFlagged s))) with step1 := true }))))) ∧
  (∀ (s : State),
     live s = true →
     s.step1 = true →
     exec .bootNvmLoadDone s = .next (finish s)) ∧
  (∀ (failed transient : List (Fin 512 × BitVec 5 × BitVec 8)) (s : State),
     live s = true →
     s.step1 = true →
     s.step2 = false →
     failed = [] →
     transient = [] →
     s.flt.bw = [] →
     exec (.bootSelftestDone ⟨failed, transient⟩) s = .next (finish (setStep { s with step2 := true }))) ∧
  (∀ (failed transient : List (Fin 512 × BitVec 5 × BitVec 8)) (s : State),
     live s = true →
     s.step1 = true →
     s.step2 = false →
     failed ≠ [] →
     s.flt.bw = [] →
     exec (.bootSelftestDone ⟨failed, transient⟩) s = .next (finish (setStep { setB rstatK 8 true (forEach transient (fun f u => eccRaise f.1.val f.2.1.toNat f.2.2.toNat false u)
       (forEach failed (fun f u => eccRaise f.1.val f.2.1.toNat f.2.2.toNat true u) s)) with step2 := true }))) ∧
  (∀ (s : State),
     live s = true →
     s.step1 = true →
     s.step2 = false →
     s.flt.bw ≠ [] →
     exec (.bootSelftestDone ⟨[], []⟩) s = .next (finish (setStep { setB rstatK 8 true (forEach s.flt.bw (fun e u => forEach ((List.range 32).filter fun m => e.2 / 2 ^ m % 2 == 1)
       (fun m v => report (wireReport e.1 (memOf e.1 m) false true v) v) u) s) with step2 := true }))) ∧
  (∀ (failed transient : List (Fin 512 × BitVec 5 × BitVec 8)) (s : State),
     live s = true →
     s.step1 = false ∨ s.step2 = true →
     exec (.bootSelftestDone ⟨failed, transient⟩) s = .next (finish s)) ∧
  (∀ (sr : Fin 8) (e : Nat) (es : List Nat) (f : FlashStream) (s : State),
     live s = true →
     s.step1 = true →
     s.rails.getLsbD 16 = true →
     s.bootFabs = e :: es →
     (bitsOf (bmW s (11 + 2 * e)) 8).headD sr.val = sr.val →
     exec (.bootFabricLoadDone sr f) s = .next (finish (setStep (
       let r := bootCheck (bit (bmW s (11 + 2 * e)) 8) (bitsOf (bmW s (11 + 2 * e)) 8) f { s with bootFabs := es }
       if r.1 = 0 then r.2 else
       forEach (bitsOf (bmW s (11 + 2 * e)) 8) (fun i u => report { hwReport (0x0E8 + i) none (0x38 + i) (regOwner u i) with sev := some 1 } (setF (fbk i 0) 15 8 r.1 (regionClear i u)))
         { r.2 with rep := r.2.rep.filter fun x => x.src / 8 != 0x1D })))) ∧
  (∀ (sr : Fin 8) (e : Nat) (es : List Nat) (f : FlashStream) (s : State),
     live s = true →
     s.step1 = true →
     s.rails.getLsbD 16 = true →
     s.bootFabs = e :: es →
     bitsOf (bmW s (11 + 2 * e)) 8 = [sr.val] →
     (dW f.hdr 0 != 0x46514254 || dW f.hdr 1 != 0x01607196 || regionsOf (dW f.hdr 2) != [sr.val] || (dW f.hdr 3).toNat != 164) = false →
     ((s.fabAuth && !bit (dW f.hdr 2) 8) || (bit (dW f.hdr 2) 8 && !keySet s)) = true →
     exec (.bootFabricLoadDone sr f) s = .next (finish (setStep (report { hwReport (0x0E8 + sr.val) none (0x38 + sr.val) (regOwner { s with bootFabs := es } sr.val) with sev := some 1 }
       (setF (fbk sr.val 0) 15 8 0x0F (regionClear sr.val { s with bootFabs := es, rep := s.rep.filter fun x => x.src / 8 != 0x1D })))))) ∧
  (∀ (sr : Fin 8) (e : Nat) (es : List Nat) (f : FlashStream) (s : State),
     live s = true →
     s.step1 = true →
     s.rails.getLsbD 16 = false →
     s.bootFabs = e :: es →
     (bitsOf (bmW s (11 + 2 * e)) 8).headD sr.val = sr.val →
     exec (.bootFabricLoadDone sr f) s = .next (finish (setStep (bootLoad (bit (bmW s (11 + 2 * e)) 8) (bitsOf (bmW s (11 + 2 * e)) 8) ⟨[0, 0, 0, 0, 0, 0], [], 0, []⟩ { s with bootFabs := es })))) ∧
  (∀ (sr : Fin 8) (f : FlashStream) (s : State),
     live s = true →
     s.bootFabs = [] →
     exec (.bootFabricLoadDone sr f) s = .next (finish s)) ∧
  (∀ (s : State),
     live s = true →
     s.step1 = true →
     s.step2 = true →
     s.bootFabs = [] →
     s.bootTiles = [] →
     isReady s = false →
     exec .ready s = .next (finish (setF rstatK 6 4 6 s))) ∧
  (∀ (s : State),
     live s = true →
     (s.step1 && s.step2 && s.bootFabs.isEmpty && s.bootTiles.isEmpty) = false →
     exec .ready s = .next (finish s))

/-- A and B changing at once in a quadrature mode -/
def Obligations.IllegalTransitions : Prop :=
  (∀ (e : Fin 32) (a b : Bool) (s : State),
     live s = true →
     pinPowered s (.encAP e.val) = true →
     noEdgePins e.val s = true →
     (((encP s e.val).a != a) && ((encP s e.val).b != b)) = true →
     1 ≤ rf s (ek e.val 0) 2 0 →
     rf s (ek e.val 0) 2 0 ≤ 3 →
     unfiltered e.val s = true →
     exec (.encoderEdge e a b) s = .next (finish (raiseHw (0x060 + e.val) none 0x20 (ownerOf s 0x05 e.val)
       (incR (ek e.val 0x10) (sampled e.val a b s))))) ∧
  (∀ (e : Fin 32),
     fld (rstVal (srk (0x060 + e.val) 0)) 2 0 = 0 ∧ srcDefault (0x060 + e.val) = some 0)

/-- A step runs the command at the front of the queue -/
def Obligations.StepTakesFrontCommand : Prop :=
  ∀ (c : Instr) (cs : List Instr) (s : State),
    step { s with pending := c :: cs } = exec c { s with pending := cs }

/-- A step of an empty queue lets a nanosecond pass (the model's choice) -/
def Obligations.EmptyQueueTicks : Prop :=
  (∀ (s : State),
     s.pending = [] →
     s.por = false →
     s.pfail = false →
     step s = .next (finish (stallTick (fabDrives (swarmDrain (supSettle (countDown (writerTick { s with tb := (s.tb + 1) % 2 ^ 64 })))))))) ∧
  (∀ (s : State),
     s.pending = [] →
     s.por = false →
     s.pfail = true →
     step s = .next { s with tb := (s.tb + 1) % 2 ^ 64 }) ∧
  (∀ (s : State),
     s.pending = [] →
     s.por = true →
     step s = .next s)

/-- What power-on reset leaves -/
def Obligations.ResetState : Prop :=
  (∀ (c i j t a : Nat) (p : Fin 32) (k : RKey),
     a < 8 →
     State.reset.tb = 0 ∧ ownerOf State.reset c i = 0 ∧ State.reset.leases = [] ∧ ledGet State.reset c i t = 0 ∧ rd State.reset k = rstVal k ∧
     inUse State.reset 6 a p.val = decide (p = 0) ∧ inUse State.reset 0xF j p.val = decide (p = 0)) ∧
  (rf State.reset rstatK 6 4 = 1 ∧ rf State.reset rstatK 1 0 = 1 ∧ State.reset.pending = [] ∧ State.reset.Sound ∧ State.reset.Settled ∧
     Memory.wf memDflt State.reset.mem = true ∧ Memory.wf nvmDflt State.reset.nvm = true)

/-- Every step keeps the state sound -/
def Obligations.StepKeepsSound : Prop :=
  ∀ (s t : State),
    step s = .next t →
    s.Sound →
    t.Sound

/-- In power-on reset, at RESET_N and after a power fail no command acts but what comes from outside -/
def Obligations.DeadDeviceDoesNothing : Prop :=
  ∀ (c : Instr) (s : State),
    live s = false →
    ofTheBoard c = false →
    exec c s = .next s

/-- Where nothing is left to settle, the end of a step changes nothing -/
def Obligations.SettledStatesStay : Prop :=
  ∀ (s : State),
    s.Settled →
    finish s = s

/-- What taking a packet and writing its reply change, and what they leave -/
def Obligations.RepliesFrame : Prop :=
  ∀ (p : Pkt) (st : Nat) (pay : List Word) (s : State),
    (let t := firstReply p.q.val st p.tag.toNat (p.flags.getLsbD 0) pay (taken p s)
    t = { s with regs := t.regs, led := t.led, rr := (p.q.val + 1) % 65, aftRst := t.aftRst, rpl := t.rpl, out := t.out } ∧
    (∀ k : RKey, k ≠ qk p.q.val 0x10 → k ≠ qk p.q.val 0x1C → k ≠ qk p.q.val 0x24 → k ≠ qk p.q.val 0x30 → k ≠ bpk (p.q.val / 8) 0x9800 → rd t k = rd s k) ∧
    rf t (qk p.q.val 0x10) 9 0 = (rf s (qk p.q.val 0x10) 9 0 + 1 + p.pay.length) % 1024 ∧
    (∀ c i n, n < 16 → i < 4096 → c ≠ 7 ∨ i ≠ p.q.val → ledGet t c i n = ledGet s c i n))

/-- What a register write changes, and what it leaves -/
def Obligations.RegisterWritesFrame : Prop :=
  (∀ (q : Fin 65) (k : RKey) (v : Word) (m : BitVec 4) (s : State),
     writable q.val k v m s = true →
     locate k.addr = .reg k →
     k.addr < 2 ^ 32 →
     noAction k = true →
     ∃ u, exec (.registerWrite (.ici q (BitVec.ofNat 32 k.addr)) v m) s = .next (finish u) ∧ rd u k = mergeReg k (rd s k) v (byteMask m) ∧
       (∀ k', k' ≠ k → rd u k' = rd s k') ∧ u = { s with regs := u.regs, out := s.out ++ [.status q.val 0] }) ∧
  (∀ (p : Nat) (n : Fin 96) (k : RKey) (v m : Word) (s : State),
     (k.blk == .fil && k.off != 4 || k.blk == .thr) = true →
     k.i = n.val →
     (filStaged n.val).contains k = true →
     (fieldsOf k.blk k.off).isNone = false →
     applyReg p k v m s = wr k (mergeReg k (rd s k) v m) (stageHold n.val k s) ∧ ∀ x, act (applyReg p k v m s) x = act s x) ∧
  (∀ (n : Fin 96) (k : RKey) (s : State),
     rb s (fk n.val 4) 0 = false →
     stageHold n.val k s = modChan n.val (fun c => { c with held := c.held.filter (· != k), freed := c.freed.filter (· != k) }) { s with due := s.due.filter fun e => e.1 != k }) ∧
  (∀ (n : Fin 96) (k : RKey) (s : State),
     rb s (fk n.val 4) 0 = true →
     (chan s n.val).held.contains k = false →
     stageHold n.val k s = if act s k = rd s k then modChan n.val (fun c => { c with held := c.held ++ [k] }) s
       else modChan n.val (fun c => { c with held := c.held ++ [k] }) { s with due := s.due ++ [(k, rd s k)] }) ∧
  (∀ (n : Fin 96) (k : RKey) (s : State),
     rb s (fk n.val 4) 0 = true →
     (chan s n.val).held.contains k = true →
     stageHold n.val k s = s) ∧
  (∀ (p : Nat) (n : Fin 96) (v m : Word) (s : State),
     (bit (mergeReg (fk n.val 4) (rd s (fk n.val 4)) v m) 0 && !rb s (fk n.val 4) 0) = false →
     applyReg p (fk n.val 4) v m s = wr (fk n.val 4) (mergeReg (fk n.val 4) (rd s (fk n.val 4)) v m) s) ∧
  (∀ (p : Nat) (n : Fin 96) (v m : Word) (s : State),
     (bit (mergeReg (fk n.val 4) (rd s (fk n.val 4)) v m) 0 && !rb s (fk n.val 4) 0) = true →
     applyReg p (fk n.val 4) v m s = wr (fk n.val 4) (mergeReg (fk n.val 4) (rd s (fk n.val 4)) v m)
       (modChan n.val (fun c => { c with held := [], freed := c.freed ++ (chan s n.val).held.filter (fun k => !c.freed.contains k) }) { s with due := s.due.filter fun e => !(chan s n.val).held.contains e.1 }))

/-- Memories: what is written is read, the rest is as before, and the form stays canonical -/
def Obligations.MemoryHoldsWhatIsWritten : Prop :=
  (∀ (s : State) (off i : Nat) (bs : List Byte),
     i < bs.length →
     memRd memDflt (putMem off bs s).mem (off + i) = bs.getD i 0) ∧
  (∀ (s : State) (off x : Nat) (bs : List Byte),
     x < off ∨ off + bs.length ≤ x →
     memRd memDflt (putMem off bs s).mem x = memRd memDflt s.mem x) ∧
  (∀ (s : State) (off : Nat) (bs : List Byte),
     Memory.wf memDflt s.mem = true →
     Memory.wf memDflt (putMem off bs s).mem = true ∧ Memory.wf memDflt (zeroMem off bs.length s).mem = true) ∧
  (∀ (s : State) (off : Nat) (ws : List Word),
     Memory.wf nvmDflt s.nvm = true →
     Memory.wf nvmDflt (putNvmW off ws s).nvm = true) ∧
  (∀ (s : State) (off : Nat) (w : Word),
     memW (putMemW off [w] s) off = w) ∧
  (∀ (s : State) (off i : Nat) (w : Word),
     i < 4 →
     memRd memDflt (putMemW off [w] s).mem (off + i) = (w >>> (8 * i)).setWidth 8) ∧
  (∀ (s : State) (off x : Nat) (w : Word),
     x < off ∨ off + 4 ≤ x →
     memRd memDflt (putMemW off [w] s).mem x = memRd memDflt s.mem x) ∧
  (∀ (s : State) (off i : Nat) (w : Word),
     i < 4 →
     memRd nvmDflt (putNvmW off [w] s).nvm (off + i) = (w >>> (8 * i)).setWidth 8) ∧
  (∀ (s : State) (off : Nat) (w : Word),
     nvmW (putNvmW off [w] s) off = w) ∧
  (∀ (s : State) (off x : Nat) (ws : List Word),
     x < off ∨ off + 4 * ws.length ≤ x →
     memRd nvmDflt (putNvmW off ws s).nvm x = memRd nvmDflt s.nvm x) ∧
  (∀ (s : State) (off : Nat) (ws : List Word),
     putMemW off ws s = { s with mem := (putMemW off ws s).mem } ∧ putNvmW off ws s = { s with nvm := (putNvmW off ws s).nvm }) ∧
  (∀ (s : State) (k : RKey) (v : Word),
     k.i < 2 ^ 24 ∧ k.off < 2 ^ 24 →
     Regs.wf s.regs = true →
     Regs.wf s.act = true →
     Regs.wf (wr k v s).regs = true ∧ Regs.wf (setAct k v s).act = true ∧ (wr k v s).act = s.act ∧ (setAct k v s).regs = s.regs) ∧
  (∀ (s : State) (c i t n : Nat),
     spWf id (fun _ => 0) s.led = true →
     spWf id (fun _ => 0) (ledAdd c i t n s).led = true ∧ spWf id (fun _ => 0) (ledSub c i t n s).led = true)

/-- The outputs of a line: within 16 bits, never both SETTLE and EDGEFILL, the flagged ones first -/
def Obligations.FlaggedOutputsLead : Prop :=
  (∀ (c : PathCfg) (vs raw : List Mk) (i : Nat) (o : OutW),
     (fineLine c vs raw)[i]? = some o →
     -32768 ≤ o.y ∧ o.y ≤ 32767 ∧ (o.settle && o.edge) = false) ∧
  (∀ (c : PathCfg) (raw : List Mk) (i : Nat) (o : OutW),
     (fastLine c raw)[i]? = some o →
     -32768 ≤ o.y ∧ o.y ≤ 32767 ∧ (o.settle && o.edge) = false) ∧
  (∀ (c : PathCfg) (vs raw : List Mk) (i j : Nat) (o u : OutW),
     i ≤ j →
     (fineLine c vs raw)[i]? = some o →
     (fineLine c vs raw)[j]? = some u →
     (u.settle || u.edge) = true →
     (o.settle || o.edge) = true) ∧
  (∀ (c : PathCfg) (raw : List Mk) (i j : Nat) (o u : OutW),
     i ≤ j →
     (fastLine c raw)[i]? = some o →
     (fastLine c raw)[j]? = some u →
     (u.settle || u.edge) = true →
     (o.settle || o.edge) = true)
end

