-- ==== Sys2Proof/Laws/Maps.lean ====
section
/-! SUPPORT. Sparse maps and byte memories: reading after writing, and the canonical form. -/

namespace Sys2Proof.Machine

section Canonical
variable {κ α : Type} [DecidableEq α]

theorem spWf_cons (code : κ → Nat) (d : κ → α) (e : κ × α) (m : List (κ × α)) :
    spWf code d (e :: m) = true ↔ e.2 ≠ d e.1 ∧ (∀ f ∈ m, code e.1 < code f.1) ∧ spWf code d m = true := by
  simp [spWf, and_assoc]

theorem spWf_filter (code : κ → Nat) (d : κ → α) (p : κ × α → Bool) {m : List (κ × α)} (h : spWf code d m = true) :
    spWf code d (m.filter p) = true := by
  induction m with
  | nil => rfl
  | cons e m ih =>
    rw [spWf_cons] at h
    by_cases hp : p e = true
    · rw [List.filter_cons_of_pos hp, spWf_cons]
      exact ⟨h.1, fun f hf => h.2.1 f (List.mem_of_mem_filter hf), ih h.2.2⟩
    · rw [List.filter_cons_of_neg hp]; exact ih h.2.2

end Canonical

section Maps
variable {κ α : Type} [DecidableEq κ]

theorem spGet_spIns_same (code : κ → Nat) (d : κ → α) (m : List (κ × α)) (k : κ) (v : α) :
    spGet d (spIns code m k v) k = v := by
  induction m with
  | nil => simp [spIns, spGet]
  | cons e m ih =>
    obtain ⟨k', v'⟩ := e
    unfold spIns
    split
    · simp [spGet]
    · split
      · simp [spGet]
      · simp_all [spGet]

theorem spGet_spIns_ne (code : κ → Nat) (d : κ → α) (m : List (κ × α)) {k k₂ : κ} (v : α) (h : k₂ ≠ k) :
    spGet d (spIns code m k v) k₂ = spGet d m k₂ := by
  induction m with
  | nil => simp [spIns, spGet, h.symm]
  | cons e m ih =>
    obtain ⟨k', v'⟩ := e
    unfold spIns
    split
    · simp_all [spGet, h.symm]
    · split
      · simp [spGet, h.symm]
      · simp only [spGet, ih]

theorem spGet_filter_same (d : κ → α) (m : List (κ × α)) (k : κ) :
    spGet d (m.filter fun e => decide (e.1 ≠ k)) k = d k := by
  induction m with
  | nil => rfl
  | cons e m ih =>
    by_cases h : e.1 = k
    · simp_all
    · simp_all [spGet]

theorem spGet_filter_ne (d : κ → α) (m : List (κ × α)) {k k₂ : κ} (h : k₂ ≠ k) :
    spGet d (m.filter fun e => decide (e.1 ≠ k)) k₂ = spGet d m k₂ := by
  induction m with
  | nil => rfl
  | cons e m ih =>
    by_cases h' : e.1 = k
    · have : ¬ e.1 = k₂ := fun h₂ => h (h₂.symm.trans h')
      simp_all [spGet]
    · simp_all [spGet]

theorem mem_spIns (code : κ → Nat) (m : List (κ × α)) (k : κ) (v : α) (f : κ × α) (h : f ∈ spIns code m k v) :
    f = (k, v) ∨ f ∈ m := by
  induction m with
  | nil => simpa [spIns] using h
  | cons e m ih =>
    obtain ⟨k', v'⟩ := e
    unfold spIns at h
    split at h
    · simp only [List.mem_cons] at h ⊢; tauto
    · split at h
      · simp only [List.mem_cons] at h ⊢; tauto
      · simp only [List.mem_cons] at h ⊢; tauto

variable [DecidableEq α]

/-- What is written is read. -/
theorem spGet_spPut_same (code : κ → Nat) (d : κ → α) (m : List (κ × α)) (k : κ) (v : α) :
    spGet d (spPut code d m k v) k = v := by
  unfold spPut
  split
  · rw [spGet_filter_same]; simp_all
  · exact spGet_spIns_same ..

/-- Another key reads as before. -/
theorem spGet_spPut_ne (code : κ → Nat) (d : κ → α) (m : List (κ × α)) {k k₂ : κ} (v : α) (h : k₂ ≠ k) :
    spGet d (spPut code d m k v) k₂ = spGet d m k₂ := by
  unfold spPut
  split
  · exact spGet_filter_ne d m h
  · exact spGet_spIns_ne code d m v h

theorem spGet_spPut (code : κ → Nat) (d : κ → α) (m : List (κ × α)) (k k₂ : κ) (v : α) :
    spGet d (spPut code d m k v) k₂ = if k₂ = k then v else spGet d m k₂ := by
  split
  · next h => subst h; exact spGet_spPut_same ..
  · next h => exact spGet_spPut_ne code d m v h

theorem spWf_spIns {code : κ → Nat} (hc : Function.Injective code) (d : κ → α) {m : List (κ × α)} (k : κ) {v : α}
    (hv : v ≠ d k) (h : spWf code d m = true) : spWf code d (spIns code m k v) = true := by
  induction m with
  | nil => simp [spIns, spWf, hv]
  | cons e m ih =>
    obtain ⟨k', v'⟩ := e
    have h' := (spWf_cons code d _ _).mp h
    unfold spIns
    split
    · next hk => subst hk; exact (spWf_cons code d _ _).mpr ⟨hv, h'.2.1, h'.2.2⟩
    · next hk =>
      split
      · next hlt =>
        refine (spWf_cons code d _ _).mpr ⟨hv, fun f hf => ?_, h⟩
        rcases List.mem_cons.mp hf with rfl | hf
        · exact hlt
        · exact lt_trans hlt (h'.2.1 f hf)
      · next hlt =>
        refine (spWf_cons code d _ _).mpr ⟨h'.1, fun f hf => ?_, ih h'.2.2⟩
        rcases mem_spIns code m k v f hf with rfl | hf
        · exact lt_of_le_of_ne (Nat.le_of_not_lt hlt) fun he => hk (hc he)
        · exact h'.2.1 f hf

/-- Writing keeps the canonical form. -/
theorem spWf_spPut {code : κ → Nat} (hc : Function.Injective code) (d : κ → α) {m : List (κ × α)} (k : κ) (v : α)
    (h : spWf code d m = true) : spWf code d (spPut code d m k v) = true := by
  unfold spPut
  split
  · exact spWf_filter code d _ h
  · next hv => exact spWf_spIns hc d k hv h

/-- What a write leaves in the list is the entry written, or was there. -/
theorem mem_spPut (code : κ → Nat) (d : κ → α) (m : List (κ × α)) (k : κ) (v : α) (f : κ × α) (h : f ∈ spPut code d m k v) :
    f = (k, v) ∨ f ∈ m := by
  unfold spPut at h
  split at h
  · exact Or.inr (List.mem_filter.mp h).1
  · exact mem_spIns code m k v f h
/-- Writing keeps the canonical form where the order tells the keys apart. -/
theorem spWf_spPut_on {code : κ → Nat} (d : κ → α) {m : List (κ × α)} (k : κ) (v : α) (hc : ∀ e ∈ m, code e.1 = code k → e.1 = k)
    (h : spWf code d m = true) : spWf code d (spPut code d m k v) = true := by
  unfold spPut
  split
  · exact spWf_filter code d _ h
  · next hv =>
    induction m with
    | nil => simp [spIns, spWf, hv]
    | cons e m ih =>
      obtain ⟨k', v'⟩ := e
      have h' := (spWf_cons code d _ _).mp h
      unfold spIns
      split
      · next hk => subst hk; exact (spWf_cons code d _ _).mpr ⟨hv, h'.2.1, h'.2.2⟩
      · next hk =>
        split
        · next hlt =>
          refine (spWf_cons code d _ _).mpr ⟨hv, fun f hf => ?_, h⟩
          rcases List.mem_cons.mp hf with rfl | hf
          · exact hlt
          · exact lt_trans hlt (h'.2.1 f hf)
        · next hlt =>
          refine (spWf_cons code d _ _).mpr ⟨h'.1, fun f hf => ?_, ih (fun e he => hc e (List.mem_cons_of_mem _ he)) h'.2.2⟩
          rcases mem_spIns code m k v f hf with rfl | hf
          · exact lt_of_le_of_ne (Nat.le_of_not_lt hlt) fun he => hk (hc _ (List.mem_cons_self ..) he)
          · exact h'.2.1 f hf

end Maps

/-! ## Byte memories -/

@[simp] theorem memRd_memWr_same (d : Nat → Byte) (m : List Host.Cell) (a : Nat) (b : Byte) :
    memRd d (memWr d m a b) a = b := spGet_spPut_same ..

theorem memRd_memWr_ne (d : Nat → Byte) (m : List Host.Cell) {a x : Nat} (b : Byte) (h : x ≠ a) :
    memRd d (memWr d m a b) x = memRd d m x := spGet_spPut_ne id d m b h

theorem memWr_wf (d : Nat → Byte) {m : List Host.Cell} (a : Nat) (b : Byte) (h : spWf id d m = true) :
    spWf id d (memWr d m a b) = true := spWf_spPut Function.injective_id d a b h

/-- Writing bytes keeps the canonical form. -/
theorem memWrs_wf (d : Nat → Byte) (bs : List Byte) (m : List Host.Cell) (a : Nat) (h : spWf id d m = true) :
    spWf id d (memWrs d m a bs) = true := by
  induction bs generalizing m a with
  | nil => exact h
  | cons b bs ih => exact ih _ _ (memWr_wf d a b h)

/-- A byte outside those written reads as before. -/
theorem memRd_memWrs_out (d : Nat → Byte) (bs : List Byte) (m : List Host.Cell) (a x : Nat)
    (h : x < a ∨ a + bs.length ≤ x) : memRd d (memWrs d m a bs) x = memRd d m x := by
  induction bs generalizing m a with
  | nil => rfl
  | cons b bs ih =>
    simp only [List.length_cons] at h
    rw [memWrs, ih _ _ (by omega), memRd_memWr_ne d m b (by omega)]

/-- Byte `i` of those written reads as it was written. -/
theorem memRd_memWrs_in (d : Nat → Byte) (bs : List Byte) (m : List Host.Cell) (a i : Nat) (h : i < bs.length) :
    memRd d (memWrs d m a bs) (a + i) = bs[i] := by
  induction bs generalizing m a i with
  | nil => simp at h
  | cons b bs ih =>
    cases i with
    | zero => rw [memWrs, memRd_memWrs_out d bs _ _ _ (by omega)]; simp
    | succ i =>
      have := ih (memWr d m a b) (a + 1) i (by simpa using h)
      simpa [memWrs, Nat.add_assoc, Nat.add_comm 1 i] using this

/-- A range returned to the default: outside it every byte reads as before, inside it every byte reads the default. -/
theorem spGet_filter_range (d : Nat → Byte) (m : List Host.Cell) (off n x : Nat) :
    spGet d (m.filter fun c => decide (c.1 < off) || decide (off + n ≤ c.1)) x =
      if x < off ∨ off + n ≤ x then spGet d m x else d x := by
  induction m with
  | nil => simp [spGet]
  | cons e m ih =>
    obtain ⟨k, v⟩ := e
    by_cases hk : k < off ∨ off + n ≤ k
    · rw [List.filter_cons_of_pos (by simpa using hk)]
      by_cases hx : k = x
      · subst hx; simp [spGet, hk]
      · simp [spGet, hx, ih]
    · rw [List.filter_cons_of_neg (by simpa using hk), ih]
      by_cases hx : k = x
      · subst hx; simp [hk]
      · simp [spGet, hx]

end Sys2Proof.Machine
end

