-- ==== Sys2Proof/Laws/State.lean ====
section
/-! SUPPORT. What each update of the state leaves as it was: one lemma per field per update. -/

namespace Sys2Proof.Machine

variable (s : State)

/-! ## wr -/

@[simp] theorem wr_pending (k : RKey) (v : Word) : (wr k v s).pending = s.pending := rfl
@[simp] theorem wr_tb (k : RKey) (v : Word) : (wr k v s).tb = s.tb := rfl
@[simp] theorem wr_free (k : RKey) (v : Word) : (wr k v s).free = s.free := rfl
@[simp] theorem wr_out (k : RKey) (v : Word) : (wr k v s).out = s.out := rfl
@[simp] theorem wr_act (k : RKey) (v : Word) : (wr k v s).act = s.act := rfl
@[simp] theorem wr_due (k : RKey) (v : Word) : (wr k v s).due = s.due := rfl
@[simp] theorem wr_latch (k : RKey) (v : Word) : (wr k v s).latch = s.latch := rfl
@[simp] theorem wr_sel (k : RKey) (v : Word) : (wr k v s).sel = s.sel := rfl
@[simp] theorem wr_owner (k : RKey) (v : Word) : (wr k v s).owner = s.owner := rfl
@[simp] theorem wr_leases (k : RKey) (v : Word) : (wr k v s).leases = s.leases := rfl
@[simp] theorem wr_ring (k : RKey) (v : Word) : (wr k v s).ring = s.ring := rfl
@[simp] theorem wr_rpl (k : RKey) (v : Word) : (wr k v s).rpl = s.rpl := rfl
@[simp] theorem wr_rr (k : RKey) (v : Word) : (wr k v s).rr = s.rr := rfl
@[simp] theorem wr_aftRst (k : RKey) (v : Word) : (wr k v s).aftRst = s.aftRst := rfl
@[simp] theorem wr_halted (k : RKey) (v : Word) : (wr k v s).halted = s.halted := rfl
@[simp] theorem wr_haltReq (k : RKey) (v : Word) : (wr k v s).haltReq = s.haltReq := rfl
@[simp] theorem wr_restarting (k : RKey) (v : Word) : (wr k v s).restarting = s.restarting := rfl
@[simp] theorem wr_ops (k : RKey) (v : Word) : (wr k v s).ops = s.ops := rfl
@[simp] theorem wr_insWait (k : RKey) (v : Word) : (wr k v s).insWait = s.insWait := rfl
@[simp] theorem wr_links (k : RKey) (v : Word) : (wr k v s).links = s.links := rfl
@[simp] theorem wr_led (k : RKey) (v : Word) : (wr k v s).led = s.led := rfl
@[simp] theorem wr_ledStop (k : RKey) (v : Word) : (wr k v s).ledStop = s.ledStop := rfl
@[simp] theorem wr_snaps (k : RKey) (v : Word) : (wr k v s).snaps = s.snaps := rfl
@[simp] theorem wr_injFlag (k : RKey) (v : Word) : (wr k v s).injFlag = s.injFlag := rfl
@[simp] theorem wr_slowFlag (k : RKey) (v : Word) : (wr k v s).slowFlag = s.slowFlag := rfl
@[simp] theorem wr_bootQ (k : RKey) (v : Word) : (wr k v s).bootQ = s.bootQ := rfl
@[simp] theorem wr_flt (k : RKey) (v : Word) : (wr k v s).flt = s.flt := rfl
@[simp] theorem wr_rep (k : RKey) (v : Word) : (wr k v s).rep = s.rep := rfl
@[simp] theorem wr_pfail (k : RKey) (v : Word) : (wr k v s).pfail = s.pfail := rfl
@[simp] theorem wr_por (k : RKey) (v : Word) : (wr k v s).por = s.por := rfl
@[simp] theorem wr_rstn (k : RKey) (v : Word) : (wr k v s).rstn = s.rstn := rfl
@[simp] theorem wr_step1 (k : RKey) (v : Word) : (wr k v s).step1 = s.step1 := rfl
@[simp] theorem wr_step2 (k : RKey) (v : Word) : (wr k v s).step2 = s.step2 := rfl
@[simp] theorem wr_rails (k : RKey) (v : Word) : (wr k v s).rails = s.rails := rfl
@[simp] theorem wr_sclkHz (k : RKey) (v : Word) : (wr k v s).sclkHz = s.sclkHz := rfl
@[simp] theorem wr_nvm (k : RKey) (v : Word) : (wr k v s).nvm = s.nvm := rfl
@[simp] theorem wr_mem (k : RKey) (v : Word) : (wr k v s).mem = s.mem := rfl
@[simp] theorem wr_corr (k : RKey) (v : Word) : (wr k v s).corr = s.corr := rfl
@[simp] theorem wr_enc (k : RKey) (v : Word) : (wr k v s).enc = s.enc := rfl
@[simp] theorem wr_axes (k : RKey) (v : Word) : (wr k v s).axes = s.axes := rfl
@[simp] theorem wr_gens (k : RKey) (v : Word) : (wr k v s).gens = s.gens := rfl
@[simp] theorem wr_sw (k : RKey) (v : Word) : (wr k v s).sw = s.sw := rfl
@[simp] theorem wr_tiles (k : RKey) (v : Word) : (wr k v s).tiles = s.tiles := rfl
@[simp] theorem wr_chans (k : RKey) (v : Word) : (wr k v s).chans = s.chans := rfl
@[simp] theorem wr_vports (k : RKey) (v : Word) : (wr k v s).vports = s.vports := rfl
@[simp] theorem wr_coll (k : RKey) (v : Word) : (wr k v s).coll = s.coll := rfl
@[simp] theorem wr_stRr (k : RKey) (v : Word) : (wr k v s).stRr = s.stRr := rfl
@[simp] theorem wr_hold (k : RKey) (v : Word) : (wr k v s).hold = s.hold := rfl
@[simp] theorem wr_marks (k : RKey) (v : Word) : (wr k v s).marks = s.marks := rfl
@[simp] theorem wr_ruleQ (k : RKey) (v : Word) : (wr k v s).ruleQ = s.ruleQ := rfl
@[simp] theorem wr_zones (k : RKey) (v : Word) : (wr k v s).zones = s.zones := rfl
@[simp] theorem wr_insBuf (k : RKey) (v : Word) : (wr k v s).insBuf = s.insBuf := rfl
@[simp] theorem wr_molts (k : RKey) (v : Word) : (wr k v s).molts = s.molts := rfl
@[simp] theorem wr_headLine (k : RKey) (v : Word) : (wr k v s).headLine = s.headLine := rfl
@[simp] theorem wr_markers (k : RKey) (v : Word) : (wr k v s).markers = s.markers := rfl
@[simp] theorem wr_boardLvl (k : RKey) (v : Word) : (wr k v s).boardLvl = s.boardLvl := rfl
@[simp] theorem wr_tbpEnd (k : RKey) (v : Word) : (wr k v s).tbpEnd = s.tbpEnd := rfl
@[simp] theorem wr_tbpLast (k : RKey) (v : Word) : (wr k v s).tbpLast = s.tbpLast := rfl
@[simp] theorem wr_paq (k : RKey) (v : Word) : (wr k v s).paq = s.paq := rfl
@[simp] theorem wr_obs (k : RKey) (v : Word) : (wr k v s).obs = s.obs := rfl
@[simp] theorem wr_paused (k : RKey) (v : Word) : (wr k v s).paused = s.paused := rfl
@[simp] theorem wr_strms (k : RKey) (v : Word) : (wr k v s).strms = s.strms := rfl
@[simp] theorem wr_ffs (k : RKey) (v : Word) : (wr k v s).ffs = s.ffs := rfl
@[simp] theorem wr_sup (k : RKey) (v : Word) : (wr k v s).sup = s.sup := rfl
@[simp] theorem wr_sessions (k : RKey) (v : Word) : (wr k v s).sessions = s.sessions := rfl
@[simp] theorem wr_fabCfg (k : RKey) (v : Word) : (wr k v s).fabCfg = s.fabCfg := rfl
@[simp] theorem wr_fabs (k : RKey) (v : Word) : (wr k v s).fabs = s.fabs := rfl
@[simp] theorem wr_taps (k : RKey) (v : Word) : (wr k v s).taps = s.taps := rfl
@[simp] theorem wr_clkstop (k : RKey) (v : Word) : (wr k v s).clkstop = s.clkstop := rfl
@[simp] theorem wr_dma (k : RKey) (v : Word) : (wr k v s).dma = s.dma := rfl
@[simp] theorem wr_movers (k : RKey) (v : Word) : (wr k v s).movers = s.movers := rfl
@[simp] theorem wr_dmaRr0 (k : RKey) (v : Word) : (wr k v s).dmaRr0 = s.dmaRr0 := rfl
@[simp] theorem wr_dmaRr1 (k : RKey) (v : Word) : (wr k v s).dmaRr1 = s.dmaRr1 := rfl
@[simp] theorem wr_snapSeq (k : RKey) (v : Word) : (wr k v s).snapSeq = s.snapSeq := rfl
@[simp] theorem wr_bootFabs (k : RKey) (v : Word) : (wr k v s).bootFabs = s.bootFabs := rfl
@[simp] theorem wr_bootTiles (k : RKey) (v : Word) : (wr k v s).bootTiles = s.bootTiles := rfl
@[simp] theorem wr_dbgDis (k : RKey) (v : Word) : (wr k v s).dbgDis = s.dbgDis := rfl
@[simp] theorem wr_fabAuth (k : RKey) (v : Word) : (wr k v s).fabAuth = s.fabAuth := rfl
@[simp] theorem wr_gasp (k : RKey) (v : Word) : (wr k v s).gasp = s.gasp := rfl
@[simp] theorem wr_gaspSlot (k : RKey) (v : Word) : (wr k v s).gaspSlot = s.gaspSlot := rfl

/-! ## setAct -/

@[simp] theorem setAct_pending (k : RKey) (v : Word) : (setAct k v s).pending = s.pending := rfl
@[simp] theorem setAct_tb (k : RKey) (v : Word) : (setAct k v s).tb = s.tb := rfl
@[simp] theorem setAct_free (k : RKey) (v : Word) : (setAct k v s).free = s.free := rfl
@[simp] theorem setAct_out (k : RKey) (v : Word) : (setAct k v s).out = s.out := rfl
@[simp] theorem setAct_regs (k : RKey) (v : Word) : (setAct k v s).regs = s.regs := rfl
@[simp] theorem setAct_due (k : RKey) (v : Word) : (setAct k v s).due = s.due := rfl
@[simp] theorem setAct_latch (k : RKey) (v : Word) : (setAct k v s).latch = s.latch := rfl
@[simp] theorem setAct_sel (k : RKey) (v : Word) : (setAct k v s).sel = s.sel := rfl
@[simp] theorem setAct_owner (k : RKey) (v : Word) : (setAct k v s).owner = s.owner := rfl
@[simp] theorem setAct_leases (k : RKey) (v : Word) : (setAct k v s).leases = s.leases := rfl
@[simp] theorem setAct_ring (k : RKey) (v : Word) : (setAct k v s).ring = s.ring := rfl
@[simp] theorem setAct_rpl (k : RKey) (v : Word) : (setAct k v s).rpl = s.rpl := rfl
@[simp] theorem setAct_rr (k : RKey) (v : Word) : (setAct k v s).rr = s.rr := rfl
@[simp] theorem setAct_aftRst (k : RKey) (v : Word) : (setAct k v s).aftRst = s.aftRst := rfl
@[simp] theorem setAct_halted (k : RKey) (v : Word) : (setAct k v s).halted = s.halted := rfl
@[simp] theorem setAct_haltReq (k : RKey) (v : Word) : (setAct k v s).haltReq = s.haltReq := rfl
@[simp] theorem setAct_restarting (k : RKey) (v : Word) : (setAct k v s).restarting = s.restarting := rfl
@[simp] theorem setAct_ops (k : RKey) (v : Word) : (setAct k v s).ops = s.ops := rfl
@[simp] theorem setAct_insWait (k : RKey) (v : Word) : (setAct k v s).insWait = s.insWait := rfl
@[simp] theorem setAct_links (k : RKey) (v : Word) : (setAct k v s).links = s.links := rfl
@[simp] theorem setAct_led (k : RKey) (v : Word) : (setAct k v s).led = s.led := rfl
@[simp] theorem setAct_ledStop (k : RKey) (v : Word) : (setAct k v s).ledStop = s.ledStop := rfl
@[simp] theorem setAct_snaps (k : RKey) (v : Word) : (setAct k v s).snaps = s.snaps := rfl
@[simp] theorem setAct_injFlag (k : RKey) (v : Word) : (setAct k v s).injFlag = s.injFlag := rfl
@[simp] theorem setAct_slowFlag (k : RKey) (v : Word) : (setAct k v s).slowFlag = s.slowFlag := rfl
@[simp] theorem setAct_bootQ (k : RKey) (v : Word) : (setAct k v s).bootQ = s.bootQ := rfl
@[simp] theorem setAct_flt (k : RKey) (v : Word) : (setAct k v s).flt = s.flt := rfl
@[simp] theorem setAct_rep (k : RKey) (v : Word) : (setAct k v s).rep = s.rep := rfl
@[simp] theorem setAct_pfail (k : RKey) (v : Word) : (setAct k v s).pfail = s.pfail := rfl
@[simp] theorem setAct_por (k : RKey) (v : Word) : (setAct k v s).por = s.por := rfl
@[simp] theorem setAct_rstn (k : RKey) (v : Word) : (setAct k v s).rstn = s.rstn := rfl
@[simp] theorem setAct_step1 (k : RKey) (v : Word) : (setAct k v s).step1 = s.step1 := rfl
@[simp] theorem setAct_step2 (k : RKey) (v : Word) : (setAct k v s).step2 = s.step2 := rfl
@[simp] theorem setAct_rails (k : RKey) (v : Word) : (setAct k v s).rails = s.rails := rfl
@[simp] theorem setAct_sclkHz (k : RKey) (v : Word) : (setAct k v s).sclkHz = s.sclkHz := rfl
@[simp] theorem setAct_nvm (k : RKey) (v : Word) : (setAct k v s).nvm = s.nvm := rfl
@[simp] theorem setAct_mem (k : RKey) (v : Word) : (setAct k v s).mem = s.mem := rfl
@[simp] theorem setAct_corr (k : RKey) (v : Word) : (setAct k v s).corr = s.corr := rfl
@[simp] theorem setAct_enc (k : RKey) (v : Word) : (setAct k v s).enc = s.enc := rfl
@[simp] theorem setAct_axes (k : RKey) (v : Word) : (setAct k v s).axes = s.axes := rfl
@[simp] theorem setAct_gens (k : RKey) (v : Word) : (setAct k v s).gens = s.gens := rfl
@[simp] theorem setAct_sw (k : RKey) (v : Word) : (setAct k v s).sw = s.sw := rfl
@[simp] theorem setAct_tiles (k : RKey) (v : Word) : (setAct k v s).tiles = s.tiles := rfl
@[simp] theorem setAct_chans (k : RKey) (v : Word) : (setAct k v s).chans = s.chans := rfl
@[simp] theorem setAct_vports (k : RKey) (v : Word) : (setAct k v s).vports = s.vports := rfl
@[simp] theorem setAct_coll (k : RKey) (v : Word) : (setAct k v s).coll = s.coll := rfl
@[simp] theorem setAct_stRr (k : RKey) (v : Word) : (setAct k v s).stRr = s.stRr := rfl
@[simp] theorem setAct_hold (k : RKey) (v : Word) : (setAct k v s).hold = s.hold := rfl
@[simp] theorem setAct_marks (k : RKey) (v : Word) : (setAct k v s).marks = s.marks := rfl
@[simp] theorem setAct_ruleQ (k : RKey) (v : Word) : (setAct k v s).ruleQ = s.ruleQ := rfl
@[simp] theorem setAct_zones (k : RKey) (v : Word) : (setAct k v s).zones = s.zones := rfl
@[simp] theorem setAct_insBuf (k : RKey) (v : Word) : (setAct k v s).insBuf = s.insBuf := rfl
@[simp] theorem setAct_molts (k : RKey) (v : Word) : (setAct k v s).molts = s.molts := rfl
@[simp] theorem setAct_headLine (k : RKey) (v : Word) : (setAct k v s).headLine = s.headLine := rfl
@[simp] theorem setAct_markers (k : RKey) (v : Word) : (setAct k v s).markers = s.markers := rfl
@[simp] theorem setAct_boardLvl (k : RKey) (v : Word) : (setAct k v s).boardLvl = s.boardLvl := rfl
@[simp] theorem setAct_tbpEnd (k : RKey) (v : Word) : (setAct k v s).tbpEnd = s.tbpEnd := rfl
@[simp] theorem setAct_tbpLast (k : RKey) (v : Word) : (setAct k v s).tbpLast = s.tbpLast := rfl
@[simp] theorem setAct_paq (k : RKey) (v : Word) : (setAct k v s).paq = s.paq := rfl
@[simp] theorem setAct_obs (k : RKey) (v : Word) : (setAct k v s).obs = s.obs := rfl
@[simp] theorem setAct_paused (k : RKey) (v : Word) : (setAct k v s).paused = s.paused := rfl
@[simp] theorem setAct_strms (k : RKey) (v : Word) : (setAct k v s).strms = s.strms := rfl
@[simp] theorem setAct_ffs (k : RKey) (v : Word) : (setAct k v s).ffs = s.ffs := rfl
@[simp] theorem setAct_sup (k : RKey) (v : Word) : (setAct k v s).sup = s.sup := rfl
@[simp] theorem setAct_sessions (k : RKey) (v : Word) : (setAct k v s).sessions = s.sessions := rfl
@[simp] theorem setAct_fabCfg (k : RKey) (v : Word) : (setAct k v s).fabCfg = s.fabCfg := rfl
@[simp] theorem setAct_fabs (k : RKey) (v : Word) : (setAct k v s).fabs = s.fabs := rfl
@[simp] theorem setAct_taps (k : RKey) (v : Word) : (setAct k v s).taps = s.taps := rfl
@[simp] theorem setAct_clkstop (k : RKey) (v : Word) : (setAct k v s).clkstop = s.clkstop := rfl
@[simp] theorem setAct_dma (k : RKey) (v : Word) : (setAct k v s).dma = s.dma := rfl
@[simp] theorem setAct_movers (k : RKey) (v : Word) : (setAct k v s).movers = s.movers := rfl
@[simp] theorem setAct_dmaRr0 (k : RKey) (v : Word) : (setAct k v s).dmaRr0 = s.dmaRr0 := rfl
@[simp] theorem setAct_dmaRr1 (k : RKey) (v : Word) : (setAct k v s).dmaRr1 = s.dmaRr1 := rfl
@[simp] theorem setAct_snapSeq (k : RKey) (v : Word) : (setAct k v s).snapSeq = s.snapSeq := rfl
@[simp] theorem setAct_bootFabs (k : RKey) (v : Word) : (setAct k v s).bootFabs = s.bootFabs := rfl
@[simp] theorem setAct_bootTiles (k : RKey) (v : Word) : (setAct k v s).bootTiles = s.bootTiles := rfl
@[simp] theorem setAct_dbgDis (k : RKey) (v : Word) : (setAct k v s).dbgDis = s.dbgDis := rfl
@[simp] theorem setAct_fabAuth (k : RKey) (v : Word) : (setAct k v s).fabAuth = s.fabAuth := rfl
@[simp] theorem setAct_gasp (k : RKey) (v : Word) : (setAct k v s).gasp = s.gasp := rfl
@[simp] theorem setAct_gaspSlot (k : RKey) (v : Word) : (setAct k v s).gaspSlot = s.gaspSlot := rfl

/-! ## emit -/

@[simp] theorem emit_pending (o : Out) : (emit o s).pending = s.pending := rfl
@[simp] theorem emit_tb (o : Out) : (emit o s).tb = s.tb := rfl
@[simp] theorem emit_free (o : Out) : (emit o s).free = s.free := rfl
@[simp] theorem emit_regs (o : Out) : (emit o s).regs = s.regs := rfl
@[simp] theorem emit_act (o : Out) : (emit o s).act = s.act := rfl
@[simp] theorem emit_due (o : Out) : (emit o s).due = s.due := rfl
@[simp] theorem emit_latch (o : Out) : (emit o s).latch = s.latch := rfl
@[simp] theorem emit_sel (o : Out) : (emit o s).sel = s.sel := rfl
@[simp] theorem emit_owner (o : Out) : (emit o s).owner = s.owner := rfl
@[simp] theorem emit_leases (o : Out) : (emit o s).leases = s.leases := rfl
@[simp] theorem emit_ring (o : Out) : (emit o s).ring = s.ring := rfl
@[simp] theorem emit_rpl (o : Out) : (emit o s).rpl = s.rpl := rfl
@[simp] theorem emit_rr (o : Out) : (emit o s).rr = s.rr := rfl
@[simp] theorem emit_aftRst (o : Out) : (emit o s).aftRst = s.aftRst := rfl
@[simp] theorem emit_halted (o : Out) : (emit o s).halted = s.halted := rfl
@[simp] theorem emit_haltReq (o : Out) : (emit o s).haltReq = s.haltReq := rfl
@[simp] theorem emit_restarting (o : Out) : (emit o s).restarting = s.restarting := rfl
@[simp] theorem emit_ops (o : Out) : (emit o s).ops = s.ops := rfl
@[simp] theorem emit_insWait (o : Out) : (emit o s).insWait = s.insWait := rfl
@[simp] theorem emit_links (o : Out) : (emit o s).links = s.links := rfl
@[simp] theorem emit_led (o : Out) : (emit o s).led = s.led := rfl
@[simp] theorem emit_ledStop (o : Out) : (emit o s).ledStop = s.ledStop := rfl
@[simp] theorem emit_snaps (o : Out) : (emit o s).snaps = s.snaps := rfl
@[simp] theorem emit_injFlag (o : Out) : (emit o s).injFlag = s.injFlag := rfl
@[simp] theorem emit_slowFlag (o : Out) : (emit o s).slowFlag = s.slowFlag := rfl
@[simp] theorem emit_bootQ (o : Out) : (emit o s).bootQ = s.bootQ := rfl
@[simp] theorem emit_flt (o : Out) : (emit o s).flt = s.flt := rfl
@[simp] theorem emit_rep (o : Out) : (emit o s).rep = s.rep := rfl
@[simp] theorem emit_pfail (o : Out) : (emit o s).pfail = s.pfail := rfl
@[simp] theorem emit_por (o : Out) : (emit o s).por = s.por := rfl
@[simp] theorem emit_rstn (o : Out) : (emit o s).rstn = s.rstn := rfl
@[simp] theorem emit_step1 (o : Out) : (emit o s).step1 = s.step1 := rfl
@[simp] theorem emit_step2 (o : Out) : (emit o s).step2 = s.step2 := rfl
@[simp] theorem emit_rails (o : Out) : (emit o s).rails = s.rails := rfl
@[simp] theorem emit_sclkHz (o : Out) : (emit o s).sclkHz = s.sclkHz := rfl
@[simp] theorem emit_nvm (o : Out) : (emit o s).nvm = s.nvm := rfl
@[simp] theorem emit_mem (o : Out) : (emit o s).mem = s.mem := rfl
@[simp] theorem emit_corr (o : Out) : (emit o s).corr = s.corr := rfl
@[simp] theorem emit_enc (o : Out) : (emit o s).enc = s.enc := rfl
@[simp] theorem emit_axes (o : Out) : (emit o s).axes = s.axes := rfl
@[simp] theorem emit_gens (o : Out) : (emit o s).gens = s.gens := rfl
@[simp] theorem emit_sw (o : Out) : (emit o s).sw = s.sw := rfl
@[simp] theorem emit_tiles (o : Out) : (emit o s).tiles = s.tiles := rfl
@[simp] theorem emit_chans (o : Out) : (emit o s).chans = s.chans := rfl
@[simp] theorem emit_vports (o : Out) : (emit o s).vports = s.vports := rfl
@[simp] theorem emit_coll (o : Out) : (emit o s).coll = s.coll := rfl
@[simp] theorem emit_stRr (o : Out) : (emit o s).stRr = s.stRr := rfl
@[simp] theorem emit_hold (o : Out) : (emit o s).hold = s.hold := rfl
@[simp] theorem emit_marks (o : Out) : (emit o s).marks = s.marks := rfl
@[simp] theorem emit_ruleQ (o : Out) : (emit o s).ruleQ = s.ruleQ := rfl
@[simp] theorem emit_zones (o : Out) : (emit o s).zones = s.zones := rfl
@[simp] theorem emit_insBuf (o : Out) : (emit o s).insBuf = s.insBuf := rfl
@[simp] theorem emit_molts (o : Out) : (emit o s).molts = s.molts := rfl
@[simp] theorem emit_headLine (o : Out) : (emit o s).headLine = s.headLine := rfl
@[simp] theorem emit_markers (o : Out) : (emit o s).markers = s.markers := rfl
@[simp] theorem emit_boardLvl (o : Out) : (emit o s).boardLvl = s.boardLvl := rfl
@[simp] theorem emit_tbpEnd (o : Out) : (emit o s).tbpEnd = s.tbpEnd := rfl
@[simp] theorem emit_tbpLast (o : Out) : (emit o s).tbpLast = s.tbpLast := rfl
@[simp] theorem emit_paq (o : Out) : (emit o s).paq = s.paq := rfl
@[simp] theorem emit_obs (o : Out) : (emit o s).obs = s.obs := rfl
@[simp] theorem emit_paused (o : Out) : (emit o s).paused = s.paused := rfl
@[simp] theorem emit_strms (o : Out) : (emit o s).strms = s.strms := rfl
@[simp] theorem emit_ffs (o : Out) : (emit o s).ffs = s.ffs := rfl
@[simp] theorem emit_sup (o : Out) : (emit o s).sup = s.sup := rfl
@[simp] theorem emit_sessions (o : Out) : (emit o s).sessions = s.sessions := rfl
@[simp] theorem emit_fabCfg (o : Out) : (emit o s).fabCfg = s.fabCfg := rfl
@[simp] theorem emit_fabs (o : Out) : (emit o s).fabs = s.fabs := rfl
@[simp] theorem emit_taps (o : Out) : (emit o s).taps = s.taps := rfl
@[simp] theorem emit_clkstop (o : Out) : (emit o s).clkstop = s.clkstop := rfl
@[simp] theorem emit_dma (o : Out) : (emit o s).dma = s.dma := rfl
@[simp] theorem emit_movers (o : Out) : (emit o s).movers = s.movers := rfl
@[simp] theorem emit_dmaRr0 (o : Out) : (emit o s).dmaRr0 = s.dmaRr0 := rfl
@[simp] theorem emit_dmaRr1 (o : Out) : (emit o s).dmaRr1 = s.dmaRr1 := rfl
@[simp] theorem emit_snapSeq (o : Out) : (emit o s).snapSeq = s.snapSeq := rfl
@[simp] theorem emit_bootFabs (o : Out) : (emit o s).bootFabs = s.bootFabs := rfl
@[simp] theorem emit_bootTiles (o : Out) : (emit o s).bootTiles = s.bootTiles := rfl
@[simp] theorem emit_dbgDis (o : Out) : (emit o s).dbgDis = s.dbgDis := rfl
@[simp] theorem emit_fabAuth (o : Out) : (emit o s).fabAuth = s.fabAuth := rfl
@[simp] theorem emit_gasp (o : Out) : (emit o s).gasp = s.gasp := rfl
@[simp] theorem emit_gaspSlot (o : Out) : (emit o s).gaspSlot = s.gaspSlot := rfl

/-! ## report -/

@[simp] theorem report_pending (r : Report) : (report r s).pending = s.pending := rfl
@[simp] theorem report_tb (r : Report) : (report r s).tb = s.tb := rfl
@[simp] theorem report_free (r : Report) : (report r s).free = s.free := rfl
@[simp] theorem report_out (r : Report) : (report r s).out = s.out := rfl
@[simp] theorem report_regs (r : Report) : (report r s).regs = s.regs := rfl
@[simp] theorem report_act (r : Report) : (report r s).act = s.act := rfl
@[simp] theorem report_due (r : Report) : (report r s).due = s.due := rfl
@[simp] theorem report_latch (r : Report) : (report r s).latch = s.latch := rfl
@[simp] theorem report_sel (r : Report) : (report r s).sel = s.sel := rfl
@[simp] theorem report_owner (r : Report) : (report r s).owner = s.owner := rfl
@[simp] theorem report_leases (r : Report) : (report r s).leases = s.leases := rfl
@[simp] theorem report_ring (r : Report) : (report r s).ring = s.ring := rfl
@[simp] theorem report_rpl (r : Report) : (report r s).rpl = s.rpl := rfl
@[simp] theorem report_rr (r : Report) : (report r s).rr = s.rr := rfl
@[simp] theorem report_aftRst (r : Report) : (report r s).aftRst = s.aftRst := rfl
@[simp] theorem report_halted (r : Report) : (report r s).halted = s.halted := rfl
@[simp] theorem report_haltReq (r : Report) : (report r s).haltReq = s.haltReq := rfl
@[simp] theorem report_restarting (r : Report) : (report r s).restarting = s.restarting := rfl
@[simp] theorem report_ops (r : Report) : (report r s).ops = s.ops := rfl
@[simp] theorem report_insWait (r : Report) : (report r s).insWait = s.insWait := rfl
@[simp] theorem report_links (r : Report) : (report r s).links = s.links := rfl
@[simp] theorem report_led (r : Report) : (report r s).led = s.led := rfl
@[simp] theorem report_ledStop (r : Report) : (report r s).ledStop = s.ledStop := rfl
@[simp] theorem report_snaps (r : Report) : (report r s).snaps = s.snaps := rfl
@[simp] theorem report_injFlag (r : Report) : (report r s).injFlag = s.injFlag := rfl
@[simp] theorem report_slowFlag (r : Report) : (report r s).slowFlag = s.slowFlag := rfl
@[simp] theorem report_bootQ (r : Report) : (report r s).bootQ = s.bootQ := rfl
@[simp] theorem report_flt (r : Report) : (report r s).flt = s.flt := rfl
@[simp] theorem report_pfail (r : Report) : (report r s).pfail = s.pfail := rfl
@[simp] theorem report_por (r : Report) : (report r s).por = s.por := rfl
@[simp] theorem report_rstn (r : Report) : (report r s).rstn = s.rstn := rfl
@[simp] theorem report_step1 (r : Report) : (report r s).step1 = s.step1 := rfl
@[simp] theorem report_step2 (r : Report) : (report r s).step2 = s.step2 := rfl
@[simp] theorem report_rails (r : Report) : (report r s).rails = s.rails := rfl
@[simp] theorem report_sclkHz (r : Report) : (report r s).sclkHz = s.sclkHz := rfl
@[simp] theorem report_nvm (r : Report) : (report r s).nvm = s.nvm := rfl
@[simp] theorem report_mem (r : Report) : (report r s).mem = s.mem := rfl
@[simp] theorem report_corr (r : Report) : (report r s).corr = s.corr := rfl
@[simp] theorem report_enc (r : Report) : (report r s).enc = s.enc := rfl
@[simp] theorem report_axes (r : Report) : (report r s).axes = s.axes := rfl
@[simp] theorem report_gens (r : Report) : (report r s).gens = s.gens := rfl
@[simp] theorem report_sw (r : Report) : (report r s).sw = s.sw := rfl
@[simp] theorem report_tiles (r : Report) : (report r s).tiles = s.tiles := rfl
@[simp] theorem report_chans (r : Report) : (report r s).chans = s.chans := rfl
@[simp] theorem report_vports (r : Report) : (report r s).vports = s.vports := rfl
@[simp] theorem report_coll (r : Report) : (report r s).coll = s.coll := rfl
@[simp] theorem report_stRr (r : Report) : (report r s).stRr = s.stRr := rfl
@[simp] theorem report_hold (r : Report) : (report r s).hold = s.hold := rfl
@[simp] theorem report_marks (r : Report) : (report r s).marks = s.marks := rfl
@[simp] theorem report_ruleQ (r : Report) : (report r s).ruleQ = s.ruleQ := rfl
@[simp] theorem report_zones (r : Report) : (report r s).zones = s.zones := rfl
@[simp] theorem report_insBuf (r : Report) : (report r s).insBuf = s.insBuf := rfl
@[simp] theorem report_molts (r : Report) : (report r s).molts = s.molts := rfl
@[simp] theorem report_headLine (r : Report) : (report r s).headLine = s.headLine := rfl
@[simp] theorem report_markers (r : Report) : (report r s).markers = s.markers := rfl
@[simp] theorem report_boardLvl (r : Report) : (report r s).boardLvl = s.boardLvl := rfl
@[simp] theorem report_tbpEnd (r : Report) : (report r s).tbpEnd = s.tbpEnd := rfl
@[simp] theorem report_tbpLast (r : Report) : (report r s).tbpLast = s.tbpLast := rfl
@[simp] theorem report_paq (r : Report) : (report r s).paq = s.paq := rfl
@[simp] theorem report_obs (r : Report) : (report r s).obs = s.obs := rfl
@[simp] theorem report_paused (r : Report) : (report r s).paused = s.paused := rfl
@[simp] theorem report_strms (r : Report) : (report r s).strms = s.strms := rfl
@[simp] theorem report_ffs (r : Report) : (report r s).ffs = s.ffs := rfl
@[simp] theorem report_sup (r : Report) : (report r s).sup = s.sup := rfl
@[simp] theorem report_sessions (r : Report) : (report r s).sessions = s.sessions := rfl
@[simp] theorem report_fabCfg (r : Report) : (report r s).fabCfg = s.fabCfg := rfl
@[simp] theorem report_fabs (r : Report) : (report r s).fabs = s.fabs := rfl
@[simp] theorem report_taps (r : Report) : (report r s).taps = s.taps := rfl
@[simp] theorem report_clkstop (r : Report) : (report r s).clkstop = s.clkstop := rfl
@[simp] theorem report_dma (r : Report) : (report r s).dma = s.dma := rfl
@[simp] theorem report_movers (r : Report) : (report r s).movers = s.movers := rfl
@[simp] theorem report_dmaRr0 (r : Report) : (report r s).dmaRr0 = s.dmaRr0 := rfl
@[simp] theorem report_dmaRr1 (r : Report) : (report r s).dmaRr1 = s.dmaRr1 := rfl
@[simp] theorem report_snapSeq (r : Report) : (report r s).snapSeq = s.snapSeq := rfl
@[simp] theorem report_bootFabs (r : Report) : (report r s).bootFabs = s.bootFabs := rfl
@[simp] theorem report_bootTiles (r : Report) : (report r s).bootTiles = s.bootTiles := rfl
@[simp] theorem report_dbgDis (r : Report) : (report r s).dbgDis = s.dbgDis := rfl
@[simp] theorem report_fabAuth (r : Report) : (report r s).fabAuth = s.fabAuth := rfl
@[simp] theorem report_gasp (r : Report) : (report r s).gasp = s.gasp := rfl
@[simp] theorem report_gaspSlot (r : Report) : (report r s).gaspSlot = s.gaspSlot := rfl

/-! ## putMem -/

@[simp] theorem putMem_pending (a : Nat) (bs : List Byte) : (putMem a bs s).pending = s.pending := rfl
@[simp] theorem putMem_tb (a : Nat) (bs : List Byte) : (putMem a bs s).tb = s.tb := rfl
@[simp] theorem putMem_free (a : Nat) (bs : List Byte) : (putMem a bs s).free = s.free := rfl
@[simp] theorem putMem_out (a : Nat) (bs : List Byte) : (putMem a bs s).out = s.out := rfl
@[simp] theorem putMem_regs (a : Nat) (bs : List Byte) : (putMem a bs s).regs = s.regs := rfl
@[simp] theorem putMem_act (a : Nat) (bs : List Byte) : (putMem a bs s).act = s.act := rfl
@[simp] theorem putMem_due (a : Nat) (bs : List Byte) : (putMem a bs s).due = s.due := rfl
@[simp] theorem putMem_latch (a : Nat) (bs : List Byte) : (putMem a bs s).latch = s.latch := rfl
@[simp] theorem putMem_sel (a : Nat) (bs : List Byte) : (putMem a bs s).sel = s.sel := rfl
@[simp] theorem putMem_owner (a : Nat) (bs : List Byte) : (putMem a bs s).owner = s.owner := rfl
@[simp] theorem putMem_leases (a : Nat) (bs : List Byte) : (putMem a bs s).leases = s.leases := rfl
@[simp] theorem putMem_ring (a : Nat) (bs : List Byte) : (putMem a bs s).ring = s.ring := rfl
@[simp] theorem putMem_rpl (a : Nat) (bs : List Byte) : (putMem a bs s).rpl = s.rpl := rfl
@[simp] theorem putMem_rr (a : Nat) (bs : List Byte) : (putMem a bs s).rr = s.rr := rfl
@[simp] theorem putMem_aftRst (a : Nat) (bs : List Byte) : (putMem a bs s).aftRst = s.aftRst := rfl
@[simp] theorem putMem_halted (a : Nat) (bs : List Byte) : (putMem a bs s).halted = s.halted := rfl
@[simp] theorem putMem_haltReq (a : Nat) (bs : List Byte) : (putMem a bs s).haltReq = s.haltReq := rfl
@[simp] theorem putMem_restarting (a : Nat) (bs : List Byte) : (putMem a bs s).restarting = s.restarting := rfl
@[simp] theorem putMem_ops (a : Nat) (bs : List Byte) : (putMem a bs s).ops = s.ops := rfl
@[simp] theorem putMem_insWait (a : Nat) (bs : List Byte) : (putMem a bs s).insWait = s.insWait := rfl
@[simp] theorem putMem_links (a : Nat) (bs : List Byte) : (putMem a bs s).links = s.links := rfl
@[simp] theorem putMem_led (a : Nat) (bs : List Byte) : (putMem a bs s).led = s.led := rfl
@[simp] theorem putMem_ledStop (a : Nat) (bs : List Byte) : (putMem a bs s).ledStop = s.ledStop := rfl
@[simp] theorem putMem_snaps (a : Nat) (bs : List Byte) : (putMem a bs s).snaps = s.snaps := rfl
@[simp] theorem putMem_injFlag (a : Nat) (bs : List Byte) : (putMem a bs s).injFlag = s.injFlag := rfl
@[simp] theorem putMem_slowFlag (a : Nat) (bs : List Byte) : (putMem a bs s).slowFlag = s.slowFlag := rfl
@[simp] theorem putMem_bootQ (a : Nat) (bs : List Byte) : (putMem a bs s).bootQ = s.bootQ := rfl
@[simp] theorem putMem_flt (a : Nat) (bs : List Byte) : (putMem a bs s).flt = s.flt := rfl
@[simp] theorem putMem_rep (a : Nat) (bs : List Byte) : (putMem a bs s).rep = s.rep := rfl
@[simp] theorem putMem_pfail (a : Nat) (bs : List Byte) : (putMem a bs s).pfail = s.pfail := rfl
@[simp] theorem putMem_por (a : Nat) (bs : List Byte) : (putMem a bs s).por = s.por := rfl
@[simp] theorem putMem_rstn (a : Nat) (bs : List Byte) : (putMem a bs s).rstn = s.rstn := rfl
@[simp] theorem putMem_step1 (a : Nat) (bs : List Byte) : (putMem a bs s).step1 = s.step1 := rfl
@[simp] theorem putMem_step2 (a : Nat) (bs : List Byte) : (putMem a bs s).step2 = s.step2 := rfl
@[simp] theorem putMem_rails (a : Nat) (bs : List Byte) : (putMem a bs s).rails = s.rails := rfl
@[simp] theorem putMem_sclkHz (a : Nat) (bs : List Byte) : (putMem a bs s).sclkHz = s.sclkHz := rfl
@[simp] theorem putMem_nvm (a : Nat) (bs : List Byte) : (putMem a bs s).nvm = s.nvm := rfl
@[simp] theorem putMem_corr (a : Nat) (bs : List Byte) : (putMem a bs s).corr = s.corr := rfl
@[simp] theorem putMem_enc (a : Nat) (bs : List Byte) : (putMem a bs s).enc = s.enc := rfl
@[simp] theorem putMem_axes (a : Nat) (bs : List Byte) : (putMem a bs s).axes = s.axes := rfl
@[simp] theorem putMem_gens (a : Nat) (bs : List Byte) : (putMem a bs s).gens = s.gens := rfl
@[simp] theorem putMem_sw (a : Nat) (bs : List Byte) : (putMem a bs s).sw = s.sw := rfl
@[simp] theorem putMem_tiles (a : Nat) (bs : List Byte) : (putMem a bs s).tiles = s.tiles := rfl
@[simp] theorem putMem_chans (a : Nat) (bs : List Byte) : (putMem a bs s).chans = s.chans := rfl
@[simp] theorem putMem_vports (a : Nat) (bs : List Byte) : (putMem a bs s).vports = s.vports := rfl
@[simp] theorem putMem_coll (a : Nat) (bs : List Byte) : (putMem a bs s).coll = s.coll := rfl
@[simp] theorem putMem_stRr (a : Nat) (bs : List Byte) : (putMem a bs s).stRr = s.stRr := rfl
@[simp] theorem putMem_hold (a : Nat) (bs : List Byte) : (putMem a bs s).hold = s.hold := rfl
@[simp] theorem putMem_marks (a : Nat) (bs : List Byte) : (putMem a bs s).marks = s.marks := rfl
@[simp] theorem putMem_ruleQ (a : Nat) (bs : List Byte) : (putMem a bs s).ruleQ = s.ruleQ := rfl
@[simp] theorem putMem_zones (a : Nat) (bs : List Byte) : (putMem a bs s).zones = s.zones := rfl
@[simp] theorem putMem_insBuf (a : Nat) (bs : List Byte) : (putMem a bs s).insBuf = s.insBuf := rfl
@[simp] theorem putMem_molts (a : Nat) (bs : List Byte) : (putMem a bs s).molts = s.molts := rfl
@[simp] theorem putMem_headLine (a : Nat) (bs : List Byte) : (putMem a bs s).headLine = s.headLine := rfl
@[simp] theorem putMem_markers (a : Nat) (bs : List Byte) : (putMem a bs s).markers = s.markers := rfl
@[simp] theorem putMem_boardLvl (a : Nat) (bs : List Byte) : (putMem a bs s).boardLvl = s.boardLvl := rfl
@[simp] theorem putMem_tbpEnd (a : Nat) (bs : List Byte) : (putMem a bs s).tbpEnd = s.tbpEnd := rfl
@[simp] theorem putMem_tbpLast (a : Nat) (bs : List Byte) : (putMem a bs s).tbpLast = s.tbpLast := rfl
@[simp] theorem putMem_paq (a : Nat) (bs : List Byte) : (putMem a bs s).paq = s.paq := rfl
@[simp] theorem putMem_obs (a : Nat) (bs : List Byte) : (putMem a bs s).obs = s.obs := rfl
@[simp] theorem putMem_paused (a : Nat) (bs : List Byte) : (putMem a bs s).paused = s.paused := rfl
@[simp] theorem putMem_strms (a : Nat) (bs : List Byte) : (putMem a bs s).strms = s.strms := rfl
@[simp] theorem putMem_ffs (a : Nat) (bs : List Byte) : (putMem a bs s).ffs = s.ffs := rfl
@[simp] theorem putMem_sup (a : Nat) (bs : List Byte) : (putMem a bs s).sup = s.sup := rfl
@[simp] theorem putMem_sessions (a : Nat) (bs : List Byte) : (putMem a bs s).sessions = s.sessions := rfl
@[simp] theorem putMem_fabCfg (a : Nat) (bs : List Byte) : (putMem a bs s).fabCfg = s.fabCfg := rfl
@[simp] theorem putMem_fabs (a : Nat) (bs : List Byte) : (putMem a bs s).fabs = s.fabs := rfl
@[simp] theorem putMem_taps (a : Nat) (bs : List Byte) : (putMem a bs s).taps = s.taps := rfl
@[simp] theorem putMem_clkstop (a : Nat) (bs : List Byte) : (putMem a bs s).clkstop = s.clkstop := rfl
@[simp] theorem putMem_dma (a : Nat) (bs : List Byte) : (putMem a bs s).dma = s.dma := rfl
@[simp] theorem putMem_movers (a : Nat) (bs : List Byte) : (putMem a bs s).movers = s.movers := rfl
@[simp] theorem putMem_dmaRr0 (a : Nat) (bs : List Byte) : (putMem a bs s).dmaRr0 = s.dmaRr0 := rfl
@[simp] theorem putMem_dmaRr1 (a : Nat) (bs : List Byte) : (putMem a bs s).dmaRr1 = s.dmaRr1 := rfl
@[simp] theorem putMem_snapSeq (a : Nat) (bs : List Byte) : (putMem a bs s).snapSeq = s.snapSeq := rfl
@[simp] theorem putMem_bootFabs (a : Nat) (bs : List Byte) : (putMem a bs s).bootFabs = s.bootFabs := rfl
@[simp] theorem putMem_bootTiles (a : Nat) (bs : List Byte) : (putMem a bs s).bootTiles = s.bootTiles := rfl
@[simp] theorem putMem_dbgDis (a : Nat) (bs : List Byte) : (putMem a bs s).dbgDis = s.dbgDis := rfl
@[simp] theorem putMem_fabAuth (a : Nat) (bs : List Byte) : (putMem a bs s).fabAuth = s.fabAuth := rfl
@[simp] theorem putMem_gasp (a : Nat) (bs : List Byte) : (putMem a bs s).gasp = s.gasp := rfl
@[simp] theorem putMem_gaspSlot (a : Nat) (bs : List Byte) : (putMem a bs s).gaspSlot = s.gaspSlot := rfl

/-! ## setOwner -/

@[simp] theorem setOwner_pending (c i p : Nat) : (setOwner c i p s).pending = s.pending := rfl
@[simp] theorem setOwner_tb (c i p : Nat) : (setOwner c i p s).tb = s.tb := rfl
@[simp] theorem setOwner_free (c i p : Nat) : (setOwner c i p s).free = s.free := rfl
@[simp] theorem setOwner_out (c i p : Nat) : (setOwner c i p s).out = s.out := rfl
@[simp] theorem setOwner_regs (c i p : Nat) : (setOwner c i p s).regs = s.regs := rfl
@[simp] theorem setOwner_act (c i p : Nat) : (setOwner c i p s).act = s.act := rfl
@[simp] theorem setOwner_due (c i p : Nat) : (setOwner c i p s).due = s.due := rfl
@[simp] theorem setOwner_latch (c i p : Nat) : (setOwner c i p s).latch = s.latch := rfl
@[simp] theorem setOwner_sel (c i p : Nat) : (setOwner c i p s).sel = s.sel := rfl
@[simp] theorem setOwner_leases (c i p : Nat) : (setOwner c i p s).leases = s.leases := rfl
@[simp] theorem setOwner_ring (c i p : Nat) : (setOwner c i p s).ring = s.ring := rfl
@[simp] theorem setOwner_rpl (c i p : Nat) : (setOwner c i p s).rpl = s.rpl := rfl
@[simp] theorem setOwner_rr (c i p : Nat) : (setOwner c i p s).rr = s.rr := rfl
@[simp] theorem setOwner_aftRst (c i p : Nat) : (setOwner c i p s).aftRst = s.aftRst := rfl
@[simp] theorem setOwner_halted (c i p : Nat) : (setOwner c i p s).halted = s.halted := rfl
@[simp] theorem setOwner_haltReq (c i p : Nat) : (setOwner c i p s).haltReq = s.haltReq := rfl
@[simp] theorem setOwner_restarting (c i p : Nat) : (setOwner c i p s).restarting = s.restarting := rfl
@[simp] theorem setOwner_ops (c i p : Nat) : (setOwner c i p s).ops = s.ops := rfl
@[simp] theorem setOwner_insWait (c i p : Nat) : (setOwner c i p s).insWait = s.insWait := rfl
@[simp] theorem setOwner_links (c i p : Nat) : (setOwner c i p s).links = s.links := rfl
@[simp] theorem setOwner_led (c i p : Nat) : (setOwner c i p s).led = s.led := rfl
@[simp] theorem setOwner_ledStop (c i p : Nat) : (setOwner c i p s).ledStop = s.ledStop := rfl
@[simp] theorem setOwner_snaps (c i p : Nat) : (setOwner c i p s).snaps = s.snaps := rfl
@[simp] theorem setOwner_injFlag (c i p : Nat) : (setOwner c i p s).injFlag = s.injFlag := rfl
@[simp] theorem setOwner_slowFlag (c i p : Nat) : (setOwner c i p s).slowFlag = s.slowFlag := rfl
@[simp] theorem setOwner_bootQ (c i p : Nat) : (setOwner c i p s).bootQ = s.bootQ := rfl
@[simp] theorem setOwner_flt (c i p : Nat) : (setOwner c i p s).flt = s.flt := rfl
@[simp] theorem setOwner_rep (c i p : Nat) : (setOwner c i p s).rep = s.rep := rfl
@[simp] theorem setOwner_pfail (c i p : Nat) : (setOwner c i p s).pfail = s.pfail := rfl
@[simp] theorem setOwner_por (c i p : Nat) : (setOwner c i p s).por = s.por := rfl
@[simp] theorem setOwner_rstn (c i p : Nat) : (setOwner c i p s).rstn = s.rstn := rfl
@[simp] theorem setOwner_step1 (c i p : Nat) : (setOwner c i p s).step1 = s.step1 := rfl
@[simp] theorem setOwner_step2 (c i p : Nat) : (setOwner c i p s).step2 = s.step2 := rfl
@[simp] theorem setOwner_rails (c i p : Nat) : (setOwner c i p s).rails = s.rails := rfl
@[simp] theorem setOwner_sclkHz (c i p : Nat) : (setOwner c i p s).sclkHz = s.sclkHz := rfl
@[simp] theorem setOwner_nvm (c i p : Nat) : (setOwner c i p s).nvm = s.nvm := rfl
@[simp] theorem setOwner_mem (c i p : Nat) : (setOwner c i p s).mem = s.mem := rfl
@[simp] theorem setOwner_corr (c i p : Nat) : (setOwner c i p s).corr = s.corr := rfl
@[simp] theorem setOwner_enc (c i p : Nat) : (setOwner c i p s).enc = s.enc := rfl
@[simp] theorem setOwner_axes (c i p : Nat) : (setOwner c i p s).axes = s.axes := rfl
@[simp] theorem setOwner_gens (c i p : Nat) : (setOwner c i p s).gens = s.gens := rfl
@[simp] theorem setOwner_sw (c i p : Nat) : (setOwner c i p s).sw = s.sw := rfl
@[simp] theorem setOwner_tiles (c i p : Nat) : (setOwner c i p s).tiles = s.tiles := rfl
@[simp] theorem setOwner_chans (c i p : Nat) : (setOwner c i p s).chans = s.chans := rfl
@[simp] theorem setOwner_vports (c i p : Nat) : (setOwner c i p s).vports = s.vports := rfl
@[simp] theorem setOwner_coll (c i p : Nat) : (setOwner c i p s).coll = s.coll := rfl
@[simp] theorem setOwner_stRr (c i p : Nat) : (setOwner c i p s).stRr = s.stRr := rfl
@[simp] theorem setOwner_hold (c i p : Nat) : (setOwner c i p s).hold = s.hold := rfl
@[simp] theorem setOwner_marks (c i p : Nat) : (setOwner c i p s).marks = s.marks := rfl
@[simp] theorem setOwner_ruleQ (c i p : Nat) : (setOwner c i p s).ruleQ = s.ruleQ := rfl
@[simp] theorem setOwner_zones (c i p : Nat) : (setOwner c i p s).zones = s.zones := rfl
@[simp] theorem setOwner_insBuf (c i p : Nat) : (setOwner c i p s).insBuf = s.insBuf := rfl
@[simp] theorem setOwner_molts (c i p : Nat) : (setOwner c i p s).molts = s.molts := rfl
@[simp] theorem setOwner_headLine (c i p : Nat) : (setOwner c i p s).headLine = s.headLine := rfl
@[simp] theorem setOwner_markers (c i p : Nat) : (setOwner c i p s).markers = s.markers := rfl
@[simp] theorem setOwner_boardLvl (c i p : Nat) : (setOwner c i p s).boardLvl = s.boardLvl := rfl
@[simp] theorem setOwner_tbpEnd (c i p : Nat) : (setOwner c i p s).tbpEnd = s.tbpEnd := rfl
@[simp] theorem setOwner_tbpLast (c i p : Nat) : (setOwner c i p s).tbpLast = s.tbpLast := rfl
@[simp] theorem setOwner_paq (c i p : Nat) : (setOwner c i p s).paq = s.paq := rfl
@[simp] theorem setOwner_obs (c i p : Nat) : (setOwner c i p s).obs = s.obs := rfl
@[simp] theorem setOwner_paused (c i p : Nat) : (setOwner c i p s).paused = s.paused := rfl
@[simp] theorem setOwner_strms (c i p : Nat) : (setOwner c i p s).strms = s.strms := rfl
@[simp] theorem setOwner_ffs (c i p : Nat) : (setOwner c i p s).ffs = s.ffs := rfl
@[simp] theorem setOwner_sup (c i p : Nat) : (setOwner c i p s).sup = s.sup := rfl
@[simp] theorem setOwner_sessions (c i p : Nat) : (setOwner c i p s).sessions = s.sessions := rfl
@[simp] theorem setOwner_fabCfg (c i p : Nat) : (setOwner c i p s).fabCfg = s.fabCfg := rfl
@[simp] theorem setOwner_fabs (c i p : Nat) : (setOwner c i p s).fabs = s.fabs := rfl
@[simp] theorem setOwner_taps (c i p : Nat) : (setOwner c i p s).taps = s.taps := rfl
@[simp] theorem setOwner_clkstop (c i p : Nat) : (setOwner c i p s).clkstop = s.clkstop := rfl
@[simp] theorem setOwner_dma (c i p : Nat) : (setOwner c i p s).dma = s.dma := rfl
@[simp] theorem setOwner_movers (c i p : Nat) : (setOwner c i p s).movers = s.movers := rfl
@[simp] theorem setOwner_dmaRr0 (c i p : Nat) : (setOwner c i p s).dmaRr0 = s.dmaRr0 := rfl
@[simp] theorem setOwner_dmaRr1 (c i p : Nat) : (setOwner c i p s).dmaRr1 = s.dmaRr1 := rfl
@[simp] theorem setOwner_snapSeq (c i p : Nat) : (setOwner c i p s).snapSeq = s.snapSeq := rfl
@[simp] theorem setOwner_bootFabs (c i p : Nat) : (setOwner c i p s).bootFabs = s.bootFabs := rfl
@[simp] theorem setOwner_bootTiles (c i p : Nat) : (setOwner c i p s).bootTiles = s.bootTiles := rfl
@[simp] theorem setOwner_dbgDis (c i p : Nat) : (setOwner c i p s).dbgDis = s.dbgDis := rfl
@[simp] theorem setOwner_fabAuth (c i p : Nat) : (setOwner c i p s).fabAuth = s.fabAuth := rfl
@[simp] theorem setOwner_gasp (c i p : Nat) : (setOwner c i p s).gasp = s.gasp := rfl
@[simp] theorem setOwner_gaspSlot (c i p : Nat) : (setOwner c i p s).gaspSlot = s.gaspSlot := rfl

/-! ## modFlt -/

@[simp] theorem modFlt_pending (f : FltSt → FltSt) : (modFlt f s).pending = s.pending := rfl
@[simp] theorem modFlt_tb (f : FltSt → FltSt) : (modFlt f s).tb = s.tb := rfl
@[simp] theorem modFlt_free (f : FltSt → FltSt) : (modFlt f s).free = s.free := rfl
@[simp] theorem modFlt_out (f : FltSt → FltSt) : (modFlt f s).out = s.out := rfl
@[simp] theorem modFlt_regs (f : FltSt → FltSt) : (modFlt f s).regs = s.regs := rfl
@[simp] theorem modFlt_act (f : FltSt → FltSt) : (modFlt f s).act = s.act := rfl
@[simp] theorem modFlt_due (f : FltSt → FltSt) : (modFlt f s).due = s.due := rfl
@[simp] theorem modFlt_latch (f : FltSt → FltSt) : (modFlt f s).latch = s.latch := rfl
@[simp] theorem modFlt_sel (f : FltSt → FltSt) : (modFlt f s).sel = s.sel := rfl
@[simp] theorem modFlt_owner (f : FltSt → FltSt) : (modFlt f s).owner = s.owner := rfl
@[simp] theorem modFlt_leases (f : FltSt → FltSt) : (modFlt f s).leases = s.leases := rfl
@[simp] theorem modFlt_ring (f : FltSt → FltSt) : (modFlt f s).ring = s.ring := rfl
@[simp] theorem modFlt_rpl (f : FltSt → FltSt) : (modFlt f s).rpl = s.rpl := rfl
@[simp] theorem modFlt_rr (f : FltSt → FltSt) : (modFlt f s).rr = s.rr := rfl
@[simp] theorem modFlt_aftRst (f : FltSt → FltSt) : (modFlt f s).aftRst = s.aftRst := rfl
@[simp] theorem modFlt_halted (f : FltSt → FltSt) : (modFlt f s).halted = s.halted := rfl
@[simp] theorem modFlt_haltReq (f : FltSt → FltSt) : (modFlt f s).haltReq = s.haltReq := rfl
@[simp] theorem modFlt_restarting (f : FltSt → FltSt) : (modFlt f s).restarting = s.restarting := rfl
@[simp] theorem modFlt_ops (f : FltSt → FltSt) : (modFlt f s).ops = s.ops := rfl
@[simp] theorem modFlt_insWait (f : FltSt → FltSt) : (modFlt f s).insWait = s.insWait := rfl
@[simp] theorem modFlt_links (f : FltSt → FltSt) : (modFlt f s).links = s.links := rfl
@[simp] theorem modFlt_led (f : FltSt → FltSt) : (modFlt f s).led = s.led := rfl
@[simp] theorem modFlt_ledStop (f : FltSt → FltSt) : (modFlt f s).ledStop = s.ledStop := rfl
@[simp] theorem modFlt_snaps (f : FltSt → FltSt) : (modFlt f s).snaps = s.snaps := rfl
@[simp] theorem modFlt_injFlag (f : FltSt → FltSt) : (modFlt f s).injFlag = s.injFlag := rfl
@[simp] theorem modFlt_slowFlag (f : FltSt → FltSt) : (modFlt f s).slowFlag = s.slowFlag := rfl
@[simp] theorem modFlt_bootQ (f : FltSt → FltSt) : (modFlt f s).bootQ = s.bootQ := rfl
@[simp] theorem modFlt_rep (f : FltSt → FltSt) : (modFlt f s).rep = s.rep := rfl
@[simp] theorem modFlt_pfail (f : FltSt → FltSt) : (modFlt f s).pfail = s.pfail := rfl
@[simp] theorem modFlt_por (f : FltSt → FltSt) : (modFlt f s).por = s.por := rfl
@[simp] theorem modFlt_rstn (f : FltSt → FltSt) : (modFlt f s).rstn = s.rstn := rfl
@[simp] theorem modFlt_step1 (f : FltSt → FltSt) : (modFlt f s).step1 = s.step1 := rfl
@[simp] theorem modFlt_step2 (f : FltSt → FltSt) : (modFlt f s).step2 = s.step2 := rfl
@[simp] theorem modFlt_rails (f : FltSt → FltSt) : (modFlt f s).rails = s.rails := rfl
@[simp] theorem modFlt_sclkHz (f : FltSt → FltSt) : (modFlt f s).sclkHz = s.sclkHz := rfl
@[simp] theorem modFlt_nvm (f : FltSt → FltSt) : (modFlt f s).nvm = s.nvm := rfl
@[simp] theorem modFlt_mem (f : FltSt → FltSt) : (modFlt f s).mem = s.mem := rfl
@[simp] theorem modFlt_corr (f : FltSt → FltSt) : (modFlt f s).corr = s.corr := rfl
@[simp] theorem modFlt_enc (f : FltSt → FltSt) : (modFlt f s).enc = s.enc := rfl
@[simp] theorem modFlt_axes (f : FltSt → FltSt) : (modFlt f s).axes = s.axes := rfl
@[simp] theorem modFlt_gens (f : FltSt → FltSt) : (modFlt f s).gens = s.gens := rfl
@[simp] theorem modFlt_sw (f : FltSt → FltSt) : (modFlt f s).sw = s.sw := rfl
@[simp] theorem modFlt_tiles (f : FltSt → FltSt) : (modFlt f s).tiles = s.tiles := rfl
@[simp] theorem modFlt_chans (f : FltSt → FltSt) : (modFlt f s).chans = s.chans := rfl
@[simp] theorem modFlt_vports (f : FltSt → FltSt) : (modFlt f s).vports = s.vports := rfl
@[simp] theorem modFlt_coll (f : FltSt → FltSt) : (modFlt f s).coll = s.coll := rfl
@[simp] theorem modFlt_stRr (f : FltSt → FltSt) : (modFlt f s).stRr = s.stRr := rfl
@[simp] theorem modFlt_hold (f : FltSt → FltSt) : (modFlt f s).hold = s.hold := rfl
@[simp] theorem modFlt_marks (f : FltSt → FltSt) : (modFlt f s).marks = s.marks := rfl
@[simp] theorem modFlt_ruleQ (f : FltSt → FltSt) : (modFlt f s).ruleQ = s.ruleQ := rfl
@[simp] theorem modFlt_zones (f : FltSt → FltSt) : (modFlt f s).zones = s.zones := rfl
@[simp] theorem modFlt_insBuf (f : FltSt → FltSt) : (modFlt f s).insBuf = s.insBuf := rfl
@[simp] theorem modFlt_molts (f : FltSt → FltSt) : (modFlt f s).molts = s.molts := rfl
@[simp] theorem modFlt_headLine (f : FltSt → FltSt) : (modFlt f s).headLine = s.headLine := rfl
@[simp] theorem modFlt_markers (f : FltSt → FltSt) : (modFlt f s).markers = s.markers := rfl
@[simp] theorem modFlt_boardLvl (f : FltSt → FltSt) : (modFlt f s).boardLvl = s.boardLvl := rfl
@[simp] theorem modFlt_tbpEnd (f : FltSt → FltSt) : (modFlt f s).tbpEnd = s.tbpEnd := rfl
@[simp] theorem modFlt_tbpLast (f : FltSt → FltSt) : (modFlt f s).tbpLast = s.tbpLast := rfl
@[simp] theorem modFlt_paq (f : FltSt → FltSt) : (modFlt f s).paq = s.paq := rfl
@[simp] theorem modFlt_obs (f : FltSt → FltSt) : (modFlt f s).obs = s.obs := rfl
@[simp] theorem modFlt_paused (f : FltSt → FltSt) : (modFlt f s).paused = s.paused := rfl
@[simp] theorem modFlt_strms (f : FltSt → FltSt) : (modFlt f s).strms = s.strms := rfl
@[simp] theorem modFlt_ffs (f : FltSt → FltSt) : (modFlt f s).ffs = s.ffs := rfl
@[simp] theorem modFlt_sup (f : FltSt → FltSt) : (modFlt f s).sup = s.sup := rfl
@[simp] theorem modFlt_sessions (f : FltSt → FltSt) : (modFlt f s).sessions = s.sessions := rfl
@[simp] theorem modFlt_fabCfg (f : FltSt → FltSt) : (modFlt f s).fabCfg = s.fabCfg := rfl
@[simp] theorem modFlt_fabs (f : FltSt → FltSt) : (modFlt f s).fabs = s.fabs := rfl
@[simp] theorem modFlt_taps (f : FltSt → FltSt) : (modFlt f s).taps = s.taps := rfl
@[simp] theorem modFlt_clkstop (f : FltSt → FltSt) : (modFlt f s).clkstop = s.clkstop := rfl
@[simp] theorem modFlt_dma (f : FltSt → FltSt) : (modFlt f s).dma = s.dma := rfl
@[simp] theorem modFlt_movers (f : FltSt → FltSt) : (modFlt f s).movers = s.movers := rfl
@[simp] theorem modFlt_dmaRr0 (f : FltSt → FltSt) : (modFlt f s).dmaRr0 = s.dmaRr0 := rfl
@[simp] theorem modFlt_dmaRr1 (f : FltSt → FltSt) : (modFlt f s).dmaRr1 = s.dmaRr1 := rfl
@[simp] theorem modFlt_snapSeq (f : FltSt → FltSt) : (modFlt f s).snapSeq = s.snapSeq := rfl
@[simp] theorem modFlt_bootFabs (f : FltSt → FltSt) : (modFlt f s).bootFabs = s.bootFabs := rfl
@[simp] theorem modFlt_bootTiles (f : FltSt → FltSt) : (modFlt f s).bootTiles = s.bootTiles := rfl
@[simp] theorem modFlt_dbgDis (f : FltSt → FltSt) : (modFlt f s).dbgDis = s.dbgDis := rfl
@[simp] theorem modFlt_fabAuth (f : FltSt → FltSt) : (modFlt f s).fabAuth = s.fabAuth := rfl
@[simp] theorem modFlt_gasp (f : FltSt → FltSt) : (modFlt f s).gasp = s.gasp := rfl
@[simp] theorem modFlt_gaspSlot (f : FltSt → FltSt) : (modFlt f s).gaspSlot = s.gaspSlot := rfl

/-! ## modSw -/

@[simp] theorem modSw_pending (f : SwSt → SwSt) : (modSw f s).pending = s.pending := rfl
@[simp] theorem modSw_tb (f : SwSt → SwSt) : (modSw f s).tb = s.tb := rfl
@[simp] theorem modSw_free (f : SwSt → SwSt) : (modSw f s).free = s.free := rfl
@[simp] theorem modSw_out (f : SwSt → SwSt) : (modSw f s).out = s.out := rfl
@[simp] theorem modSw_regs (f : SwSt → SwSt) : (modSw f s).regs = s.regs := rfl
@[simp] theorem modSw_act (f : SwSt → SwSt) : (modSw f s).act = s.act := rfl
@[simp] theorem modSw_due (f : SwSt → SwSt) : (modSw f s).due = s.due := rfl
@[simp] theorem modSw_latch (f : SwSt → SwSt) : (modSw f s).latch = s.latch := rfl
@[simp] theorem modSw_sel (f : SwSt → SwSt) : (modSw f s).sel = s.sel := rfl
@[simp] theorem modSw_owner (f : SwSt → SwSt) : (modSw f s).owner = s.owner := rfl
@[simp] theorem modSw_leases (f : SwSt → SwSt) : (modSw f s).leases = s.leases := rfl
@[simp] theorem modSw_ring (f : SwSt → SwSt) : (modSw f s).ring = s.ring := rfl
@[simp] theorem modSw_rpl (f : SwSt → SwSt) : (modSw f s).rpl = s.rpl := rfl
@[simp] theorem modSw_rr (f : SwSt → SwSt) : (modSw f s).rr = s.rr := rfl
@[simp] theorem modSw_aftRst (f : SwSt → SwSt) : (modSw f s).aftRst = s.aftRst := rfl
@[simp] theorem modSw_halted (f : SwSt → SwSt) : (modSw f s).halted = s.halted := rfl
@[simp] theorem modSw_haltReq (f : SwSt → SwSt) : (modSw f s).haltReq = s.haltReq := rfl
@[simp] theorem modSw_restarting (f : SwSt → SwSt) : (modSw f s).restarting = s.restarting := rfl
@[simp] theorem modSw_ops (f : SwSt → SwSt) : (modSw f s).ops = s.ops := rfl
@[simp] theorem modSw_insWait (f : SwSt → SwSt) : (modSw f s).insWait = s.insWait := rfl
@[simp] theorem modSw_links (f : SwSt → SwSt) : (modSw f s).links = s.links := rfl
@[simp] theorem modSw_led (f : SwSt → SwSt) : (modSw f s).led = s.led := rfl
@[simp] theorem modSw_ledStop (f : SwSt → SwSt) : (modSw f s).ledStop = s.ledStop := rfl
@[simp] theorem modSw_snaps (f : SwSt → SwSt) : (modSw f s).snaps = s.snaps := rfl
@[simp] theorem modSw_injFlag (f : SwSt → SwSt) : (modSw f s).injFlag = s.injFlag := rfl
@[simp] theorem modSw_slowFlag (f : SwSt → SwSt) : (modSw f s).slowFlag = s.slowFlag := rfl
@[simp] theorem modSw_bootQ (f : SwSt → SwSt) : (modSw f s).bootQ = s.bootQ := rfl
@[simp] theorem modSw_flt (f : SwSt → SwSt) : (modSw f s).flt = s.flt := rfl
@[simp] theorem modSw_rep (f : SwSt → SwSt) : (modSw f s).rep = s.rep := rfl
@[simp] theorem modSw_pfail (f : SwSt → SwSt) : (modSw f s).pfail = s.pfail := rfl
@[simp] theorem modSw_por (f : SwSt → SwSt) : (modSw f s).por = s.por := rfl
@[simp] theorem modSw_rstn (f : SwSt → SwSt) : (modSw f s).rstn = s.rstn := rfl
@[simp] theorem modSw_step1 (f : SwSt → SwSt) : (modSw f s).step1 = s.step1 := rfl
@[simp] theorem modSw_step2 (f : SwSt → SwSt) : (modSw f s).step2 = s.step2 := rfl
@[simp] theorem modSw_rails (f : SwSt → SwSt) : (modSw f s).rails = s.rails := rfl
@[simp] theorem modSw_sclkHz (f : SwSt → SwSt) : (modSw f s).sclkHz = s.sclkHz := rfl
@[simp] theorem modSw_nvm (f : SwSt → SwSt) : (modSw f s).nvm = s.nvm := rfl
@[simp] theorem modSw_mem (f : SwSt → SwSt) : (modSw f s).mem = s.mem := rfl
@[simp] theorem modSw_corr (f : SwSt → SwSt) : (modSw f s).corr = s.corr := rfl
@[simp] theorem modSw_enc (f : SwSt → SwSt) : (modSw f s).enc = s.enc := rfl
@[simp] theorem modSw_axes (f : SwSt → SwSt) : (modSw f s).axes = s.axes := rfl
@[simp] theorem modSw_gens (f : SwSt → SwSt) : (modSw f s).gens = s.gens := rfl
@[simp] theorem modSw_tiles (f : SwSt → SwSt) : (modSw f s).tiles = s.tiles := rfl
@[simp] theorem modSw_chans (f : SwSt → SwSt) : (modSw f s).chans = s.chans := rfl
@[simp] theorem modSw_vports (f : SwSt → SwSt) : (modSw f s).vports = s.vports := rfl
@[simp] theorem modSw_coll (f : SwSt → SwSt) : (modSw f s).coll = s.coll := rfl
@[simp] theorem modSw_stRr (f : SwSt → SwSt) : (modSw f s).stRr = s.stRr := rfl
@[simp] theorem modSw_hold (f : SwSt → SwSt) : (modSw f s).hold = s.hold := rfl
@[simp] theorem modSw_marks (f : SwSt → SwSt) : (modSw f s).marks = s.marks := rfl
@[simp] theorem modSw_ruleQ (f : SwSt → SwSt) : (modSw f s).ruleQ = s.ruleQ := rfl
@[simp] theorem modSw_zones (f : SwSt → SwSt) : (modSw f s).zones = s.zones := rfl
@[simp] theorem modSw_insBuf (f : SwSt → SwSt) : (modSw f s).insBuf = s.insBuf := rfl
@[simp] theorem modSw_molts (f : SwSt → SwSt) : (modSw f s).molts = s.molts := rfl
@[simp] theorem modSw_headLine (f : SwSt → SwSt) : (modSw f s).headLine = s.headLine := rfl
@[simp] theorem modSw_markers (f : SwSt → SwSt) : (modSw f s).markers = s.markers := rfl
@[simp] theorem modSw_boardLvl (f : SwSt → SwSt) : (modSw f s).boardLvl = s.boardLvl := rfl
@[simp] theorem modSw_tbpEnd (f : SwSt → SwSt) : (modSw f s).tbpEnd = s.tbpEnd := rfl
@[simp] theorem modSw_tbpLast (f : SwSt → SwSt) : (modSw f s).tbpLast = s.tbpLast := rfl
@[simp] theorem modSw_paq (f : SwSt → SwSt) : (modSw f s).paq = s.paq := rfl
@[simp] theorem modSw_obs (f : SwSt → SwSt) : (modSw f s).obs = s.obs := rfl
@[simp] theorem modSw_paused (f : SwSt → SwSt) : (modSw f s).paused = s.paused := rfl
@[simp] theorem modSw_strms (f : SwSt → SwSt) : (modSw f s).strms = s.strms := rfl
@[simp] theorem modSw_ffs (f : SwSt → SwSt) : (modSw f s).ffs = s.ffs := rfl
@[simp] theorem modSw_sup (f : SwSt → SwSt) : (modSw f s).sup = s.sup := rfl
@[simp] theorem modSw_sessions (f : SwSt → SwSt) : (modSw f s).sessions = s.sessions := rfl
@[simp] theorem modSw_fabCfg (f : SwSt → SwSt) : (modSw f s).fabCfg = s.fabCfg := rfl
@[simp] theorem modSw_fabs (f : SwSt → SwSt) : (modSw f s).fabs = s.fabs := rfl
@[simp] theorem modSw_taps (f : SwSt → SwSt) : (modSw f s).taps = s.taps := rfl
@[simp] theorem modSw_clkstop (f : SwSt → SwSt) : (modSw f s).clkstop = s.clkstop := rfl
@[simp] theorem modSw_dma (f : SwSt → SwSt) : (modSw f s).dma = s.dma := rfl
@[simp] theorem modSw_movers (f : SwSt → SwSt) : (modSw f s).movers = s.movers := rfl
@[simp] theorem modSw_dmaRr0 (f : SwSt → SwSt) : (modSw f s).dmaRr0 = s.dmaRr0 := rfl
@[simp] theorem modSw_dmaRr1 (f : SwSt → SwSt) : (modSw f s).dmaRr1 = s.dmaRr1 := rfl
@[simp] theorem modSw_snapSeq (f : SwSt → SwSt) : (modSw f s).snapSeq = s.snapSeq := rfl
@[simp] theorem modSw_bootFabs (f : SwSt → SwSt) : (modSw f s).bootFabs = s.bootFabs := rfl
@[simp] theorem modSw_bootTiles (f : SwSt → SwSt) : (modSw f s).bootTiles = s.bootTiles := rfl
@[simp] theorem modSw_dbgDis (f : SwSt → SwSt) : (modSw f s).dbgDis = s.dbgDis := rfl
@[simp] theorem modSw_fabAuth (f : SwSt → SwSt) : (modSw f s).fabAuth = s.fabAuth := rfl
@[simp] theorem modSw_gasp (f : SwSt → SwSt) : (modSw f s).gasp = s.gasp := rfl
@[simp] theorem modSw_gaspSlot (f : SwSt → SwSt) : (modSw f s).gaspSlot = s.gaspSlot := rfl

/-! ## modAxis -/

@[simp] theorem modAxis_pending (i : Nat) (f : Axis → Axis) : (modAxis i f s).pending = s.pending := rfl
@[simp] theorem modAxis_tb (i : Nat) (f : Axis → Axis) : (modAxis i f s).tb = s.tb := rfl
@[simp] theorem modAxis_free (i : Nat) (f : Axis → Axis) : (modAxis i f s).free = s.free := rfl
@[simp] theorem modAxis_out (i : Nat) (f : Axis → Axis) : (modAxis i f s).out = s.out := rfl
@[simp] theorem modAxis_regs (i : Nat) (f : Axis → Axis) : (modAxis i f s).regs = s.regs := rfl
@[simp] theorem modAxis_act (i : Nat) (f : Axis → Axis) : (modAxis i f s).act = s.act := rfl
@[simp] theorem modAxis_due (i : Nat) (f : Axis → Axis) : (modAxis i f s).due = s.due := rfl
@[simp] theorem modAxis_latch (i : Nat) (f : Axis → Axis) : (modAxis i f s).latch = s.latch := rfl
@[simp] theorem modAxis_sel (i : Nat) (f : Axis → Axis) : (modAxis i f s).sel = s.sel := rfl
@[simp] theorem modAxis_owner (i : Nat) (f : Axis → Axis) : (modAxis i f s).owner = s.owner := rfl
@[simp] theorem modAxis_leases (i : Nat) (f : Axis → Axis) : (modAxis i f s).leases = s.leases := rfl
@[simp] theorem modAxis_ring (i : Nat) (f : Axis → Axis) : (modAxis i f s).ring = s.ring := rfl
@[simp] theorem modAxis_rpl (i : Nat) (f : Axis → Axis) : (modAxis i f s).rpl = s.rpl := rfl
@[simp] theorem modAxis_rr (i : Nat) (f : Axis → Axis) : (modAxis i f s).rr = s.rr := rfl
@[simp] theorem modAxis_aftRst (i : Nat) (f : Axis → Axis) : (modAxis i f s).aftRst = s.aftRst := rfl
@[simp] theorem modAxis_halted (i : Nat) (f : Axis → Axis) : (modAxis i f s).halted = s.halted := rfl
@[simp] theorem modAxis_haltReq (i : Nat) (f : Axis → Axis) : (modAxis i f s).haltReq = s.haltReq := rfl
@[simp] theorem modAxis_restarting (i : Nat) (f : Axis → Axis) : (modAxis i f s).restarting = s.restarting := rfl
@[simp] theorem modAxis_ops (i : Nat) (f : Axis → Axis) : (modAxis i f s).ops = s.ops := rfl
@[simp] theorem modAxis_insWait (i : Nat) (f : Axis → Axis) : (modAxis i f s).insWait = s.insWait := rfl
@[simp] theorem modAxis_links (i : Nat) (f : Axis → Axis) : (modAxis i f s).links = s.links := rfl
@[simp] theorem modAxis_led (i : Nat) (f : Axis → Axis) : (modAxis i f s).led = s.led := rfl
@[simp] theorem modAxis_ledStop (i : Nat) (f : Axis → Axis) : (modAxis i f s).ledStop = s.ledStop := rfl
@[simp] theorem modAxis_snaps (i : Nat) (f : Axis → Axis) : (modAxis i f s).snaps = s.snaps := rfl
@[simp] theorem modAxis_injFlag (i : Nat) (f : Axis → Axis) : (modAxis i f s).injFlag = s.injFlag := rfl
@[simp] theorem modAxis_slowFlag (i : Nat) (f : Axis → Axis) : (modAxis i f s).slowFlag = s.slowFlag := rfl
@[simp] theorem modAxis_bootQ (i : Nat) (f : Axis → Axis) : (modAxis i f s).bootQ = s.bootQ := rfl
@[simp] theorem modAxis_flt (i : Nat) (f : Axis → Axis) : (modAxis i f s).flt = s.flt := rfl
@[simp] theorem modAxis_rep (i : Nat) (f : Axis → Axis) : (modAxis i f s).rep = s.rep := rfl
@[simp] theorem modAxis_pfail (i : Nat) (f : Axis → Axis) : (modAxis i f s).pfail = s.pfail := rfl
@[simp] theorem modAxis_por (i : Nat) (f : Axis → Axis) : (modAxis i f s).por = s.por := rfl
@[simp] theorem modAxis_rstn (i : Nat) (f : Axis → Axis) : (modAxis i f s).rstn = s.rstn := rfl
@[simp] theorem modAxis_step1 (i : Nat) (f : Axis → Axis) : (modAxis i f s).step1 = s.step1 := rfl
@[simp] theorem modAxis_step2 (i : Nat) (f : Axis → Axis) : (modAxis i f s).step2 = s.step2 := rfl
@[simp] theorem modAxis_rails (i : Nat) (f : Axis → Axis) : (modAxis i f s).rails = s.rails := rfl
@[simp] theorem modAxis_sclkHz (i : Nat) (f : Axis → Axis) : (modAxis i f s).sclkHz = s.sclkHz := rfl
@[simp] theorem modAxis_nvm (i : Nat) (f : Axis → Axis) : (modAxis i f s).nvm = s.nvm := rfl
@[simp] theorem modAxis_mem (i : Nat) (f : Axis → Axis) : (modAxis i f s).mem = s.mem := rfl
@[simp] theorem modAxis_corr (i : Nat) (f : Axis → Axis) : (modAxis i f s).corr = s.corr := rfl
@[simp] theorem modAxis_enc (i : Nat) (f : Axis → Axis) : (modAxis i f s).enc = s.enc := rfl
@[simp] theorem modAxis_gens (i : Nat) (f : Axis → Axis) : (modAxis i f s).gens = s.gens := rfl
@[simp] theorem modAxis_sw (i : Nat) (f : Axis → Axis) : (modAxis i f s).sw = s.sw := rfl
@[simp] theorem modAxis_tiles (i : Nat) (f : Axis → Axis) : (modAxis i f s).tiles = s.tiles := rfl
@[simp] theorem modAxis_chans (i : Nat) (f : Axis → Axis) : (modAxis i f s).chans = s.chans := rfl
@[simp] theorem modAxis_vports (i : Nat) (f : Axis → Axis) : (modAxis i f s).vports = s.vports := rfl
@[simp] theorem modAxis_coll (i : Nat) (f : Axis → Axis) : (modAxis i f s).coll = s.coll := rfl
@[simp] theorem modAxis_stRr (i : Nat) (f : Axis → Axis) : (modAxis i f s).stRr = s.stRr := rfl
@[simp] theorem modAxis_hold (i : Nat) (f : Axis → Axis) : (modAxis i f s).hold = s.hold := rfl
@[simp] theorem modAxis_marks (i : Nat) (f : Axis → Axis) : (modAxis i f s).marks = s.marks := rfl
@[simp] theorem modAxis_ruleQ (i : Nat) (f : Axis → Axis) : (modAxis i f s).ruleQ = s.ruleQ := rfl
@[simp] theorem modAxis_zones (i : Nat) (f : Axis → Axis) : (modAxis i f s).zones = s.zones := rfl
@[simp] theorem modAxis_insBuf (i : Nat) (f : Axis → Axis) : (modAxis i f s).insBuf = s.insBuf := rfl
@[simp] theorem modAxis_molts (i : Nat) (f : Axis → Axis) : (modAxis i f s).molts = s.molts := rfl
@[simp] theorem modAxis_headLine (i : Nat) (f : Axis → Axis) : (modAxis i f s).headLine = s.headLine := rfl
@[simp] theorem modAxis_markers (i : Nat) (f : Axis → Axis) : (modAxis i f s).markers = s.markers := rfl
@[simp] theorem modAxis_boardLvl (i : Nat) (f : Axis → Axis) : (modAxis i f s).boardLvl = s.boardLvl := rfl
@[simp] theorem modAxis_tbpEnd (i : Nat) (f : Axis → Axis) : (modAxis i f s).tbpEnd = s.tbpEnd := rfl
@[simp] theorem modAxis_tbpLast (i : Nat) (f : Axis → Axis) : (modAxis i f s).tbpLast = s.tbpLast := rfl
@[simp] theorem modAxis_paq (i : Nat) (f : Axis → Axis) : (modAxis i f s).paq = s.paq := rfl
@[simp] theorem modAxis_obs (i : Nat) (f : Axis → Axis) : (modAxis i f s).obs = s.obs := rfl
@[simp] theorem modAxis_paused (i : Nat) (f : Axis → Axis) : (modAxis i f s).paused = s.paused := rfl
@[simp] theorem modAxis_strms (i : Nat) (f : Axis → Axis) : (modAxis i f s).strms = s.strms := rfl
@[simp] theorem modAxis_ffs (i : Nat) (f : Axis → Axis) : (modAxis i f s).ffs = s.ffs := rfl
@[simp] theorem modAxis_sup (i : Nat) (f : Axis → Axis) : (modAxis i f s).sup = s.sup := rfl
@[simp] theorem modAxis_sessions (i : Nat) (f : Axis → Axis) : (modAxis i f s).sessions = s.sessions := rfl
@[simp] theorem modAxis_fabCfg (i : Nat) (f : Axis → Axis) : (modAxis i f s).fabCfg = s.fabCfg := rfl
@[simp] theorem modAxis_fabs (i : Nat) (f : Axis → Axis) : (modAxis i f s).fabs = s.fabs := rfl
@[simp] theorem modAxis_taps (i : Nat) (f : Axis → Axis) : (modAxis i f s).taps = s.taps := rfl
@[simp] theorem modAxis_clkstop (i : Nat) (f : Axis → Axis) : (modAxis i f s).clkstop = s.clkstop := rfl
@[simp] theorem modAxis_dma (i : Nat) (f : Axis → Axis) : (modAxis i f s).dma = s.dma := rfl
@[simp] theorem modAxis_movers (i : Nat) (f : Axis → Axis) : (modAxis i f s).movers = s.movers := rfl
@[simp] theorem modAxis_dmaRr0 (i : Nat) (f : Axis → Axis) : (modAxis i f s).dmaRr0 = s.dmaRr0 := rfl
@[simp] theorem modAxis_dmaRr1 (i : Nat) (f : Axis → Axis) : (modAxis i f s).dmaRr1 = s.dmaRr1 := rfl
@[simp] theorem modAxis_snapSeq (i : Nat) (f : Axis → Axis) : (modAxis i f s).snapSeq = s.snapSeq := rfl
@[simp] theorem modAxis_bootFabs (i : Nat) (f : Axis → Axis) : (modAxis i f s).bootFabs = s.bootFabs := rfl
@[simp] theorem modAxis_bootTiles (i : Nat) (f : Axis → Axis) : (modAxis i f s).bootTiles = s.bootTiles := rfl
@[simp] theorem modAxis_dbgDis (i : Nat) (f : Axis → Axis) : (modAxis i f s).dbgDis = s.dbgDis := rfl
@[simp] theorem modAxis_fabAuth (i : Nat) (f : Axis → Axis) : (modAxis i f s).fabAuth = s.fabAuth := rfl
@[simp] theorem modAxis_gasp (i : Nat) (f : Axis → Axis) : (modAxis i f s).gasp = s.gasp := rfl
@[simp] theorem modAxis_gaspSlot (i : Nat) (f : Axis → Axis) : (modAxis i f s).gaspSlot = s.gaspSlot := rfl

/-! ## modGen -/

@[simp] theorem modGen_pending (i : Nat) (f : Gen → Gen) : (modGen i f s).pending = s.pending := rfl
@[simp] theorem modGen_tb (i : Nat) (f : Gen → Gen) : (modGen i f s).tb = s.tb := rfl
@[simp] theorem modGen_free (i : Nat) (f : Gen → Gen) : (modGen i f s).free = s.free := rfl
@[simp] theorem modGen_out (i : Nat) (f : Gen → Gen) : (modGen i f s).out = s.out := rfl
@[simp] theorem modGen_regs (i : Nat) (f : Gen → Gen) : (modGen i f s).regs = s.regs := rfl
@[simp] theorem modGen_act (i : Nat) (f : Gen → Gen) : (modGen i f s).act = s.act := rfl
@[simp] theorem modGen_due (i : Nat) (f : Gen → Gen) : (modGen i f s).due = s.due := rfl
@[simp] theorem modGen_latch (i : Nat) (f : Gen → Gen) : (modGen i f s).latch = s.latch := rfl
@[simp] theorem modGen_sel (i : Nat) (f : Gen → Gen) : (modGen i f s).sel = s.sel := rfl
@[simp] theorem modGen_owner (i : Nat) (f : Gen → Gen) : (modGen i f s).owner = s.owner := rfl
@[simp] theorem modGen_leases (i : Nat) (f : Gen → Gen) : (modGen i f s).leases = s.leases := rfl
@[simp] theorem modGen_ring (i : Nat) (f : Gen → Gen) : (modGen i f s).ring = s.ring := rfl
@[simp] theorem modGen_rpl (i : Nat) (f : Gen → Gen) : (modGen i f s).rpl = s.rpl := rfl
@[simp] theorem modGen_rr (i : Nat) (f : Gen → Gen) : (modGen i f s).rr = s.rr := rfl
@[simp] theorem modGen_aftRst (i : Nat) (f : Gen → Gen) : (modGen i f s).aftRst = s.aftRst := rfl
@[simp] theorem modGen_halted (i : Nat) (f : Gen → Gen) : (modGen i f s).halted = s.halted := rfl
@[simp] theorem modGen_haltReq (i : Nat) (f : Gen → Gen) : (modGen i f s).haltReq = s.haltReq := rfl
@[simp] theorem modGen_restarting (i : Nat) (f : Gen → Gen) : (modGen i f s).restarting = s.restarting := rfl
@[simp] theorem modGen_ops (i : Nat) (f : Gen → Gen) : (modGen i f s).ops = s.ops := rfl
@[simp] theorem modGen_insWait (i : Nat) (f : Gen → Gen) : (modGen i f s).insWait = s.insWait := rfl
@[simp] theorem modGen_links (i : Nat) (f : Gen → Gen) : (modGen i f s).links = s.links := rfl
@[simp] theorem modGen_led (i : Nat) (f : Gen → Gen) : (modGen i f s).led = s.led := rfl
@[simp] theorem modGen_ledStop (i : Nat) (f : Gen → Gen) : (modGen i f s).ledStop = s.ledStop := rfl
@[simp] theorem modGen_snaps (i : Nat) (f : Gen → Gen) : (modGen i f s).snaps = s.snaps := rfl
@[simp] theorem modGen_injFlag (i : Nat) (f : Gen → Gen) : (modGen i f s).injFlag = s.injFlag := rfl
@[simp] theorem modGen_slowFlag (i : Nat) (f : Gen → Gen) : (modGen i f s).slowFlag = s.slowFlag := rfl
@[simp] theorem modGen_bootQ (i : Nat) (f : Gen → Gen) : (modGen i f s).bootQ = s.bootQ := rfl
@[simp] theorem modGen_flt (i : Nat) (f : Gen → Gen) : (modGen i f s).flt = s.flt := rfl
@[simp] theorem modGen_rep (i : Nat) (f : Gen → Gen) : (modGen i f s).rep = s.rep := rfl
@[simp] theorem modGen_pfail (i : Nat) (f : Gen → Gen) : (modGen i f s).pfail = s.pfail := rfl
@[simp] theorem modGen_por (i : Nat) (f : Gen → Gen) : (modGen i f s).por = s.por := rfl
@[simp] theorem modGen_rstn (i : Nat) (f : Gen → Gen) : (modGen i f s).rstn = s.rstn := rfl
@[simp] theorem modGen_step1 (i : Nat) (f : Gen → Gen) : (modGen i f s).step1 = s.step1 := rfl
@[simp] theorem modGen_step2 (i : Nat) (f : Gen → Gen) : (modGen i f s).step2 = s.step2 := rfl
@[simp] theorem modGen_rails (i : Nat) (f : Gen → Gen) : (modGen i f s).rails = s.rails := rfl
@[simp] theorem modGen_sclkHz (i : Nat) (f : Gen → Gen) : (modGen i f s).sclkHz = s.sclkHz := rfl
@[simp] theorem modGen_nvm (i : Nat) (f : Gen → Gen) : (modGen i f s).nvm = s.nvm := rfl
@[simp] theorem modGen_mem (i : Nat) (f : Gen → Gen) : (modGen i f s).mem = s.mem := rfl
@[simp] theorem modGen_corr (i : Nat) (f : Gen → Gen) : (modGen i f s).corr = s.corr := rfl
@[simp] theorem modGen_enc (i : Nat) (f : Gen → Gen) : (modGen i f s).enc = s.enc := rfl
@[simp] theorem modGen_axes (i : Nat) (f : Gen → Gen) : (modGen i f s).axes = s.axes := rfl
@[simp] theorem modGen_sw (i : Nat) (f : Gen → Gen) : (modGen i f s).sw = s.sw := rfl
@[simp] theorem modGen_tiles (i : Nat) (f : Gen → Gen) : (modGen i f s).tiles = s.tiles := rfl
@[simp] theorem modGen_chans (i : Nat) (f : Gen → Gen) : (modGen i f s).chans = s.chans := rfl
@[simp] theorem modGen_vports (i : Nat) (f : Gen → Gen) : (modGen i f s).vports = s.vports := rfl
@[simp] theorem modGen_coll (i : Nat) (f : Gen → Gen) : (modGen i f s).coll = s.coll := rfl
@[simp] theorem modGen_stRr (i : Nat) (f : Gen → Gen) : (modGen i f s).stRr = s.stRr := rfl
@[simp] theorem modGen_hold (i : Nat) (f : Gen → Gen) : (modGen i f s).hold = s.hold := rfl
@[simp] theorem modGen_marks (i : Nat) (f : Gen → Gen) : (modGen i f s).marks = s.marks := rfl
@[simp] theorem modGen_ruleQ (i : Nat) (f : Gen → Gen) : (modGen i f s).ruleQ = s.ruleQ := rfl
@[simp] theorem modGen_zones (i : Nat) (f : Gen → Gen) : (modGen i f s).zones = s.zones := rfl
@[simp] theorem modGen_insBuf (i : Nat) (f : Gen → Gen) : (modGen i f s).insBuf = s.insBuf := rfl
@[simp] theorem modGen_molts (i : Nat) (f : Gen → Gen) : (modGen i f s).molts = s.molts := rfl
@[simp] theorem modGen_headLine (i : Nat) (f : Gen → Gen) : (modGen i f s).headLine = s.headLine := rfl
@[simp] theorem modGen_markers (i : Nat) (f : Gen → Gen) : (modGen i f s).markers = s.markers := rfl
@[simp] theorem modGen_boardLvl (i : Nat) (f : Gen → Gen) : (modGen i f s).boardLvl = s.boardLvl := rfl
@[simp] theorem modGen_tbpEnd (i : Nat) (f : Gen → Gen) : (modGen i f s).tbpEnd = s.tbpEnd := rfl
@[simp] theorem modGen_tbpLast (i : Nat) (f : Gen → Gen) : (modGen i f s).tbpLast = s.tbpLast := rfl
@[simp] theorem modGen_paq (i : Nat) (f : Gen → Gen) : (modGen i f s).paq = s.paq := rfl
@[simp] theorem modGen_obs (i : Nat) (f : Gen → Gen) : (modGen i f s).obs = s.obs := rfl
@[simp] theorem modGen_paused (i : Nat) (f : Gen → Gen) : (modGen i f s).paused = s.paused := rfl
@[simp] theorem modGen_strms (i : Nat) (f : Gen → Gen) : (modGen i f s).strms = s.strms := rfl
@[simp] theorem modGen_ffs (i : Nat) (f : Gen → Gen) : (modGen i f s).ffs = s.ffs := rfl
@[simp] theorem modGen_sup (i : Nat) (f : Gen → Gen) : (modGen i f s).sup = s.sup := rfl
@[simp] theorem modGen_sessions (i : Nat) (f : Gen → Gen) : (modGen i f s).sessions = s.sessions := rfl
@[simp] theorem modGen_fabCfg (i : Nat) (f : Gen → Gen) : (modGen i f s).fabCfg = s.fabCfg := rfl
@[simp] theorem modGen_fabs (i : Nat) (f : Gen → Gen) : (modGen i f s).fabs = s.fabs := rfl
@[simp] theorem modGen_taps (i : Nat) (f : Gen → Gen) : (modGen i f s).taps = s.taps := rfl
@[simp] theorem modGen_clkstop (i : Nat) (f : Gen → Gen) : (modGen i f s).clkstop = s.clkstop := rfl
@[simp] theorem modGen_dma (i : Nat) (f : Gen → Gen) : (modGen i f s).dma = s.dma := rfl
@[simp] theorem modGen_movers (i : Nat) (f : Gen → Gen) : (modGen i f s).movers = s.movers := rfl
@[simp] theorem modGen_dmaRr0 (i : Nat) (f : Gen → Gen) : (modGen i f s).dmaRr0 = s.dmaRr0 := rfl
@[simp] theorem modGen_dmaRr1 (i : Nat) (f : Gen → Gen) : (modGen i f s).dmaRr1 = s.dmaRr1 := rfl
@[simp] theorem modGen_snapSeq (i : Nat) (f : Gen → Gen) : (modGen i f s).snapSeq = s.snapSeq := rfl
@[simp] theorem modGen_bootFabs (i : Nat) (f : Gen → Gen) : (modGen i f s).bootFabs = s.bootFabs := rfl
@[simp] theorem modGen_bootTiles (i : Nat) (f : Gen → Gen) : (modGen i f s).bootTiles = s.bootTiles := rfl
@[simp] theorem modGen_dbgDis (i : Nat) (f : Gen → Gen) : (modGen i f s).dbgDis = s.dbgDis := rfl
@[simp] theorem modGen_fabAuth (i : Nat) (f : Gen → Gen) : (modGen i f s).fabAuth = s.fabAuth := rfl
@[simp] theorem modGen_gasp (i : Nat) (f : Gen → Gen) : (modGen i f s).gasp = s.gasp := rfl
@[simp] theorem modGen_gaspSlot (i : Nat) (f : Gen → Gen) : (modGen i f s).gaspSlot = s.gaspSlot := rfl

/-! ## modEnc -/

@[simp] theorem modEnc_pending (i : Nat) (f : Enc → Enc) : (modEnc i f s).pending = s.pending := rfl
@[simp] theorem modEnc_tb (i : Nat) (f : Enc → Enc) : (modEnc i f s).tb = s.tb := rfl
@[simp] theorem modEnc_free (i : Nat) (f : Enc → Enc) : (modEnc i f s).free = s.free := rfl
@[simp] theorem modEnc_out (i : Nat) (f : Enc → Enc) : (modEnc i f s).out = s.out := rfl
@[simp] theorem modEnc_regs (i : Nat) (f : Enc → Enc) : (modEnc i f s).regs = s.regs := rfl
@[simp] theorem modEnc_act (i : Nat) (f : Enc → Enc) : (modEnc i f s).act = s.act := rfl
@[simp] theorem modEnc_due (i : Nat) (f : Enc → Enc) : (modEnc i f s).due = s.due := rfl
@[simp] theorem modEnc_latch (i : Nat) (f : Enc → Enc) : (modEnc i f s).latch = s.latch := rfl
@[simp] theorem modEnc_sel (i : Nat) (f : Enc → Enc) : (modEnc i f s).sel = s.sel := rfl
@[simp] theorem modEnc_owner (i : Nat) (f : Enc → Enc) : (modEnc i f s).owner = s.owner := rfl
@[simp] theorem modEnc_leases (i : Nat) (f : Enc → Enc) : (modEnc i f s).leases = s.leases := rfl
@[simp] theorem modEnc_ring (i : Nat) (f : Enc → Enc) : (modEnc i f s).ring = s.ring := rfl
@[simp] theorem modEnc_rpl (i : Nat) (f : Enc → Enc) : (modEnc i f s).rpl = s.rpl := rfl
@[simp] theorem modEnc_rr (i : Nat) (f : Enc → Enc) : (modEnc i f s).rr = s.rr := rfl
@[simp] theorem modEnc_aftRst (i : Nat) (f : Enc → Enc) : (modEnc i f s).aftRst = s.aftRst := rfl
@[simp] theorem modEnc_halted (i : Nat) (f : Enc → Enc) : (modEnc i f s).halted = s.halted := rfl
@[simp] theorem modEnc_haltReq (i : Nat) (f : Enc → Enc) : (modEnc i f s).haltReq = s.haltReq := rfl
@[simp] theorem modEnc_restarting (i : Nat) (f : Enc → Enc) : (modEnc i f s).restarting = s.restarting := rfl
@[simp] theorem modEnc_ops (i : Nat) (f : Enc → Enc) : (modEnc i f s).ops = s.ops := rfl
@[simp] theorem modEnc_insWait (i : Nat) (f : Enc → Enc) : (modEnc i f s).insWait = s.insWait := rfl
@[simp] theorem modEnc_links (i : Nat) (f : Enc → Enc) : (modEnc i f s).links = s.links := rfl
@[simp] theorem modEnc_led (i : Nat) (f : Enc → Enc) : (modEnc i f s).led = s.led := rfl
@[simp] theorem modEnc_ledStop (i : Nat) (f : Enc → Enc) : (modEnc i f s).ledStop = s.ledStop := rfl
@[simp] theorem modEnc_snaps (i : Nat) (f : Enc → Enc) : (modEnc i f s).snaps = s.snaps := rfl
@[simp] theorem modEnc_injFlag (i : Nat) (f : Enc → Enc) : (modEnc i f s).injFlag = s.injFlag := rfl
@[simp] theorem modEnc_slowFlag (i : Nat) (f : Enc → Enc) : (modEnc i f s).slowFlag = s.slowFlag := rfl
@[simp] theorem modEnc_bootQ (i : Nat) (f : Enc → Enc) : (modEnc i f s).bootQ = s.bootQ := rfl
@[simp] theorem modEnc_flt (i : Nat) (f : Enc → Enc) : (modEnc i f s).flt = s.flt := rfl
@[simp] theorem modEnc_rep (i : Nat) (f : Enc → Enc) : (modEnc i f s).rep = s.rep := rfl
@[simp] theorem modEnc_pfail (i : Nat) (f : Enc → Enc) : (modEnc i f s).pfail = s.pfail := rfl
@[simp] theorem modEnc_por (i : Nat) (f : Enc → Enc) : (modEnc i f s).por = s.por := rfl
@[simp] theorem modEnc_rstn (i : Nat) (f : Enc → Enc) : (modEnc i f s).rstn = s.rstn := rfl
@[simp] theorem modEnc_step1 (i : Nat) (f : Enc → Enc) : (modEnc i f s).step1 = s.step1 := rfl
@[simp] theorem modEnc_step2 (i : Nat) (f : Enc → Enc) : (modEnc i f s).step2 = s.step2 := rfl
@[simp] theorem modEnc_rails (i : Nat) (f : Enc → Enc) : (modEnc i f s).rails = s.rails := rfl
@[simp] theorem modEnc_sclkHz (i : Nat) (f : Enc → Enc) : (modEnc i f s).sclkHz = s.sclkHz := rfl
@[simp] theorem modEnc_nvm (i : Nat) (f : Enc → Enc) : (modEnc i f s).nvm = s.nvm := rfl
@[simp] theorem modEnc_mem (i : Nat) (f : Enc → Enc) : (modEnc i f s).mem = s.mem := rfl
@[simp] theorem modEnc_corr (i : Nat) (f : Enc → Enc) : (modEnc i f s).corr = s.corr := rfl
@[simp] theorem modEnc_axes (i : Nat) (f : Enc → Enc) : (modEnc i f s).axes = s.axes := rfl
@[simp] theorem modEnc_gens (i : Nat) (f : Enc → Enc) : (modEnc i f s).gens = s.gens := rfl
@[simp] theorem modEnc_sw (i : Nat) (f : Enc → Enc) : (modEnc i f s).sw = s.sw := rfl
@[simp] theorem modEnc_tiles (i : Nat) (f : Enc → Enc) : (modEnc i f s).tiles = s.tiles := rfl
@[simp] theorem modEnc_chans (i : Nat) (f : Enc → Enc) : (modEnc i f s).chans = s.chans := rfl
@[simp] theorem modEnc_vports (i : Nat) (f : Enc → Enc) : (modEnc i f s).vports = s.vports := rfl
@[simp] theorem modEnc_coll (i : Nat) (f : Enc → Enc) : (modEnc i f s).coll = s.coll := rfl
@[simp] theorem modEnc_stRr (i : Nat) (f : Enc → Enc) : (modEnc i f s).stRr = s.stRr := rfl
@[simp] theorem modEnc_hold (i : Nat) (f : Enc → Enc) : (modEnc i f s).hold = s.hold := rfl
@[simp] theorem modEnc_marks (i : Nat) (f : Enc → Enc) : (modEnc i f s).marks = s.marks := rfl
@[simp] theorem modEnc_ruleQ (i : Nat) (f : Enc → Enc) : (modEnc i f s).ruleQ = s.ruleQ := rfl
@[simp] theorem modEnc_zones (i : Nat) (f : Enc → Enc) : (modEnc i f s).zones = s.zones := rfl
@[simp] theorem modEnc_insBuf (i : Nat) (f : Enc → Enc) : (modEnc i f s).insBuf = s.insBuf := rfl
@[simp] theorem modEnc_molts (i : Nat) (f : Enc → Enc) : (modEnc i f s).molts = s.molts := rfl
@[simp] theorem modEnc_headLine (i : Nat) (f : Enc → Enc) : (modEnc i f s).headLine = s.headLine := rfl
@[simp] theorem modEnc_markers (i : Nat) (f : Enc → Enc) : (modEnc i f s).markers = s.markers := rfl
@[simp] theorem modEnc_boardLvl (i : Nat) (f : Enc → Enc) : (modEnc i f s).boardLvl = s.boardLvl := rfl
@[simp] theorem modEnc_tbpEnd (i : Nat) (f : Enc → Enc) : (modEnc i f s).tbpEnd = s.tbpEnd := rfl
@[simp] theorem modEnc_tbpLast (i : Nat) (f : Enc → Enc) : (modEnc i f s).tbpLast = s.tbpLast := rfl
@[simp] theorem modEnc_paq (i : Nat) (f : Enc → Enc) : (modEnc i f s).paq = s.paq := rfl
@[simp] theorem modEnc_obs (i : Nat) (f : Enc → Enc) : (modEnc i f s).obs = s.obs := rfl
@[simp] theorem modEnc_paused (i : Nat) (f : Enc → Enc) : (modEnc i f s).paused = s.paused := rfl
@[simp] theorem modEnc_strms (i : Nat) (f : Enc → Enc) : (modEnc i f s).strms = s.strms := rfl
@[simp] theorem modEnc_ffs (i : Nat) (f : Enc → Enc) : (modEnc i f s).ffs = s.ffs := rfl
@[simp] theorem modEnc_sup (i : Nat) (f : Enc → Enc) : (modEnc i f s).sup = s.sup := rfl
@[simp] theorem modEnc_sessions (i : Nat) (f : Enc → Enc) : (modEnc i f s).sessions = s.sessions := rfl
@[simp] theorem modEnc_fabCfg (i : Nat) (f : Enc → Enc) : (modEnc i f s).fabCfg = s.fabCfg := rfl
@[simp] theorem modEnc_fabs (i : Nat) (f : Enc → Enc) : (modEnc i f s).fabs = s.fabs := rfl
@[simp] theorem modEnc_taps (i : Nat) (f : Enc → Enc) : (modEnc i f s).taps = s.taps := rfl
@[simp] theorem modEnc_clkstop (i : Nat) (f : Enc → Enc) : (modEnc i f s).clkstop = s.clkstop := rfl
@[simp] theorem modEnc_dma (i : Nat) (f : Enc → Enc) : (modEnc i f s).dma = s.dma := rfl
@[simp] theorem modEnc_movers (i : Nat) (f : Enc → Enc) : (modEnc i f s).movers = s.movers := rfl
@[simp] theorem modEnc_dmaRr0 (i : Nat) (f : Enc → Enc) : (modEnc i f s).dmaRr0 = s.dmaRr0 := rfl
@[simp] theorem modEnc_dmaRr1 (i : Nat) (f : Enc → Enc) : (modEnc i f s).dmaRr1 = s.dmaRr1 := rfl
@[simp] theorem modEnc_snapSeq (i : Nat) (f : Enc → Enc) : (modEnc i f s).snapSeq = s.snapSeq := rfl
@[simp] theorem modEnc_bootFabs (i : Nat) (f : Enc → Enc) : (modEnc i f s).bootFabs = s.bootFabs := rfl
@[simp] theorem modEnc_bootTiles (i : Nat) (f : Enc → Enc) : (modEnc i f s).bootTiles = s.bootTiles := rfl
@[simp] theorem modEnc_dbgDis (i : Nat) (f : Enc → Enc) : (modEnc i f s).dbgDis = s.dbgDis := rfl
@[simp] theorem modEnc_fabAuth (i : Nat) (f : Enc → Enc) : (modEnc i f s).fabAuth = s.fabAuth := rfl
@[simp] theorem modEnc_gasp (i : Nat) (f : Enc → Enc) : (modEnc i f s).gasp = s.gasp := rfl
@[simp] theorem modEnc_gaspSlot (i : Nat) (f : Enc → Enc) : (modEnc i f s).gaspSlot = s.gaspSlot := rfl

/-! ## modChan -/

@[simp] theorem modChan_pending (i : Nat) (f : Chan → Chan) : (modChan i f s).pending = s.pending := rfl
@[simp] theorem modChan_tb (i : Nat) (f : Chan → Chan) : (modChan i f s).tb = s.tb := rfl
@[simp] theorem modChan_free (i : Nat) (f : Chan → Chan) : (modChan i f s).free = s.free := rfl
@[simp] theorem modChan_out (i : Nat) (f : Chan → Chan) : (modChan i f s).out = s.out := rfl
@[simp] theorem modChan_regs (i : Nat) (f : Chan → Chan) : (modChan i f s).regs = s.regs := rfl
@[simp] theorem modChan_act (i : Nat) (f : Chan → Chan) : (modChan i f s).act = s.act := rfl
@[simp] theorem modChan_due (i : Nat) (f : Chan → Chan) : (modChan i f s).due = s.due := rfl
@[simp] theorem modChan_latch (i : Nat) (f : Chan → Chan) : (modChan i f s).latch = s.latch := rfl
@[simp] theorem modChan_sel (i : Nat) (f : Chan → Chan) : (modChan i f s).sel = s.sel := rfl
@[simp] theorem modChan_owner (i : Nat) (f : Chan → Chan) : (modChan i f s).owner = s.owner := rfl
@[simp] theorem modChan_leases (i : Nat) (f : Chan → Chan) : (modChan i f s).leases = s.leases := rfl
@[simp] theorem modChan_ring (i : Nat) (f : Chan → Chan) : (modChan i f s).ring = s.ring := rfl
@[simp] theorem modChan_rpl (i : Nat) (f : Chan → Chan) : (modChan i f s).rpl = s.rpl := rfl
@[simp] theorem modChan_rr (i : Nat) (f : Chan → Chan) : (modChan i f s).rr = s.rr := rfl
@[simp] theorem modChan_aftRst (i : Nat) (f : Chan → Chan) : (modChan i f s).aftRst = s.aftRst := rfl
@[simp] theorem modChan_halted (i : Nat) (f : Chan → Chan) : (modChan i f s).halted = s.halted := rfl
@[simp] theorem modChan_haltReq (i : Nat) (f : Chan → Chan) : (modChan i f s).haltReq = s.haltReq := rfl
@[simp] theorem modChan_restarting (i : Nat) (f : Chan → Chan) : (modChan i f s).restarting = s.restarting := rfl
@[simp] theorem modChan_ops (i : Nat) (f : Chan → Chan) : (modChan i f s).ops = s.ops := rfl
@[simp] theorem modChan_insWait (i : Nat) (f : Chan → Chan) : (modChan i f s).insWait = s.insWait := rfl
@[simp] theorem modChan_links (i : Nat) (f : Chan → Chan) : (modChan i f s).links = s.links := rfl
@[simp] theorem modChan_led (i : Nat) (f : Chan → Chan) : (modChan i f s).led = s.led := rfl
@[simp] theorem modChan_ledStop (i : Nat) (f : Chan → Chan) : (modChan i f s).ledStop = s.ledStop := rfl
@[simp] theorem modChan_snaps (i : Nat) (f : Chan → Chan) : (modChan i f s).snaps = s.snaps := rfl
@[simp] theorem modChan_injFlag (i : Nat) (f : Chan → Chan) : (modChan i f s).injFlag = s.injFlag := rfl
@[simp] theorem modChan_slowFlag (i : Nat) (f : Chan → Chan) : (modChan i f s).slowFlag = s.slowFlag := rfl
@[simp] theorem modChan_bootQ (i : Nat) (f : Chan → Chan) : (modChan i f s).bootQ = s.bootQ := rfl
@[simp] theorem modChan_flt (i : Nat) (f : Chan → Chan) : (modChan i f s).flt = s.flt := rfl
@[simp] theorem modChan_rep (i : Nat) (f : Chan → Chan) : (modChan i f s).rep = s.rep := rfl
@[simp] theorem modChan_pfail (i : Nat) (f : Chan → Chan) : (modChan i f s).pfail = s.pfail := rfl
@[simp] theorem modChan_por (i : Nat) (f : Chan → Chan) : (modChan i f s).por = s.por := rfl
@[simp] theorem modChan_rstn (i : Nat) (f : Chan → Chan) : (modChan i f s).rstn = s.rstn := rfl
@[simp] theorem modChan_step1 (i : Nat) (f : Chan → Chan) : (modChan i f s).step1 = s.step1 := rfl
@[simp] theorem modChan_step2 (i : Nat) (f : Chan → Chan) : (modChan i f s).step2 = s.step2 := rfl
@[simp] theorem modChan_rails (i : Nat) (f : Chan → Chan) : (modChan i f s).rails = s.rails := rfl
@[simp] theorem modChan_sclkHz (i : Nat) (f : Chan → Chan) : (modChan i f s).sclkHz = s.sclkHz := rfl
@[simp] theorem modChan_nvm (i : Nat) (f : Chan → Chan) : (modChan i f s).nvm = s.nvm := rfl
@[simp] theorem modChan_mem (i : Nat) (f : Chan → Chan) : (modChan i f s).mem = s.mem := rfl
@[simp] theorem modChan_corr (i : Nat) (f : Chan → Chan) : (modChan i f s).corr = s.corr := rfl
@[simp] theorem modChan_enc (i : Nat) (f : Chan → Chan) : (modChan i f s).enc = s.enc := rfl
@[simp] theorem modChan_axes (i : Nat) (f : Chan → Chan) : (modChan i f s).axes = s.axes := rfl
@[simp] theorem modChan_gens (i : Nat) (f : Chan → Chan) : (modChan i f s).gens = s.gens := rfl
@[simp] theorem modChan_sw (i : Nat) (f : Chan → Chan) : (modChan i f s).sw = s.sw := rfl
@[simp] theorem modChan_tiles (i : Nat) (f : Chan → Chan) : (modChan i f s).tiles = s.tiles := rfl
@[simp] theorem modChan_vports (i : Nat) (f : Chan → Chan) : (modChan i f s).vports = s.vports := rfl
@[simp] theorem modChan_coll (i : Nat) (f : Chan → Chan) : (modChan i f s).coll = s.coll := rfl
@[simp] theorem modChan_stRr (i : Nat) (f : Chan → Chan) : (modChan i f s).stRr = s.stRr := rfl
@[simp] theorem modChan_hold (i : Nat) (f : Chan → Chan) : (modChan i f s).hold = s.hold := rfl
@[simp] theorem modChan_marks (i : Nat) (f : Chan → Chan) : (modChan i f s).marks = s.marks := rfl
@[simp] theorem modChan_ruleQ (i : Nat) (f : Chan → Chan) : (modChan i f s).ruleQ = s.ruleQ := rfl
@[simp] theorem modChan_zones (i : Nat) (f : Chan → Chan) : (modChan i f s).zones = s.zones := rfl
@[simp] theorem modChan_insBuf (i : Nat) (f : Chan → Chan) : (modChan i f s).insBuf = s.insBuf := rfl
@[simp] theorem modChan_molts (i : Nat) (f : Chan → Chan) : (modChan i f s).molts = s.molts := rfl
@[simp] theorem modChan_headLine (i : Nat) (f : Chan → Chan) : (modChan i f s).headLine = s.headLine := rfl
@[simp] theorem modChan_markers (i : Nat) (f : Chan → Chan) : (modChan i f s).markers = s.markers := rfl
@[simp] theorem modChan_boardLvl (i : Nat) (f : Chan → Chan) : (modChan i f s).boardLvl = s.boardLvl := rfl
@[simp] theorem modChan_tbpEnd (i : Nat) (f : Chan → Chan) : (modChan i f s).tbpEnd = s.tbpEnd := rfl
@[simp] theorem modChan_tbpLast (i : Nat) (f : Chan → Chan) : (modChan i f s).tbpLast = s.tbpLast := rfl
@[simp] theorem modChan_paq (i : Nat) (f : Chan → Chan) : (modChan i f s).paq = s.paq := rfl
@[simp] theorem modChan_obs (i : Nat) (f : Chan → Chan) : (modChan i f s).obs = s.obs := rfl
@[simp] theorem modChan_paused (i : Nat) (f : Chan → Chan) : (modChan i f s).paused = s.paused := rfl
@[simp] theorem modChan_strms (i : Nat) (f : Chan → Chan) : (modChan i f s).strms = s.strms := rfl
@[simp] theorem modChan_ffs (i : Nat) (f : Chan → Chan) : (modChan i f s).ffs = s.ffs := rfl
@[simp] theorem modChan_sup (i : Nat) (f : Chan → Chan) : (modChan i f s).sup = s.sup := rfl
@[simp] theorem modChan_sessions (i : Nat) (f : Chan → Chan) : (modChan i f s).sessions = s.sessions := rfl
@[simp] theorem modChan_fabCfg (i : Nat) (f : Chan → Chan) : (modChan i f s).fabCfg = s.fabCfg := rfl
@[simp] theorem modChan_fabs (i : Nat) (f : Chan → Chan) : (modChan i f s).fabs = s.fabs := rfl
@[simp] theorem modChan_taps (i : Nat) (f : Chan → Chan) : (modChan i f s).taps = s.taps := rfl
@[simp] theorem modChan_clkstop (i : Nat) (f : Chan → Chan) : (modChan i f s).clkstop = s.clkstop := rfl
@[simp] theorem modChan_dma (i : Nat) (f : Chan → Chan) : (modChan i f s).dma = s.dma := rfl
@[simp] theorem modChan_movers (i : Nat) (f : Chan → Chan) : (modChan i f s).movers = s.movers := rfl
@[simp] theorem modChan_dmaRr0 (i : Nat) (f : Chan → Chan) : (modChan i f s).dmaRr0 = s.dmaRr0 := rfl
@[simp] theorem modChan_dmaRr1 (i : Nat) (f : Chan → Chan) : (modChan i f s).dmaRr1 = s.dmaRr1 := rfl
@[simp] theorem modChan_snapSeq (i : Nat) (f : Chan → Chan) : (modChan i f s).snapSeq = s.snapSeq := rfl
@[simp] theorem modChan_bootFabs (i : Nat) (f : Chan → Chan) : (modChan i f s).bootFabs = s.bootFabs := rfl
@[simp] theorem modChan_bootTiles (i : Nat) (f : Chan → Chan) : (modChan i f s).bootTiles = s.bootTiles := rfl
@[simp] theorem modChan_dbgDis (i : Nat) (f : Chan → Chan) : (modChan i f s).dbgDis = s.dbgDis := rfl
@[simp] theorem modChan_fabAuth (i : Nat) (f : Chan → Chan) : (modChan i f s).fabAuth = s.fabAuth := rfl
@[simp] theorem modChan_gasp (i : Nat) (f : Chan → Chan) : (modChan i f s).gasp = s.gasp := rfl
@[simp] theorem modChan_gaspSlot (i : Nat) (f : Chan → Chan) : (modChan i f s).gaspSlot = s.gaspSlot := rfl

/-! ## modTile -/

@[simp] theorem modTile_pending (i : Nat) (f : Tile → Tile) : (modTile i f s).pending = s.pending := rfl
@[simp] theorem modTile_tb (i : Nat) (f : Tile → Tile) : (modTile i f s).tb = s.tb := rfl
@[simp] theorem modTile_free (i : Nat) (f : Tile → Tile) : (modTile i f s).free = s.free := rfl
@[simp] theorem modTile_out (i : Nat) (f : Tile → Tile) : (modTile i f s).out = s.out := rfl
@[simp] theorem modTile_regs (i : Nat) (f : Tile → Tile) : (modTile i f s).regs = s.regs := rfl
@[simp] theorem modTile_act (i : Nat) (f : Tile → Tile) : (modTile i f s).act = s.act := rfl
@[simp] theorem modTile_due (i : Nat) (f : Tile → Tile) : (modTile i f s).due = s.due := rfl
@[simp] theorem modTile_latch (i : Nat) (f : Tile → Tile) : (modTile i f s).latch = s.latch := rfl
@[simp] theorem modTile_sel (i : Nat) (f : Tile → Tile) : (modTile i f s).sel = s.sel := rfl
@[simp] theorem modTile_owner (i : Nat) (f : Tile → Tile) : (modTile i f s).owner = s.owner := rfl
@[simp] theorem modTile_leases (i : Nat) (f : Tile → Tile) : (modTile i f s).leases = s.leases := rfl
@[simp] theorem modTile_ring (i : Nat) (f : Tile → Tile) : (modTile i f s).ring = s.ring := rfl
@[simp] theorem modTile_rpl (i : Nat) (f : Tile → Tile) : (modTile i f s).rpl = s.rpl := rfl
@[simp] theorem modTile_rr (i : Nat) (f : Tile → Tile) : (modTile i f s).rr = s.rr := rfl
@[simp] theorem modTile_aftRst (i : Nat) (f : Tile → Tile) : (modTile i f s).aftRst = s.aftRst := rfl
@[simp] theorem modTile_halted (i : Nat) (f : Tile → Tile) : (modTile i f s).halted = s.halted := rfl
@[simp] theorem modTile_haltReq (i : Nat) (f : Tile → Tile) : (modTile i f s).haltReq = s.haltReq := rfl
@[simp] theorem modTile_restarting (i : Nat) (f : Tile → Tile) : (modTile i f s).restarting = s.restarting := rfl
@[simp] theorem modTile_ops (i : Nat) (f : Tile → Tile) : (modTile i f s).ops = s.ops := rfl
@[simp] theorem modTile_insWait (i : Nat) (f : Tile → Tile) : (modTile i f s).insWait = s.insWait := rfl
@[simp] theorem modTile_links (i : Nat) (f : Tile → Tile) : (modTile i f s).links = s.links := rfl
@[simp] theorem modTile_led (i : Nat) (f : Tile → Tile) : (modTile i f s).led = s.led := rfl
@[simp] theorem modTile_ledStop (i : Nat) (f : Tile → Tile) : (modTile i f s).ledStop = s.ledStop := rfl
@[simp] theorem modTile_snaps (i : Nat) (f : Tile → Tile) : (modTile i f s).snaps = s.snaps := rfl
@[simp] theorem modTile_injFlag (i : Nat) (f : Tile → Tile) : (modTile i f s).injFlag = s.injFlag := rfl
@[simp] theorem modTile_slowFlag (i : Nat) (f : Tile → Tile) : (modTile i f s).slowFlag = s.slowFlag := rfl
@[simp] theorem modTile_bootQ (i : Nat) (f : Tile → Tile) : (modTile i f s).bootQ = s.bootQ := rfl
@[simp] theorem modTile_flt (i : Nat) (f : Tile → Tile) : (modTile i f s).flt = s.flt := rfl
@[simp] theorem modTile_rep (i : Nat) (f : Tile → Tile) : (modTile i f s).rep = s.rep := rfl
@[simp] theorem modTile_pfail (i : Nat) (f : Tile → Tile) : (modTile i f s).pfail = s.pfail := rfl
@[simp] theorem modTile_por (i : Nat) (f : Tile → Tile) : (modTile i f s).por = s.por := rfl
@[simp] theorem modTile_rstn (i : Nat) (f : Tile → Tile) : (modTile i f s).rstn = s.rstn := rfl
@[simp] theorem modTile_step1 (i : Nat) (f : Tile → Tile) : (modTile i f s).step1 = s.step1 := rfl
@[simp] theorem modTile_step2 (i : Nat) (f : Tile → Tile) : (modTile i f s).step2 = s.step2 := rfl
@[simp] theorem modTile_rails (i : Nat) (f : Tile → Tile) : (modTile i f s).rails = s.rails := rfl
@[simp] theorem modTile_sclkHz (i : Nat) (f : Tile → Tile) : (modTile i f s).sclkHz = s.sclkHz := rfl
@[simp] theorem modTile_nvm (i : Nat) (f : Tile → Tile) : (modTile i f s).nvm = s.nvm := rfl
@[simp] theorem modTile_mem (i : Nat) (f : Tile → Tile) : (modTile i f s).mem = s.mem := rfl
@[simp] theorem modTile_corr (i : Nat) (f : Tile → Tile) : (modTile i f s).corr = s.corr := rfl
@[simp] theorem modTile_enc (i : Nat) (f : Tile → Tile) : (modTile i f s).enc = s.enc := rfl
@[simp] theorem modTile_axes (i : Nat) (f : Tile → Tile) : (modTile i f s).axes = s.axes := rfl
@[simp] theorem modTile_gens (i : Nat) (f : Tile → Tile) : (modTile i f s).gens = s.gens := rfl
@[simp] theorem modTile_sw (i : Nat) (f : Tile → Tile) : (modTile i f s).sw = s.sw := rfl
@[simp] theorem modTile_chans (i : Nat) (f : Tile → Tile) : (modTile i f s).chans = s.chans := rfl
@[simp] theorem modTile_vports (i : Nat) (f : Tile → Tile) : (modTile i f s).vports = s.vports := rfl
@[simp] theorem modTile_coll (i : Nat) (f : Tile → Tile) : (modTile i f s).coll = s.coll := rfl
@[simp] theorem modTile_stRr (i : Nat) (f : Tile → Tile) : (modTile i f s).stRr = s.stRr := rfl
@[simp] theorem modTile_hold (i : Nat) (f : Tile → Tile) : (modTile i f s).hold = s.hold := rfl
@[simp] theorem modTile_marks (i : Nat) (f : Tile → Tile) : (modTile i f s).marks = s.marks := rfl
@[simp] theorem modTile_ruleQ (i : Nat) (f : Tile → Tile) : (modTile i f s).ruleQ = s.ruleQ := rfl
@[simp] theorem modTile_zones (i : Nat) (f : Tile → Tile) : (modTile i f s).zones = s.zones := rfl
@[simp] theorem modTile_insBuf (i : Nat) (f : Tile → Tile) : (modTile i f s).insBuf = s.insBuf := rfl
@[simp] theorem modTile_molts (i : Nat) (f : Tile → Tile) : (modTile i f s).molts = s.molts := rfl
@[simp] theorem modTile_headLine (i : Nat) (f : Tile → Tile) : (modTile i f s).headLine = s.headLine := rfl
@[simp] theorem modTile_markers (i : Nat) (f : Tile → Tile) : (modTile i f s).markers = s.markers := rfl
@[simp] theorem modTile_boardLvl (i : Nat) (f : Tile → Tile) : (modTile i f s).boardLvl = s.boardLvl := rfl
@[simp] theorem modTile_tbpEnd (i : Nat) (f : Tile → Tile) : (modTile i f s).tbpEnd = s.tbpEnd := rfl
@[simp] theorem modTile_tbpLast (i : Nat) (f : Tile → Tile) : (modTile i f s).tbpLast = s.tbpLast := rfl
@[simp] theorem modTile_paq (i : Nat) (f : Tile → Tile) : (modTile i f s).paq = s.paq := rfl
@[simp] theorem modTile_obs (i : Nat) (f : Tile → Tile) : (modTile i f s).obs = s.obs := rfl
@[simp] theorem modTile_paused (i : Nat) (f : Tile → Tile) : (modTile i f s).paused = s.paused := rfl
@[simp] theorem modTile_strms (i : Nat) (f : Tile → Tile) : (modTile i f s).strms = s.strms := rfl
@[simp] theorem modTile_ffs (i : Nat) (f : Tile → Tile) : (modTile i f s).ffs = s.ffs := rfl
@[simp] theorem modTile_sup (i : Nat) (f : Tile → Tile) : (modTile i f s).sup = s.sup := rfl
@[simp] theorem modTile_sessions (i : Nat) (f : Tile → Tile) : (modTile i f s).sessions = s.sessions := rfl
@[simp] theorem modTile_fabCfg (i : Nat) (f : Tile → Tile) : (modTile i f s).fabCfg = s.fabCfg := rfl
@[simp] theorem modTile_fabs (i : Nat) (f : Tile → Tile) : (modTile i f s).fabs = s.fabs := rfl
@[simp] theorem modTile_taps (i : Nat) (f : Tile → Tile) : (modTile i f s).taps = s.taps := rfl
@[simp] theorem modTile_clkstop (i : Nat) (f : Tile → Tile) : (modTile i f s).clkstop = s.clkstop := rfl
@[simp] theorem modTile_dma (i : Nat) (f : Tile → Tile) : (modTile i f s).dma = s.dma := rfl
@[simp] theorem modTile_movers (i : Nat) (f : Tile → Tile) : (modTile i f s).movers = s.movers := rfl
@[simp] theorem modTile_dmaRr0 (i : Nat) (f : Tile → Tile) : (modTile i f s).dmaRr0 = s.dmaRr0 := rfl
@[simp] theorem modTile_dmaRr1 (i : Nat) (f : Tile → Tile) : (modTile i f s).dmaRr1 = s.dmaRr1 := rfl
@[simp] theorem modTile_snapSeq (i : Nat) (f : Tile → Tile) : (modTile i f s).snapSeq = s.snapSeq := rfl
@[simp] theorem modTile_bootFabs (i : Nat) (f : Tile → Tile) : (modTile i f s).bootFabs = s.bootFabs := rfl
@[simp] theorem modTile_bootTiles (i : Nat) (f : Tile → Tile) : (modTile i f s).bootTiles = s.bootTiles := rfl
@[simp] theorem modTile_dbgDis (i : Nat) (f : Tile → Tile) : (modTile i f s).dbgDis = s.dbgDis := rfl
@[simp] theorem modTile_fabAuth (i : Nat) (f : Tile → Tile) : (modTile i f s).fabAuth = s.fabAuth := rfl
@[simp] theorem modTile_gasp (i : Nat) (f : Tile → Tile) : (modTile i f s).gasp = s.gasp := rfl
@[simp] theorem modTile_gaspSlot (i : Nat) (f : Tile → Tile) : (modTile i f s).gaspSlot = s.gaspSlot := rfl

/-! ## modVp -/

@[simp] theorem modVp_pending (i : Nat) (f : VidPort → VidPort) : (modVp i f s).pending = s.pending := rfl
@[simp] theorem modVp_tb (i : Nat) (f : VidPort → VidPort) : (modVp i f s).tb = s.tb := rfl
@[simp] theorem modVp_free (i : Nat) (f : VidPort → VidPort) : (modVp i f s).free = s.free := rfl
@[simp] theorem modVp_out (i : Nat) (f : VidPort → VidPort) : (modVp i f s).out = s.out := rfl
@[simp] theorem modVp_regs (i : Nat) (f : VidPort → VidPort) : (modVp i f s).regs = s.regs := rfl
@[simp] theorem modVp_act (i : Nat) (f : VidPort → VidPort) : (modVp i f s).act = s.act := rfl
@[simp] theorem modVp_due (i : Nat) (f : VidPort → VidPort) : (modVp i f s).due = s.due := rfl
@[simp] theorem modVp_latch (i : Nat) (f : VidPort → VidPort) : (modVp i f s).latch = s.latch := rfl
@[simp] theorem modVp_sel (i : Nat) (f : VidPort → VidPort) : (modVp i f s).sel = s.sel := rfl
@[simp] theorem modVp_owner (i : Nat) (f : VidPort → VidPort) : (modVp i f s).owner = s.owner := rfl
@[simp] theorem modVp_leases (i : Nat) (f : VidPort → VidPort) : (modVp i f s).leases = s.leases := rfl
@[simp] theorem modVp_ring (i : Nat) (f : VidPort → VidPort) : (modVp i f s).ring = s.ring := rfl
@[simp] theorem modVp_rpl (i : Nat) (f : VidPort → VidPort) : (modVp i f s).rpl = s.rpl := rfl
@[simp] theorem modVp_rr (i : Nat) (f : VidPort → VidPort) : (modVp i f s).rr = s.rr := rfl
@[simp] theorem modVp_aftRst (i : Nat) (f : VidPort → VidPort) : (modVp i f s).aftRst = s.aftRst := rfl
@[simp] theorem modVp_halted (i : Nat) (f : VidPort → VidPort) : (modVp i f s).halted = s.halted := rfl
@[simp] theorem modVp_haltReq (i : Nat) (f : VidPort → VidPort) : (modVp i f s).haltReq = s.haltReq := rfl
@[simp] theorem modVp_restarting (i : Nat) (f : VidPort → VidPort) : (modVp i f s).restarting = s.restarting := rfl
@[simp] theorem modVp_ops (i : Nat) (f : VidPort → VidPort) : (modVp i f s).ops = s.ops := rfl
@[simp] theorem modVp_insWait (i : Nat) (f : VidPort → VidPort) : (modVp i f s).insWait = s.insWait := rfl
@[simp] theorem modVp_links (i : Nat) (f : VidPort → VidPort) : (modVp i f s).links = s.links := rfl
@[simp] theorem modVp_led (i : Nat) (f : VidPort → VidPort) : (modVp i f s).led = s.led := rfl
@[simp] theorem modVp_ledStop (i : Nat) (f : VidPort → VidPort) : (modVp i f s).ledStop = s.ledStop := rfl
@[simp] theorem modVp_snaps (i : Nat) (f : VidPort → VidPort) : (modVp i f s).snaps = s.snaps := rfl
@[simp] theorem modVp_injFlag (i : Nat) (f : VidPort → VidPort) : (modVp i f s).injFlag = s.injFlag := rfl
@[simp] theorem modVp_slowFlag (i : Nat) (f : VidPort → VidPort) : (modVp i f s).slowFlag = s.slowFlag := rfl
@[simp] theorem modVp_bootQ (i : Nat) (f : VidPort → VidPort) : (modVp i f s).bootQ = s.bootQ := rfl
@[simp] theorem modVp_flt (i : Nat) (f : VidPort → VidPort) : (modVp i f s).flt = s.flt := rfl
@[simp] theorem modVp_rep (i : Nat) (f : VidPort → VidPort) : (modVp i f s).rep = s.rep := rfl
@[simp] theorem modVp_pfail (i : Nat) (f : VidPort → VidPort) : (modVp i f s).pfail = s.pfail := rfl
@[simp] theorem modVp_por (i : Nat) (f : VidPort → VidPort) : (modVp i f s).por = s.por := rfl
@[simp] theorem modVp_rstn (i : Nat) (f : VidPort → VidPort) : (modVp i f s).rstn = s.rstn := rfl
@[simp] theorem modVp_step1 (i : Nat) (f : VidPort → VidPort) : (modVp i f s).step1 = s.step1 := rfl
@[simp] theorem modVp_step2 (i : Nat) (f : VidPort → VidPort) : (modVp i f s).step2 = s.step2 := rfl
@[simp] theorem modVp_rails (i : Nat) (f : VidPort → VidPort) : (modVp i f s).rails = s.rails := rfl
@[simp] theorem modVp_sclkHz (i : Nat) (f : VidPort → VidPort) : (modVp i f s).sclkHz = s.sclkHz := rfl
@[simp] theorem modVp_nvm (i : Nat) (f : VidPort → VidPort) : (modVp i f s).nvm = s.nvm := rfl
@[simp] theorem modVp_mem (i : Nat) (f : VidPort → VidPort) : (modVp i f s).mem = s.mem := rfl
@[simp] theorem modVp_corr (i : Nat) (f : VidPort → VidPort) : (modVp i f s).corr = s.corr := rfl
@[simp] theorem modVp_enc (i : Nat) (f : VidPort → VidPort) : (modVp i f s).enc = s.enc := rfl
@[simp] theorem modVp_axes (i : Nat) (f : VidPort → VidPort) : (modVp i f s).axes = s.axes := rfl
@[simp] theorem modVp_gens (i : Nat) (f : VidPort → VidPort) : (modVp i f s).gens = s.gens := rfl
@[simp] theorem modVp_sw (i : Nat) (f : VidPort → VidPort) : (modVp i f s).sw = s.sw := rfl
@[simp] theorem modVp_tiles (i : Nat) (f : VidPort → VidPort) : (modVp i f s).tiles = s.tiles := rfl
@[simp] theorem modVp_chans (i : Nat) (f : VidPort → VidPort) : (modVp i f s).chans = s.chans := rfl
@[simp] theorem modVp_coll (i : Nat) (f : VidPort → VidPort) : (modVp i f s).coll = s.coll := rfl
@[simp] theorem modVp_stRr (i : Nat) (f : VidPort → VidPort) : (modVp i f s).stRr = s.stRr := rfl
@[simp] theorem modVp_hold (i : Nat) (f : VidPort → VidPort) : (modVp i f s).hold = s.hold := rfl
@[simp] theorem modVp_marks (i : Nat) (f : VidPort → VidPort) : (modVp i f s).marks = s.marks := rfl
@[simp] theorem modVp_ruleQ (i : Nat) (f : VidPort → VidPort) : (modVp i f s).ruleQ = s.ruleQ := rfl
@[simp] theorem modVp_zones (i : Nat) (f : VidPort → VidPort) : (modVp i f s).zones = s.zones := rfl
@[simp] theorem modVp_insBuf (i : Nat) (f : VidPort → VidPort) : (modVp i f s).insBuf = s.insBuf := rfl
@[simp] theorem modVp_molts (i : Nat) (f : VidPort → VidPort) : (modVp i f s).molts = s.molts := rfl
@[simp] theorem modVp_headLine (i : Nat) (f : VidPort → VidPort) : (modVp i f s).headLine = s.headLine := rfl
@[simp] theorem modVp_markers (i : Nat) (f : VidPort → VidPort) : (modVp i f s).markers = s.markers := rfl
@[simp] theorem modVp_boardLvl (i : Nat) (f : VidPort → VidPort) : (modVp i f s).boardLvl = s.boardLvl := rfl
@[simp] theorem modVp_tbpEnd (i : Nat) (f : VidPort → VidPort) : (modVp i f s).tbpEnd = s.tbpEnd := rfl
@[simp] theorem modVp_tbpLast (i : Nat) (f : VidPort → VidPort) : (modVp i f s).tbpLast = s.tbpLast := rfl
@[simp] theorem modVp_paq (i : Nat) (f : VidPort → VidPort) : (modVp i f s).paq = s.paq := rfl
@[simp] theorem modVp_obs (i : Nat) (f : VidPort → VidPort) : (modVp i f s).obs = s.obs := rfl
@[simp] theorem modVp_paused (i : Nat) (f : VidPort → VidPort) : (modVp i f s).paused = s.paused := rfl
@[simp] theorem modVp_strms (i : Nat) (f : VidPort → VidPort) : (modVp i f s).strms = s.strms := rfl
@[simp] theorem modVp_ffs (i : Nat) (f : VidPort → VidPort) : (modVp i f s).ffs = s.ffs := rfl
@[simp] theorem modVp_sup (i : Nat) (f : VidPort → VidPort) : (modVp i f s).sup = s.sup := rfl
@[simp] theorem modVp_sessions (i : Nat) (f : VidPort → VidPort) : (modVp i f s).sessions = s.sessions := rfl
@[simp] theorem modVp_fabCfg (i : Nat) (f : VidPort → VidPort) : (modVp i f s).fabCfg = s.fabCfg := rfl
@[simp] theorem modVp_fabs (i : Nat) (f : VidPort → VidPort) : (modVp i f s).fabs = s.fabs := rfl
@[simp] theorem modVp_taps (i : Nat) (f : VidPort → VidPort) : (modVp i f s).taps = s.taps := rfl
@[simp] theorem modVp_clkstop (i : Nat) (f : VidPort → VidPort) : (modVp i f s).clkstop = s.clkstop := rfl
@[simp] theorem modVp_dma (i : Nat) (f : VidPort → VidPort) : (modVp i f s).dma = s.dma := rfl
@[simp] theorem modVp_movers (i : Nat) (f : VidPort → VidPort) : (modVp i f s).movers = s.movers := rfl
@[simp] theorem modVp_dmaRr0 (i : Nat) (f : VidPort → VidPort) : (modVp i f s).dmaRr0 = s.dmaRr0 := rfl
@[simp] theorem modVp_dmaRr1 (i : Nat) (f : VidPort → VidPort) : (modVp i f s).dmaRr1 = s.dmaRr1 := rfl
@[simp] theorem modVp_snapSeq (i : Nat) (f : VidPort → VidPort) : (modVp i f s).snapSeq = s.snapSeq := rfl
@[simp] theorem modVp_bootFabs (i : Nat) (f : VidPort → VidPort) : (modVp i f s).bootFabs = s.bootFabs := rfl
@[simp] theorem modVp_bootTiles (i : Nat) (f : VidPort → VidPort) : (modVp i f s).bootTiles = s.bootTiles := rfl
@[simp] theorem modVp_dbgDis (i : Nat) (f : VidPort → VidPort) : (modVp i f s).dbgDis = s.dbgDis := rfl
@[simp] theorem modVp_fabAuth (i : Nat) (f : VidPort → VidPort) : (modVp i f s).fabAuth = s.fabAuth := rfl
@[simp] theorem modVp_gasp (i : Nat) (f : VidPort → VidPort) : (modVp i f s).gasp = s.gasp := rfl
@[simp] theorem modVp_gaspSlot (i : Nat) (f : VidPort → VidPort) : (modVp i f s).gaspSlot = s.gaspSlot := rfl

end Sys2Proof.Machine
end

