-- ==== Sys2Proof/Laws/Regs.lean ====
section
/-! SUPPORT. Registers, staged values, sparse numbers, ledger terms and record memory: reading after writing. -/

namespace Sys2Proof.Machine

/-! ## Registers -/

@[simp] theorem rd_wr_same (s : State) (k : RKey) (v : Word) : rd (wr k v s) k = v := spGet_spPut_same ..
theorem rd_wr_ne (s : State) {k k₂ : RKey} (v : Word) (h : k₂ ≠ k) : rd (wr k v s) k₂ = rd s k₂ :=
  spGet_spPut_ne _ _ _ _ h
theorem rd_wr (s : State) (k k₂ : RKey) (v : Word) : rd (wr k v s) k₂ = if k₂ = k then v else rd s k₂ :=
  spGet_spPut ..
theorem rf_wr_ne (s : State) {k k₂ : RKey} (v : Word) (hi lo : Nat) (h : k₂ ≠ k) :
    rf (wr k v s) k₂ hi lo = rf s k₂ hi lo := by rw [rf, rf, rd_wr_ne s v h]
theorem rb_wr_ne (s : State) {k k₂ : RKey} (v : Word) (i : Nat) (h : k₂ ≠ k) : rb (wr k v s) k₂ i = rb s k₂ i := by
  rw [rb, rb, rd_wr_ne s v h]
theorem rd_setF_ne (s : State) {k k₂ : RKey} (hi lo v : Nat) (h : k₂ ≠ k) : rd (setF k hi lo v s) k₂ = rd s k₂ :=
  rd_wr_ne s _ h
theorem rd_setB_ne (s : State) {k k₂ : RKey} (i : Nat) (b : Bool) (h : k₂ ≠ k) : rd (setB k i b s) k₂ = rd s k₂ :=
  rd_wr_ne s _ h
@[simp] theorem act_setAct_same (s : State) (k : RKey) (v : Word) : act (setAct k v s) k = v := spGet_spPut_same ..
theorem act_setAct_ne (s : State) {k k₂ : RKey} (v : Word) (h : k₂ ≠ k) : act (setAct k v s) k₂ = act s k₂ :=
  spGet_spPut_ne _ _ _ _ h

/-- What only the register file decides is decided by what the registers read. -/
theorem rd_congr {s t : State} (h : s.regs = t.regs) (k : RKey) : rd s k = rd t k := by rw [rd, rd, h]

/-! ## Sparse numbers, owners and ledger terms -/

@[simp] theorem nget_nput_same (d : Nat) (m : List (Nat × Nat)) (k v : Nat) : nget d (nput d m k v) k = v :=
  spGet_spPut_same ..
theorem nget_nput_ne (d : Nat) (m : List (Nat × Nat)) {k k₂ : Nat} (v : Nat) (h : k₂ ≠ k) :
    nget d (nput d m k v) k₂ = nget d m k₂ := spGet_spPut_ne _ _ _ _ h
@[simp] theorem ownerOf_setOwner_same (s : State) (c i p : Nat) : ownerOf (setOwner c i p s) c i = p :=
  nget_nput_same ..
theorem ledGet_ledAdd_same (s : State) (c i t n : Nat) (h : s.ledStop = false) :
    ledGet (ledAdd c i t n s) c i t = (ledGet s c i t + n) % 2 ^ 64 := by
  simp [ledGet, ledAdd, h, nget_nput_same]

/-! ## Record memory -/

/-- A byte of record memory outside those written reads as before. -/
theorem putMem_byte_outside (s : State) (off : Nat) (bs : List Byte) (x : Nat) (h : x < off ∨ off + bs.length ≤ x) :
    memRd memDflt (putMem off bs s).mem x = memRd memDflt s.mem x := memRd_memWrs_out _ _ _ _ _ h
theorem putMem_byte_inside (s : State) (off : Nat) (bs : List Byte) (i : Nat) (h : i < bs.length) :
    memRd memDflt (putMem off bs s).mem (off + i) = bs[i] := memRd_memWrs_in _ _ _ _ _ h
theorem putMem_wf (s : State) (off : Nat) (bs : List Byte) (h : spWf id memDflt s.mem = true) :
    spWf id memDflt (putMem off bs s).mem = true := memWrs_wf _ _ _ _ h
theorem zeroMem_wf (s : State) (off n : Nat) (h : spWf id memDflt s.mem = true) :
    spWf id memDflt (zeroMem off n s).mem = true := spWf_filter _ _ _ h
theorem putNvmW_wf (s : State) (off : Nat) (ws : List Word) (h : spWf id nvmDflt s.nvm = true) :
    spWf id nvmDflt (putNvmW off ws s).nvm = true := memWrs_wf _ _ _ _ h

end Sys2Proof.Machine
end

