-- ==== Sys2Proof/Laws/Host.lean ====
section
/-! SUPPORT. The frame of host commands, of events and of register rows: what they do when they are taken, and when
they are not; what the end of a step does. -/

namespace Sys2Proof.Machine

/-! ## Ledger and output -/

theorem ledAdd_eq (c i t n : Nat) (s : State) : ledAdd c i t n s = { s with led := (ledAdd c i t n s).led } := by
  unfold ledAdd; split <;> rfl
theorem ledSub_eq (c i t n : Nat) (s : State) : ledSub c i t n s = { s with led := (ledSub c i t n s).led } := by
  unfold ledSub; split <;> rfl
@[simp] theorem ledAdd_regs (c i t n : Nat) (s : State) : (ledAdd c i t n s).regs = s.regs := by rw [ledAdd_eq]
@[simp] theorem ledSub_regs (c i t n : Nat) (s : State) : (ledSub c i t n s).regs = s.regs := by rw [ledSub_eq]
@[simp] theorem rd_ledAdd (c i t n : Nat) (s : State) (k : RKey) : rd (ledAdd c i t n s) k = rd s k :=
  rd_congr (ledAdd_regs ..) k
@[simp] theorem rd_ledSub (c i t n : Nat) (s : State) (k : RKey) : rd (ledSub c i t n s) k = rd s k :=
  rd_congr (ledSub_regs ..) k

/-! ## Taking a packet (R60) -/

/-- A state that differs from another in registers and ledger only. -/
theorem regsLed_wr {s t : State} (k : RKey) (v : Word) (h : ∃ r l, t = { s with regs := r, led := l }) :
    ∃ r l, wr k v t = { s with regs := r, led := l } := by obtain ⟨r, l, rfl⟩ := h; exact ⟨_, _, rfl⟩
theorem regsLed_ledAdd {s t : State} (c i m n : Nat) (h : ∃ r l, t = { s with regs := r, led := l }) :
    ∃ r l, ledAdd c i m n t = { s with regs := r, led := l } := by
  obtain ⟨r, l, rfl⟩ := h; rw [ledAdd_eq]; exact ⟨_, _, rfl⟩
/-- Taking a packet changes registers of the queue, the ledger and the turn only. -/
theorem take_eq (q len : Nat) (s : State) :
    take q len s = { s with regs := (take q len s).regs, led := (take q len s).led, rr := (q + 1) % 65 } := by
  obtain ⟨r, l, e⟩ := regsLed_ledAdd 7 q 4 1 (regsLed_ledAdd 7 q 0 1 (regsLed_wr (qk q 0x24) _
    (regsLed_wr (qk q 0x10) _ ⟨s.regs, s.led, rfl⟩)))
  have h : take q len s = { s with regs := r, led := l, rr := (q + 1) % 65 } := congrArg (fun t : State => { t with rr := (q + 1) % 65 }) e
  rw [h]

/-- Taking a packet writes CMD_HEAD and RECEIVED of its queue, no other register. -/
theorem rd_take (q len : Nat) (s : State) {k : RKey} (h₁ : k ≠ qk q 0x10) (h₂ : k ≠ qk q 0x24) :
    rd (take q len s) k = rd s k := by
  have : rd (take q len s) k =
      rd (ledAdd 7 q 4 1 (ledAdd 7 q 0 1 (incR (qk q 0x24)
        (setF (qk q 0x10) 9 0 ((rf s (qk q 0x10) 9 0 + 1 + len) % 1024) s)))) k := rfl
  rw [this, rd_ledAdd, rd_ledAdd, incR, rd_wr_ne _ _ h₂, rd_setF_ne _ _ _ _ h₁]

@[simp] theorem take_ops (q len : Nat) (s : State) : (take q len s).ops = s.ops := by rw [take_eq]
@[simp] theorem bound_take (q len q' : Nat) (s : State) : bound (take q len s) q' = bound s q' := by
  unfold bound rb; rw [rd_take] <;> simp [qk]
@[simp] theorem opOf_take (q len q' tag : Nat) (s : State) : opOf (take q len s) q' tag = opOf s q' tag := by
  simp [opOf]

/-! ## Rows -/

/-- A packet that the ring does not offer leaves the device as it was. -/
theorem hostRow_skip {opc : Nat} {sel lenOk body after} {p : Pkt} {s : State} (h : offered opc p s = false) :
    hostRow opc sel lenOk body after p s = s := by simp [hostRow, h]

/-- A host command that is taken and passes the checks that every opcode has: its body answers. -/
theorem hostRow_runs {opc : Nat} {sel lenOk body after} {p : Pkt} {s : State} {a : Ans} (h : offered opc p s = true)
    (hs : sel p.pay = true) (hb : bound s p.q.val = true) (hl : lenOk p.pay p.pay.length = true)
    (ho : opOf s p.q.val p.tag.toNat = none) (ha : body (cmdOf opc p s) (take p.q.val p.pay.length s) = a) :
    hostRow opc sel lenOk body after p s = finish (after (cmdOf opc p s) a.code (answer (cmdOf opc p s) a)) := by
  have hc : common (lenOk p.pay) body (cmdOf opc p s) (take p.q.val p.pay.length s) = a := by
    simp [common, cmdOf, hb, hl, ho] at ha ⊢; exact ha
  simp only [hostRow, h, hs, hc, Bool.and_self, ↓reduceIte]

/-- An event of a device that is alive. -/
theorem event_live {f : State → State} {s : State} (h : live s = true) : event f s = finish (f s) := by simp [event, h]
/-- An event of a device that is not. -/
theorem event_dead {f : State → State} {s : State} (h : live s = false) : event f s = s := by simp [event, h]

/-! ## The end of a step -/

theorem collectN_rep (f : Nat) (s : State) : (collectN f s).rep = [] := by
  induction f generalizing s with
  | zero => rfl
  | succ f ih =>
    unfold collectN
    split
    · assumption
    · exact ih _
theorem collect_rep (s : State) : (collect s).rep = [] := by
  unfold collect
  split
  · rfl
  · exact collectN_rep ..
/-- A list of reports that is empty already. -/
theorem rep_self {s : State} (h : s.rep = []) : { s with rep := [] } = s := by
  have e : ∀ l, s.rep = l → ({ s with rep := l } : State) = s := fun _ hl => by subst hl; rfl
  exact e [] h
theorem collectN_nil (f : Nat) {s : State} (h : s.rep = []) : collectN f s = s := by
  cases f with
  | zero => exact rep_self h
  | succ f => unfold collectN; rw [h]
theorem collect_nil {s : State} (h : s.rep = []) : collect s = s := by
  unfold collect
  split
  · exact rep_self h
  · exact collectN_nil _ h
theorem settle_rep (s : State) : (settle s).rep = [] := collect_rep _
/-- Work on each of a list that changes nothing. -/
theorem forEach_id {α : Type} {l : List α} {f : α → State → State} {s : State} (h : ∀ a ∈ l, f a s = s) :
    forEach l f s = s := by
  induction l with
  | nil => rfl
  | cons a l ih =>
    have h₁ : forEach (a :: l) f s = forEach l f (f a s) := rfl
    rw [h₁, h a List.mem_cons_self]
    exact ih fun b hb => h b (List.mem_cons_of_mem _ hb)
theorem calPass_nil {s : State} (h : ∀ o ∈ s.ops, ∀ c, o.kind ≠ .calRun c) : calPass s = s := by
  refine forEach_id fun o ho => ?_
  split
  · next c hc => exact absurd hc (h o ho c)
  · rfl
theorem leaseCheck_all {s : State} (h : ∀ x ∈ s.leases, leaseUser s x.holder x.id = true) : leaseCheck s = s := by
  unfold leaseCheck; rw [List.filter_eq_self.mpr h]
theorem drainLink_idle {s : State} {k : Nat} (h : (link s k).drain = false) : drainLink k s = s := by
  simp [drainLink, h]
theorem haltNow_idle {s : State} (h : s.haltReq = true → s.insWait ≠ []) : haltNow s = s := by
  unfold haltNow
  rw [if_neg]
  simpa using h
/-- Where nothing is left over, the end of a step changes nothing. -/
theorem finish_settled {s : State} (h : s.Settled) : finish s = s := by
  obtain ⟨hr, ho, hl, hd, hh⟩ := h
  have he : endStep s = s := by
    unfold endStep settle calAdvance
    rw [calPass_nil ho, calPass_nil ho, collect_nil hr, leaseCheck_all hl]
  rw [finish, he, forEach_id fun k hk => drainLink_idle (hd k (List.mem_range.mp hk))]
  exact haltNow_idle hh

end Sys2Proof.Machine
end

