-- ==== Sys2Proof/Laws/Rows.lean ====
section
/-! SUPPORT. What the shared operations of the rows do, said once: fields of a word, accesses over the bus, the units,
replies, the end of a step, and a device that is not alive. -/

namespace Sys2Proof.Machine

/-! ## Fields of a word -/

theorem bit_setBit_same (w : Word) (i : Nat) (b : Bool) (h : i < 32) : bit (setBit w i b) i = b := by
  interval_cases i <;> cases b <;> simp [bit, setBit, setFld, fldMask]
theorem bit1_setBit0 (w : Word) (b : Bool) : bit (setBit w 0 b) 1 = bit w 1 := by
  cases b <;> simp [bit, setBit, setFld, fldMask]
/-! ## Reads and writes over the bus -/

theorem busRead_ok {q a : Nat} {s : State} (h1 : serving s = true) (h2 : bound s q = true) (ha : a < 2 ^ 32)
    (hb : badAddr a = false) (hm : mayRead s ⟨partOf s q, q, 0⟩ (locate a) = true) :
    busRead q a s = finish (emit (.data [(readWord ⟨partOf s q, q, 0⟩ a s).1]) (readWord ⟨partOf s q, q, 0⟩ a s).2) := by
  have hx : (BitVec.ofNat 32 a).toNat = a := by simp; omega
  have hb' : bodyRegRead ⟨q, partOf s q, portOf q, 0x10, 0, false, [BitVec.ofNat 32 a, 1]⟩ s =
      Ans.ok (readWord ⟨partOf s q, q, 0⟩ a s).2 [(readWord ⟨partOf s q, q, 0⟩ a s).1] := by
    unfold bodyRegRead
    have e0 : pw ⟨q, partOf s q, portOf q, 0x10, 0, false, [BitVec.ofNat 32 a, 1]⟩ 0 = BitVec.ofNat 32 a := rfl
    have e1 : fld (pw ⟨q, partOf s q, portOf q, 0x10, 0, false, [BitVec.ofNat 32 a, 1]⟩ 1) 7 0 = 1 := by show fld (1 : Word) 7 0 = 1; decide
    simp only [e0, e1, hx]
    simp [List.range, List.range.loop, hb, hm, readWords]
  simp only [busRead, h1, h2, Bool.not_true, Bool.or_self, Bool.false_eq_true, if_false, hb']
  rfl
theorem readReg_latch {w : Who} {k : RKey} {x : Word × Word} {s : State} (h : latchValue s k = some x)
    (hf : (fieldsOf k.blk k.off).isSome = true) (hw : w.mode = 0 := by rfl) :
    readReg w k s = (x.1 &&& readMask k, setLatch w k x.2 s) := by
  have hv : view w k s = (x.1 &&& readMask k, s) := by
    have : viewPure w k s = x.1 := by unfold viewPure; rw [h]
    have hr : viewRaw w k s = (x.1, s) := by
      obtain ⟨b, i, o⟩ := k
      unfold viewRaw
      split <;> simp_all [latchValue]
    unfold view
    rw [if_neg (by cases hfo : fieldsOf k.blk k.off <;> simp_all), hr]
  have hp : peakRead k s = s := by
    obtain ⟨b, i, o⟩ := k
    unfold peakRead
    split <;> simp_all [latchValue]
  have hs : ∀ t, selectRead w k t = t := by
    intro t
    obtain ⟨b, i, o⟩ := k
    unfold selectRead
    split
    · next hc => obtain ⟨rfl, h1, h2, h3⟩ := hc; simp only [latchValue] at h; split at h <;> simp_all <;> omega
    · rfl
  unfold readReg
  rw [hv]
  simp only [hw, hp, hs, latchRead, if_true]
  rw [h]; simp
theorem mergeReg_eq {k : RKey} {a b : Word} (ha : accMask [.rw, .rwl, .wos] k = a) (hb : accMask [.w1c] k = b) (old v m : Word) :
    mergeReg k old v m = (blend old v (m &&& a) &&& ~~~(v &&& m &&& b)) := by rw [mergeReg, ha, hb]
theorem bit0 (old v a : Word) (ha : bit a 0 = true) (b : Word) (hb : bit b 0 = false) :
    bit (blend old v (0xFFFFFFFF &&& a) &&& ~~~(v &&& 0xFFFFFFFF &&& b)) 0 = bit v 0 := by
  simp only [bit] at ha hb
  simp only [bit, blend, BitVec.getLsbD_and, BitVec.getLsbD_or, BitVec.getLsbD_not, ha, hb]
  simp
theorem accMask_inst (l : List Acc) (b : Blk) (n o : Nat) : accMask l ⟨b, n, o⟩ = accMask l ⟨b, 0, o⟩ := by unfold accMask; rfl
theorem mergeFf (n : Nat) (old v : Word) : bit (mergeReg ⟨.ff, n, 0⟩ old v 0xFFFFFFFF) 0 = bit v 0 :=
  bit0 _ _ _ (by rw [accMask_inst]; decide +kernel) _ (by rw [accMask_inst]; decide +kernel)
theorem mergeZone (n : Nat) (old v : Word) : bit (mergeReg ⟨.zone, n, 0⟩ old v 0xFFFFFFFF) 0 = bit v 0 :=
  bit0 _ _ _ (by rw [accMask_inst]; decide +kernel) _ (by rw [accMask_inst]; decide +kernel)
theorem mergeRring (n : Nat) (old v : Word) : bit (mergeReg ⟨.rring, n, 0⟩ old v 0xFFFFFFFF) 0 = bit v 0 :=
  bit0 _ _ _ (by rw [accMask_inst]; decide +kernel) _ (by rw [accMask_inst]; decide +kernel)
theorem mergeDma (n : Nat) (old v : Word) : bit (mergeReg ⟨.dma, n, 0⟩ old v 0xFFFFFFFF) 0 = bit v 0 :=
  bit0 _ _ _ (by rw [accMask_inst]; decide +kernel) _ (by rw [accMask_inst]; decide +kernel)
theorem pwrMerge (v : Nat) (s : State) (hv : v ≤ 2) : fld (mergeReg pwrK (rd s pwrK) (BitVec.ofNat 32 v) 0xFFFFFFFF) 1 0 = v := by
  have ha : accMask [.rw, .rwl, .wos] pwrK = 3 := by decide +kernel
  have hb : accMask [.w1c] pwrK = 0 := by decide +kernel
  rw [mergeReg_eq ha hb]
  have : (blend (rd s pwrK) (BitVec.ofNat 32 v) (0xFFFFFFFF &&& 3) &&& ~~~(BitVec.ofNat 32 v &&& 0xFFFFFFFF &&& 0)) &&& 3 = BitVec.ofNat 32 v := by
    unfold blend
    generalize rd s pwrK = x
    apply BitVec.eq_of_getLsbD_eq
    intro i hi
    interval_cases v <;> interval_cases i <;> simp
  have e := congrArg BitVec.toNat this
  simp only [BitVec.toNat_and] at e
  unfold fld
  rw [show (3 : Word).toNat = 2 ^ 2 - 1 from rfl, Nat.and_two_pow_sub_one_eq_mod] at e
  simp only [Nat.shiftRight_zero]
  rw [BitVec.toNat_and]
  rw [e]; simp; omega
theorem applyReg_credit {p c : Nat} (hc : c < 12) (t : Nat) (v m : Word) (s : State) :
    applyReg p ⟨.tile, t, 0x100 + 4 * c⟩ v m s =
      wr ⟨.tile, t, 0x100 + 4 * c⟩ (mergeReg ⟨.tile, t, 0x100 + 4 * c⟩ (rd s ⟨.tile, t, 0x100 + 4 * c⟩) v m) s := by
  interval_cases c <;> (simp only [applyReg]; rw [if_neg (by decide +kernel)])
/-! ## Encoders and axes -/

theorem pinRefusals_none {f : Nat} {pins : List Nat} {c i : Nat} {s : State}
    (h : ∀ p ∈ pins, pinCarries s p f = true → ownerOf s 0x0A p = ownerOf s c i) : pinRefusals f pins c i s = s := by
  unfold pinRefusals
  have : pins.filter (fun p => pinCarries s p f && ownerOf s 0x0A p != ownerOf s c i) = [] := by
    rw [List.filter_eq_nil_iff]; intro p hp; simp; exact h p hp
  rw [this]; rfl
theorem rb_congr {s t : State} (h : s.regs = t.regs) (k : RKey) (i : Nat) : rb s k i = rb t k i := by rw [rb, rb, rd_congr h]
theorem causeOn_regs (a : Nat) (m : Option Nat) (b c : Nat) (d : Word) (s : State) : (causeOn a m b c d s).regs = s.regs := by
  unfold causeOn; dsimp only; split <;> rfl
theorem axFilter_congr {e : Nat} {s t : State} (h : ∀ a, rd t (ak a 0) = rd s (ak a 0)) :
    ((List.range 8).filter fun a => priOf t a == some e || bkpOf t a == some e) = ((List.range 8).filter fun a => priOf s a == some e || bkpOf s a == some e) := by
  congr 1; funext a; simp only [priOf, bkpOf, rb, rf, h]; rfl
theorem encLos_on {e : Nat} {onB : Bool} {s : State} (g0 : (onB && !usesB s e) = false) :
    encLos e onB true s = forEach ((List.range 8).filter fun a => priOf s a == some e || bkpOf s a == some e) axisCheck
      (causeOn (0x040 + e) none 0x20 (ownerOf s 0x05 e) 0 (setB (ek e 4) 2 true (setB (ek e 4) (if onB then 1 else 0) true s))) := by
  unfold encLos; dsimp only
  rw [g0, if_neg (by simp), if_pos rfl]
  rw [axFilter_congr (s := s)]
  · rfl
  · intro a
    rw [rd_congr (causeOn_regs ..), rd_setB_ne _ _ _ (by simp [ak, ek]), rd_setB_ne _ _ _ (by simp [ak, ek])]
theorem encLos_off {e : Nat} {onB : Bool} {s : State} (g0 : rb (setB (ek e 4) (if onB then 1 else 0) false s) (ek e 4) 0 = false)
    (g1 : rb (setB (ek e 4) (if onB then 1 else 0) false s) (ek e 4) 1 = false) :
    encLos e onB false s = forEach ((List.range 8).filter fun a => priOf s a == some e || bkpOf s a == some e) axisCheck
      (causeOff (0x040 + e) none (setB (ek e 4) (if onB then 1 else 0) false s)) := by
  unfold encLos; dsimp only
  rw [if_neg (by simp), if_neg (by simp), g0, g1, if_pos (by simp)]
  rw [axFilter_congr (s := s)]
  intro a
  show rd (setB (ek e 4) (if onB then 1 else 0) false s) _ = _
  rw [rd_setB_ne _ _ _ (by simp [ak, ek])]
/-- A change of a generator leaves the use set of its axis. -/
theorem genMay_modGen {g n : Nat} {f : Gen → Gen} {s : State} : genMay (modGen n f s) g = genMay s g := rfl
/-! ## The Swarm link -/

theorem sendOn_sw (e : Bool) (bs : List Byte) (s : State) : (sendOn e bs s).sw.seen = s.sw.seen ∧ (sendOn e bs s).tb = s.tb := by
  unfold sendOn onlyIf
  split <;> refine ⟨?_, rfl⟩ <;> simp only [emit, modSw] <;> split <;> rfl
theorem forward_sw (typ : Nat) (f : SwFrame) (s : State) : (forward typ f s).sw.seen = s.sw.seen ∧ (forward typ f s).tb = s.tb := by
  unfold forward; dsimp only
  split
  · split
    · exact ⟨rfl, rfl⟩
    · exact sendOn_sw ..
  · split
    · exact ⟨rfl, rfl⟩
    · exact sendOn_sw ..
theorem onPos_ok {f : SwFrame} {s : State} (g1 : rb s (swk 0) 3 = false) (g2 : axSwarm s (payNat f 0 1 % 8) = true)
    (g3 : swState s = 2) (g4 : s.sw.rsAxes.contains (payNat f 0 1 % 8) = false) :
    onPos f s = updNoSrc (payNat f 0 1 % 8) (moveAxis (payNat f 0 1 % 8) (sdiff (BitVec.ofNat 48 (payNat f 1 6)) (axis s (payNat f 0 1 % 8)).pos) true
      (wr (ak (payNat f 0 1 % 8) 0x1C) (intW (sext 32 (payNat f 7 4))) (modSw (fun w => { w with pos := (payNat f 0 1 % 8, (BitVec.ofNat 48 (payNat f 1 6)).toNat, sext 32 (payNat f 7 4), s.tb) :: w.pos.filter (fun x => x.1 != payNat f 0 1 % 8) }) s))) := by
  unfold onPos; dsimp only
  rw [g1, g2, g4, g3, if_neg (by simp), if_neg (by simp), if_neg (by simp), if_neg (by simp)]
/-! ## More on fields -/

theorem setFld_bits (w : Word) (hi lo v i : Nat) (h : i < lo ∨ hi < i) (hh : lo ≤ hi) : bit (setFld w hi lo v) i = bit w i := by
  unfold setFld bit
  by_cases h32 : i < 32
  · have hm : (fldMask hi lo).getLsbD i = false := by
      unfold fldMask
      rw [BitVec.getLsbD_ofNat]
      simp only [h32, decide_true, Bool.true_and, Nat.testBit_shiftLeft, Nat.testBit_two_pow_sub_one]
      rcases h with h | h
      · simp; omega
      · simp; omega
    simp only [BitVec.getLsbD_or, BitVec.getLsbD_and, BitVec.getLsbD_not, hm]; simp [h32]
  · rw [BitVec.getLsbD_of_ge _ _ (by omega), BitVec.getLsbD_of_ge _ _ (by omega)]
theorem bit_fld_setFld (w : Word) (hi lo hi' lo' v : Nat) (h : hi' < lo ∨ hi < lo') (hh : lo ≤ hi) (hh' : lo' ≤ hi') :
    fld (setFld w hi lo v) hi' lo' = fld w hi' lo' := by
  have : ∀ i, (fld (setFld w hi lo v) hi' lo').testBit i = (fld w hi' lo').testBit i := by
    intro i
    unfold fld
    rw [Nat.testBit_mod_two_pow, Nat.testBit_mod_two_pow, Nat.testBit_shiftRight, Nat.testBit_shiftRight]
    by_cases hi2 : i < hi' + 1 - lo'
    · have := setFld_bits w hi lo v (lo' + i) (by omega) hh
      unfold bit at this
      rw [BitVec.testBit_toNat, BitVec.testBit_toNat, this]
    · simp [hi2]
  exact Nat.eq_of_testBit_eq this
theorem fld_setFld_same (w : Word) (hi lo v : Nat) (hh : lo ≤ hi) (h32 : hi < 32) (hv : v < 2 ^ (hi + 1 - lo)) :
    fld (setFld w hi lo v) hi lo = v := by
  apply Nat.eq_of_testBit_eq
  intro i
  unfold fld
  rw [Nat.testBit_mod_two_pow, Nat.testBit_shiftRight]
  by_cases hi2 : i < hi + 1 - lo
  · rw [BitVec.testBit_toNat]
    unfold setFld
    have hm : (fldMask hi lo).getLsbD (lo + i) = true := by
      unfold fldMask
      rw [BitVec.getLsbD_ofNat]
      simp [Nat.testBit_shiftLeft, Nat.testBit_two_pow_sub_one]; omega
    simp only [BitVec.getLsbD_or, BitVec.getLsbD_and, BitVec.getLsbD_not, hm, BitVec.getLsbD_ofNat]
    simp [Nat.testBit_shiftLeft, hi2]
    omega
  · simp [hi2]
    have hle : hi + 1 - lo ≤ i := by omega
    exact (Nat.testBit_eq_false_of_lt (lt_of_lt_of_le hv (Nat.pow_le_pow_right (by decide) hle)))
theorem vget_vmod_same {α : Type} {n : Nat} (v : Vector α (n + 1)) (i : Nat) (f : α → α) (h : i < n + 1) :
    vget (vmod v i f) i = f (vget v i) := by
  simp [vget, vmod, vset, h]
/-! ## Causes and axes -/

theorem causeOff_regs (a : Nat) (m : Option Nat) (s : State) : (causeOff a m s).regs = s.regs := rfl
theorem causeOn_axes (a : Nat) (m : Option Nat) (b c : Nat) (d : Word) (s : State) : (causeOn a m b c d s).axes = s.axes := by
  unfold causeOn; dsimp only; split <;> rfl
theorem updNoSrc_regs (a : Nat) (s : State) : (updNoSrc a s).regs = (setB (ak a 0x10) 3 (noSrc s a) s).regs := by
  unfold updNoSrc; dsimp only
  split
  · rw [causeOn_regs]
  · split <;> rfl
theorem updNoSrc_axes (a : Nat) (s : State) : (updNoSrc a s).axes = s.axes := by
  unfold updNoSrc; dsimp only
  split
  · rw [causeOn_axes]; rfl
  · split <;> rfl
/-! ## Commands -/

theorem firstOf_none {l : List Nat} {f : Nat → Bool} (h : l.any f = false) : firstOf l f = none := by
  simp only [firstOf, List.find?_eq_none]; intro n hn
  simp only [List.any_eq_false] at h; exact h n hn
theorem q_cmd (o : Nat) (p : Pkt) (s : State) : (cmdOf o p s).q = p.q.val := rfl
theorem port_cmd (o : Nat) (p : Pkt) (s : State) : (cmdOf o p s).port = portOf p.q.val := rfl
theorem tag_cmd (o : Nat) (p : Pkt) (s : State) : (cmdOf o p s).tag = p.tag.toNat := rfl
theorem notify_cmd (o : Nat) (p : Pkt) (s : State) : (cmdOf o p s).notify = p.flags.getLsbD 0 := rfl
theorem pay_cmd (o : Nat) (p : Pkt) (s : State) : (cmdOf o p s).pay = p.pay := rfl
theorem opc_cmd (o : Nat) (p : Pkt) (s : State) : (cmdOf o p s).opc = o := rfl
theorem ok_def (s : State) (l : List Word) : Ans.ok s l = ⟨s, 0, l, false⟩ := rfl
theorem any_firstOf {l : List Nat} {f : Nat → Bool} (h : firstOf l f = none) : l.any f = false := by
  simpa [firstOf, List.find?_eq_none] using h
theorem any_false (l : List Nat) : (l.any fun _ => false) = false := by simp
theorem corrFill_regs (n b i : Nat) (ws : List Word) (s : State) : (corrFill n b i ws s).regs = s.regs := by
  induction ws generalizing i s with
  | nil => rfl
  | cons w ws ih => exact (ih ..).trans rfl
theorem fld0_one {w : Word} (h : bit w 0 = true) : fld w 0 0 = 1 := by
  unfold fld; simp only [bit, BitVec.getLsbD, Nat.testBit] at h; simp at h ⊢; omega
theorem fld0_zero {w : Word} (h : bit w 0 = false) : fld w 0 0 = 0 := by
  unfold fld; simp only [bit, BitVec.getLsbD, Nat.testBit] at h; simp at h ⊢; omega
theorem fldbit {w : Word} {i : Nat} : fld w i i = (bit w i).toNat := by
  unfold fld bit
  simp only [BitVec.getLsbD, Nat.testBit, Nat.and_comm, Nat.one_and_eq_mod_two, show i + 1 - i = 1 by omega, pow_one]
  have : (w.toNat >>> i) % 2 = 0 ∨ (w.toNat >>> i) % 2 = 1 := by omega
  rcases this with h | h <;> simp [h]
/-! ## Outputs -/

theorem ffEdge_play {n : Nat} {s : State} (g1 : rb s (ffk n 0) 0 = true) (g2 : (ffP s n).dark = none) (g3 : (ffP s n).enable = false) (g4 : rb s (ffk n 0xC) 0 = true) :
    ffEdge n s = ffDrive n (ffTake n (ffPop n s)) := by
  unfold ffEdge; rw [g1, if_neg (by simp)]
  have e : (ffP s n).dark.isSome = false := by rw [g2]; rfl
  rw [if_neg (ne_true_of_eq_false e)]
  have e2 : (!rb s (ffk n 0xC) 0 && !rb s (ffk n 4) 1 && !(ffP s n).q.isEmpty) = false := by rw [g4]; rfl
  dsimp only
  rw [g3, if_neg (ne_true_of_eq_false e2), if_neg Bool.false_ne_true, if_pos g4]
theorem pulseBegin_shut {n k : Nat} {s : State} (hn : n < 96) (g0 : (ffP s n).pulses.contains (k, false) = true) (g1 : ffRank s n ≠ 5) :
    pulseBegin n k s = modFf n (fun f => { f with pulses := mapFirst (· == (k, false)) (fun _ => (k, true)) f.pulses, wait := f.wait && true }) s := by
  unfold pulseBegin; rw [if_pos g0]
  have e : (ffRank s n == 5) = false := by simpa using g1
  have q : ∀ (w : Bool → Bool) (p : List (Nat × Bool) → List (Nat × Bool)), ffRank (modFf n (fun f => { f with pulses := p f.pulses, wait := w f.wait }) s) n = ffRank s n := by
    intro w p
    have v : ffP (modFf n (fun f => { f with pulses := p f.pulses, wait := w f.wait }) s) n = { ffP s n with pulses := p (ffP s n).pulses, wait := w (ffP s n).wait } :=
      vget_vmod_same _ _ _ hn
    unfold ffRank; rw [v]; rfl
  dsimp only; rw [e]
  refine if_neg ?_
  rw [ffGate, q (fun w => w && !false) (fun p => mapFirst (fun x => x == (k, false)) (fun _ => (k, true)) p), e]
  simp
theorem own_congr {a b : State} {c i : Nat} (h : a.owner = b.owner) : ownerOf a c i = ownerOf b c i := by unfold ownerOf; rw [h]
/-- A trip of a comparator whose tile follows no trip and that asks for no urgent reading (R334). -/
theorem compTrip_latch {n c : Nat} {s : State} (g1 : rb s (cpk n 8) 1 = false) (g2 : rb s (cpk n 0) 7 = false) (g3 : rb s (tk (n / 12) 0x310) 4 = false) :
    compTrip n c s = causeOn (0x100 + 16 * (n / 12) + 9) (some (n % 12)) (0x10 + n / 12) (ownerOf s 0x04 n) 0 (ffBlock n
      (wr (cpk n 0x14) (hi32 s.tb) (wr (cpk n 0x10) (lo32 s.tb) (incR (cpk n 0xC) (setF (cpk n 8) 3 2 c (setB (cpk n 8) 1 true s)))))) := by
  have q : ∀ (k : RKey) (i : Nat) (t : State), t.regs = (wr (cpk n 0x14) (hi32 s.tb) (wr (cpk n 0x10) (lo32 s.tb) (incR (cpk n 0xC) (setF (cpk n 8) 3 2 c (setB (cpk n 8) 1 true s))))).regs →
      (∀ o, o ∈ [8, 0xC, 0x10, 0x14] → k ≠ cpk n o) → rb t k i = rb s k i := by
    intro k i t ht hk
    unfold rb
    rw [rd_congr ht, rd_wr_ne _ _ (hk _ (by simp)), rd_wr_ne _ _ (hk _ (by simp)), incR, rd_wr_ne _ _ (hk _ (by simp)), rd_setF_ne _ _ _ _ (hk _ (by simp)), rd_setB_ne _ _ _ (hk _ (by simp))]
  have o : ∀ a b x d e u, ownerOf (ffBlock n (wr (cpk n 20) a (wr (cpk n 16) b (incR (cpk n 12) (setF (cpk n 8) 3 2 x (setB (cpk n 8) d e u)))))) 4 n = ownerOf u 4 n :=
    fun _ _ _ _ _ _ => own_congr (by simp only [ffBlock, modFf, incR, setF, setB, wr])
  unfold compTrip; dsimp only
  rw [if_neg (ne_true_of_eq_false g1), o]
  rw [q (tk (n / 12) 0x310) 4 _ (by rw [causeOn_regs]; rfl) (by intro o ho; simp [cpk, tk]), g3, Bool.false_and, if_neg Bool.false_ne_true]
  rw [q (cpk n 0) 7 _ (by rw [causeOn_regs]; rfl) (by intro o ho; simp only [List.mem_cons, List.not_mem_nil, or_false] at ho; rcases ho with rfl | rfl | rfl | rfl <;> simp [cpk]), g2, if_neg Bool.false_ne_true]
/-- A level above the high threshold of a comparator that is on and was inactive trips it (R333). -/
theorem compLevel_high {n : Nat} {level : Int} {s : State} (hn : n < 96) (g0 : rb s (cpk n 0) 0 = true) (g1 : rb s (cpk n 0) 1 = true) (g2 : rb s (cpk n 0) 2 = false)
    (g3 : rawOf s n = false) (g4 : 500 * (rf s (cpk n 4) 25 16 : Int) < level) :
    compLevel n level s = compTrip n 1 (setB (cpk n 8) 0 true (modFf n (fun f => { f with hi := true, lo := false }) (modFf n (fun f => { f with sns := level }) s))) := by
  have v : ffP (modFf n (fun f => { f with sns := level }) s) n = { ffP s n with sns := level } := vget_vmod_same _ _ _ hn
  have r : ∀ k i, rb (modFf n (fun f => { f with sns := level }) s) k i = rb s k i := fun _ _ => rfl
  have e : ∀ k a b, rf (modFf n (fun f => { f with sns := level }) s) k a b = rf s k a b := fun _ _ _ => rfl
  have w : rawOf (modFf n (fun f => { f with sns := level }) s) n = false := g3
  unfold compLevel compEval; dsimp only
  rw [w, v]
  simp only [r, e, g0, g1, g2, g4, decide_true, Bool.true_or, Bool.and_true, Bool.true_and, Bool.and_false, Bool.false_and, Bool.or_false, Bool.not_false, if_true]
/-- A level moves a comparator that is off to inactive (R333). -/
theorem compLevel_off {n : Nat} {level : Int} {s : State} (g0 : rb s (cpk n 0) 0 = false) :
    compLevel n level s = setB (cpk n 8) 0 false (modFf n (fun f => { f with hi := false, lo := false }) (modFf n (fun f => { f with sns := level }) s)) := by
  have r : ∀ k i, rb (modFf n (fun f => { f with sns := level }) s) k i = rb s k i := fun _ _ => rfl
  unfold compLevel compEval; dsimp only
  simp only [r, g0, Bool.false_and, Bool.or_false, Bool.false_eq_true, if_false]
theorem fabRequest_dma {r k m : Nat} {s : State} (hk : k < 16) (g0 : regionState s r = 3 ∨ regionState s r = 4) (g1 : fld (rd s (fbk r (0x40 + 4 * k))) 1 0 = 2) (g2 : ownerOf s 0x0C (fld (rd s (fbk r (0x40 + 4 * k))) 13 8) = regOwner s r) :
   fabRequest r k m s = dmaStart (fld (rd s (fbk r (0x40 + 4 * k))) 13 8) (wr (fbk r 0xCC) (rd s (fbk r 0xCC) + BitVec.ofNat 32 m)
     (modFab r (fun f => { f with req := f.req &&& ~~~(BitVec.ofNat 16 (2 ^ k)) }) s)) := by
  unfold fabRequest; rw [if_neg (by rcases g0 with g0 | g0 <;> simp [g0])]
  have e : rd (wr (fbk r 0xCC) (rd s (fbk r 0xCC) + BitVec.ofNat 32 m) (modFab r (fun f => { f with req := f.req &&& ~~~(BitVec.ofNat 16 (2 ^ k)) }) s)) (fbk r (0x40 + 4 * k)) = rd s (fbk r (0x40 + 4 * k)) := (rd_wr_ne _ _ (by unfold fbk; intro h; injection h; omega)).trans (rd_congr rfl _)
  have e2 : rd (modFab r (fun f => { f with req := f.req &&& ~~~(BitVec.ofNat 16 (2 ^ k)) }) s) (fbk r 0xCC) = rd s (fbk r 0xCC) := rd_congr rfl _
  dsimp only; rw [e2, e, g1]
  refine if_pos (beq_iff_eq.mpr ?_)
  exact g2
theorem irqEdge_on {k : Nat} {level : Bool} {s : State} (h : live s = true) (g1 : standby s = false) (g2 : rb s (iqk k 0) (if level then 16 else 17) = true) :
   irqEdge k level s = causeOn (0x0C8 + k) none 0x29 (ownerOf s 0x0A (irqPin s k)) 0
  (wr (iqk k 0xC) (hi32 s.tb) (wr (iqk k 8) (lo32 s.tb) (satF (iqk k 4) 31 16 (setB (iqk k 4) 0 true (boardDrives k level s))))) := by
  unfold live at h; simp at h
  have q1 : standby (boardDrives k level s) = standby s := rfl
  have q2 : ∀ i, rb (boardDrives k level s) (iqk k 0) i = rb s (iqk k 0) i := fun _ => rfl
  have q3 : (boardDrives k level s).tb = s.tb := rfl
  have q4 : irqPin (boardDrives k level s) k = irqPin s k := rfl
  have q5 : ∀ p, ownerOf (boardDrives k level s) 0xA p = ownerOf s 0xA p := fun _ => rfl
  have q6 : (boardDrives k level s).por = s.por := rfl
  have q7 : (boardDrives k level s).rstn = s.rstn := rfl
  unfold irqEdge; dsimp only; rw [q1, q2, q6, q7, g1, h.1.2, h.2, g2, if_neg (by simp)]
  rw [← q3, ← q4, ← q5]
  generalize boardDrives k level s = s
  have : ∀ t, t.regs = (wr (iqk k 0xC) (hi32 s.tb) (wr (iqk k 8) (lo32 s.tb) (satF (iqk k 4) 31 16 (setB (iqk k 4) 0 true s)))).regs → irqPin t k = irqPin s k := by
    intro t ht
    unfold irqPin rf; rw [rd_congr ht, rd_wr_ne _ _ (by simp [iqk]), rd_wr_ne _ _ (by simp [iqk]), satF, rd_setF_ne _ _ _ _ (by simp [iqk]), rd_setB_ne _ _ _ (by simp [iqk])]
  have b1 : ∀ u, (satF (iqk k 4) 31 16 u).tb = u.tb := fun _ => rfl
  have b2 : (setB (iqk k 4) 0 true s).tb = s.tb := rfl
  have b3 : ∀ a b u p, ownerOf (wr (iqk k 0xC) a (wr (iqk k 8) b (satF (iqk k 4) 31 16 (setB (iqk k 4) 0 true u)))) 0xA p = ownerOf u 0xA p := fun _ _ _ _ => own_congr (by simp only [satF, setF, setB, wr])
  rw [b1, b2, this _ rfl, b3]
/-! ## Tiles -/

theorem tileCal_ok {t : Nat} {s : State} (h : live s = true) (g0 : rb s (tk t 0) 16 = true) (g1 : rb s (tk t 4) 0 = true) :
   tileCalibrated t s = setStep { setB (tk t 4) 1 true s with bootTiles := s.bootTiles.filter (· != t) } := by
  unfold tileCalibrated; rw [h]; dsimp only
  have e : pllCal t s = setB (tk t 4) 1 true s := by unfold pllCal; rw [g0, g1]; rfl
  rw [e]
  have e2 : rb (setB (tk t 4) 1 true s) (tk t 4) 1 = true := by unfold rb setB; rw [rd_wr_same]; exact bit_setBit_same _ _ _ (by omega)
  rw [if_neg (by simp), if_pos e2]; rfl
theorem rb_live {s : State} (h : live s = true) : s.rstn = false := by unfold live at h; simp at h; exact h.2
theorem speed_rd {t v a : Nat} {u : State} : rf (setF (tk t 0x10) 31 16 v (setF (tk t 0x10) 15 0 a u)) (tk t 0x14) 15 0 = rf u (tk t 0x14) 15 0 := by
  unfold rf; rw [rd_setF_ne _ _ _ _ (by simp [tk]), rd_setF_ne _ _ _ _ (by simp [tk])]
theorem speed_hi {t a : Nat} {u : State} : rf (setF (tk t 0x10) 15 0 a u) (tk t 0x10) 31 16 = rf u (tk t 0x10) 31 16 := by
  unfold rf; rw [setF, rd_wr_same]; exact bit_fld_setFld _ _ _ _ _ _ (by omega) (by omega) (by omega)
theorem speedRatio_kept {t r : Nat} {s : State} (h : live s = true) (g0 : s.step1 = true) :
  speedRatio t r s = (if r < rf s (tk t 0x14) 15 0 then causeOn (tileSrc t 0) none (0x10 + t) 0 0 else causeOff (tileSrc t 0) none)
    (setF (tk t 0x10) 31 16 (min (rf s (tk t 0x10) 31 16) r) (setF (tk t 0x10) 15 0 r
      { modTile t (fun x => { x with measured := true }) s with slowFlag := if r < 0x1000 then BitVec.allOnes 32 else s.slowFlag })) := by
  unfold speedRatio; rw [g0, rb_live h, if_neg (by simp)]; dsimp only
  by_cases hr : r < 4096
  · rw [if_pos hr, if_pos hr, speed_rd]
    by_cases hw : r < rf s (tk t 0x14) 15 0
    · rw [if_pos hw]; exact if_pos hw
    · rw [if_neg hw]; exact if_neg hw
  · rw [if_neg hr, if_neg hr, speed_rd]
    by_cases hw : r < rf s (tk t 0x14) 15 0
    · rw [if_pos hw]; exact if_pos hw
    · rw [if_neg hw]; exact if_neg hw
section Transfer
variable {c : Nat} {host : HostBytes} {d : List Word} {s : State}
/-! ## Transfers -/

theorem setBit0_1 (w : Word) (n : Nat) (h : 0 < n) : bit (setBit w 0 false) n = bit w n := by
  unfold bit setBit setFld fldMask
  rw [BitVec.getLsbD_or, BitVec.getLsbD_and, BitVec.getLsbD_not]
  by_cases hn : n < 32
  · interval_cases n <;> simp
  · simp [BitVec.getLsbD_of_ge _ _ (by omega : 32 ≤ n)]
theorem offMover_dma : (offMover c s).dma = s.dma := rfl
theorem pauseDrained_none (g0 : dmaState s c = 3) (g1 : (dch s c).desc = none) (g2 : dmaPaused s c = true) :
    pauseDrained c host s = schedule (setDmaState c 4 (offMover c s)) := by
  have e : (dch (offMover c s) c).desc = none := g1
  have f : descDone c (offMover c s) = offMover c s := by unfold descDone; dsimp only; rw [e]
  unfold pauseDrained; rw [g0, if_neg (by simp), g1]; dsimp only
  rw [f]
  have : dmaPaused (offMover c s) c = true := g2
  rw [this]; rfl
end Transfer
theorem frameSend_recs {k kind : Nat} {ws : List Word} {r : List (Nat × List Word)} {s : State} (g0 : strmOn s k = true) (g1 : rb s (stk k 4) 0 = true) (g2 : ledGet s 6 k 2 ≠ 0) (g4 : (strm s k).spent < 65535) (g3 : (strm s k).recs = (kind, ws) :: r) :
    frameSend k s = frameOut k kind true true (takeRecs kind 128 ((kind, ws) :: r)) (modStrm k (fun x => { x with recs := x.recs.drop (takeCount kind 128 ((kind, ws) :: r)) }) s) := by
  unfold frameSend; rw [g0, g1, if_neg (by simp [g2, g4])]; rw [g3]
theorem frameSend_not {k : Nat} {s : State} (g0 : (strmOn s k && rb s (stk k 4) 0 && decide (ledGet s 6 k 2 ≠ 0) && decide ((strm s k).spent < 65535)) = false) : frameSend k s = s := by
  unfold frameSend; refine if_pos ?_
  cases h1 : strmOn s k <;> cases h2 : rb s (stk k 4) 0 <;> simp_all
  omega
/-! ## Faults and boot -/

theorem wireBroken_new {i m : Nat} {s : State} (g0 : (srcUsed i && memValid i m) = true) (g1 : nget 0 s.flt.bw i &&& memBit (memOf i m) = 0) (g2 : s.por = false) :
    wireBroken i m s = report (wireReport i (memOf i m) false true s) (modFlt (fun f => { f with bw := addBit f.bw i (memBit (memOf i m)) }) s) := by
  rw [Bool.and_eq_true] at g0
  unfold wireBroken; rw [g0.1, g0.2, if_neg (by simp)]; dsimp only; rw [if_neg (by rw [g1]; simp), g2]; rfl
theorem wireBroken_por {i m : Nat} {s : State} (g0 : (srcUsed i && memValid i m) = true) (g1 : nget 0 s.flt.bw i &&& memBit (memOf i m) = 0) (g2 : s.por = true) :
    wireBroken i m s = modFlt (fun f => { f with bw := addBit f.bw i (memBit (memOf i m)) }) s := by
  rw [Bool.and_eq_true] at g0
  unfold wireBroken; rw [g0.1, g0.2, if_neg (by simp)]; dsimp only; rw [if_neg (by rw [g1]; simp), g2]; rfl
theorem wireBroken_old {i m : Nat} {s : State} (g0 : (srcUsed i && memValid i m) = true) (g1 : nget 0 s.flt.bw i &&& memBit (memOf i m) ≠ 0) :
    wireBroken i m s = s := by
  rw [Bool.and_eq_true] at g0
  unfold wireBroken; rw [g0.1, g0.2, if_neg (by simp)]; dsimp only; rw [if_pos (by simpa using g1)]
theorem ecc_tile {t m u : Nat} {l : Bool} {s : State} (h : t < 8) (g0 : m < 12) :
    eccRaise (0x100 + 16 * t + 0xD) m u l s = raiseHw (0x100 + 16 * t + (if l then 0xE else 0xD)) (some m) (0x10 + t) (srcOwner s (0x100 + 16 * t + (if l then 0xE else 0xD)) m) s := by
  unfold eccRaise
  rw [if_neg (by omega), if_pos ⟨by omega, by omega, by omega, g0⟩]
  have : (256 + 16 * t + 13) / 16 * 16 = 256 + 16 * t := by omega
  dsimp only; rw [this]
  have e : (256 + 16 * t + (if l = true then 14 else 13) - 256) / 16 = t := by split <;> omega
  rw [e]
/-- Rank 1 and 2 act on registers, the port and the causes only (R321). -/
theorem ffSettle_eq (n : Nat) (s : State) : ffSettle n s = { s with regs := (ffSettle n s).regs, ffs := (ffSettle n s).ffs, flt := (ffSettle n s).flt } := by
  have key : ∀ (b : Prop) [Decidable b] (u : State), u = { s with regs := u.regs, ffs := u.ffs, flt := u.flt } →
      (if b then ffFlag n 3 8 false u else u) = { s with regs := (if b then ffFlag n 3 8 false u else u).regs, ffs := (if b then ffFlag n 3 8 false u else u).ffs, flt := (if b then ffFlag n 3 8 false u else u).flt } := by
    intro b _ u hu; split
    · rw [hu]; rfl
    · exact hu
  unfold ffSettle; split
  · exact key _ _ rfl
  · rfl
theorem settleAll_eq (l : List Nat) (s : State) :
    forEach l ffSettle s = { s with regs := (forEach l ffSettle s).regs, ffs := (forEach l ffSettle s).ffs, flt := (forEach l ffSettle s).flt } := by
  induction l generalizing s with
  | nil => rfl
  | cons n l ih =>
    have e : forEach (n :: l) ffSettle s = forEach l ffSettle (ffSettle n s) := rfl
    rw [e, ih]
    generalize forEach l ffSettle (ffSettle n s) = t
    rw [ffSettle_eq]
theorem por_settled (s : State) : ({ volatileLost s with por := true } : State).Settled := by
  have ho : ({ volatileLost s with por := true } : State).ops = [] := rfl
  have hl : ({ volatileLost s with por := true } : State).leases = [] := rfl
  refine ⟨rfl, fun o h => by rw [ho] at h; simp at h, fun x h => by rw [hl] at h; simp at h, fun k hk => ?_, fun h => nomatch h⟩
  show (vget (n := 7) (s.links.map (fun (l : Link) => { Link.reset with perst := l.perst }) : Vector Link 8) k |> fun (l : Link) => l.drain) = false
  simp [vget, hk, Link.reset]
theorem selftest_none {failed transient : List (Fin 512 × BitVec 5 × BitVec 8)} {s : State} (h0 : live s = true) (g0 : s.step1 = true) (g1 : s.step2 = false) (g2 : failed = []) (g4 : transient = []) (g3 : s.flt.bw = []) :
    selftested failed transient s = setStep { s with step2 := true } := by
  subst g2 g4
  unfold selftested; rw [if_neg (by simp [h0, g0, g1])]; dsimp only
  have e : forEach ([] : List (Fin 512 × BitVec 5 × BitVec 8)) (fun f u => eccRaise f.1.val f.2.1.toNat f.2.2.toNat true u) s = s := rfl
  have e2 : forEach ([] : List (Fin 512 × BitVec 5 × BitVec 8)) (fun f u => eccRaise f.1.val f.2.1.toNat f.2.2.toNat false u) s = s := rfl
  rw [e, e2]
  have e3 : forEach s.flt.bw (fun e s => forEach ((List.range 32).filter fun m => e.2 / 2 ^ m % 2 == 1)
    (fun m s => report (wireReport e.1 (memOf e.1 m) false true s) s) s) s = s := by rw [g3]; rfl
  rw [e3, if_pos (by rw [g3]; rfl)]
theorem selftest_failed {failed transient : List (Fin 512 × BitVec 5 × BitVec 8)} {s : State} (h0 : live s = true) (g0 : s.step1 = true) (g1 : s.step2 = false) (g2 : failed ≠ []) (g3 : s.flt.bw = []) :
    selftested failed transient s = setStep { setB rstatK 8 true (forEach transient (fun f u => eccRaise f.1.val f.2.1.toNat f.2.2.toNat false u)
      (forEach failed (fun f u => eccRaise f.1.val f.2.1.toNat f.2.2.toNat true u) s)) with step2 := true } := by
  have e : ∀ b : Bool, ∀ l : List (Fin 512 × BitVec 5 × BitVec 8), ∀ u : State, u.flt.bw = [] → (forEach l (fun f u => eccRaise f.1.val f.2.1.toNat f.2.2.toNat b u) u).flt.bw = [] := by
    intro b l; induction l with
    | nil => intro u hu; exact hu
    | cons a l ih =>
      intro u hu
      refine ih _ ?_
      unfold eccRaise; dsimp only; split
      · exact hu
      · split
        · exact hu
        · exact hu
  unfold selftested; rw [if_neg (by simp [h0, g0, g1])]; dsimp only
  rw [e false _ _ (e true _ _ g3)]
  have f : failed.isEmpty = false := by cases failed <;> simp_all
  rw [f, if_neg (by simp)]; rfl
theorem bootReady_not {s : State} (g0 : (s.step1 && s.step2 && s.bootFabs.isEmpty && s.bootTiles.isEmpty) = false) : bootReady s = s := by
  unfold bootReady; refine if_neg ?_
  cases h1 : s.step1 <;> cases h2 : s.step2 <;> cases h3 : s.bootFabs.isEmpty <;> cases h4 : s.bootTiles.isEmpty <;> simp_all
section Whole
variable {s t : State}
/-! ## The end of a step keeps a state sound -/

theorem chanOf_regs {a b : State} {h : Nat} (hr : ∀ k : RKey, k.blk ≠ .qcb → k.blk ≠ .bport → rd a k = rd b k) (ha : a.act = b.act) : chanOf a h = chanOf b h := by
  have q := hr (hmapK h) (by simp [hmapK]) (by simp [hmapK])
  unfold chanOf rb rf; rw [q]
theorem leaseUser_congr {a b : State} {p l : Nat} (ho : a.owner = b.owner) (ha : a.act = b.act) (hr : ∀ k : RKey, k.blk ≠ .qcb → k.blk ≠ .bport → rd a k = rd b k) :
    leaseUser a p l = leaseUser b p l := by
  have h1 : ∀ c i, ownerOf a c i = ownerOf b c i := fun _ _ => own_congr ho
  have h2 : ∀ h, chanOf a h = chanOf b h := fun _ => chanOf_regs hr ha
  have q1 := hr (pairK (l - 32) 0) (by simp [pairK]) (by simp [pairK])
  have q2 := hr ⟨.part, 0, 0x100 + 4 * (l - 8)⟩ (by simp) (by simp)
  have q3 := hr ⟨.part, 0, 0x120⟩ (by simp) (by simp)
  unfold leaseUser inUse servedBy pairEn pairL pairR rb rf
  simp only [h1, h2, q1, q2, q3, if_true, if_neg (by omega : ¬ (15 : Nat) = 6)]
theorem drained_keeps (k : Nat) (X : State) : (modLink k (fun l => { l with drain := false }) (setB (bpk k 0) 3 true X)).rep = X.rep ∧
    (modLink k (fun l => { l with drain := false }) (setB (bpk k 0) 3 true X)).leases = X.leases ∧ (modLink k (fun l => { l with drain := false }) (setB (bpk k 0) 3 true X)).owner = X.owner ∧
    (modLink k (fun l => { l with drain := false }) (setB (bpk k 0) 3 true X)).act = X.act ∧
    ∀ x : RKey, x.blk ≠ .bport → rd (modLink k (fun l => { l with drain := false }) (setB (bpk k 0) 3 true X)) x = rd X x :=
  ⟨rfl, rfl, rfl, rfl, fun x hb =>
    (rd_congr (s := modLink k (fun l => { l with drain := false }) (setB (bpk k 0) 3 true X)) (t := setB (bpk k 0) 3 true X) rfl x).trans (rd_setB_ne _ _ _ (by rintro rfl; exact hb rfl))⟩
theorem drainLink_or (k : Nat) (s : State) : drainLink k s = s ∨ drainLink k s = modLink k (fun l => { l with drain := false })
    (setB (bpk k 0) 3 true (forEach ((List.range 8).map (8 * k + ·)) (fun q s => setB (qk q 4) 0 false s) s)) := by
  unfold drainLink; dsimp only; split
  · exact Or.inr rfl
  · exact Or.inl rfl
theorem drainLink_keeps (k : Nat) (s : State) : (drainLink k s).rep = s.rep ∧ (drainLink k s).leases = s.leases ∧ (drainLink k s).owner = s.owner ∧ (drainLink k s).act = s.act ∧
    ∀ x : RKey, x.blk ≠ .qcb → x.blk ≠ .bport → rd (drainLink k s) x = rd s x := by
  have e : ∀ (l : List Nat) (u : State), (forEach l (fun q s => setB (qk q 4) 0 false s) u).rep = u.rep ∧ (forEach l (fun q s => setB (qk q 4) 0 false s) u).leases = u.leases ∧
      (forEach l (fun q s => setB (qk q 4) 0 false s) u).owner = u.owner ∧ (forEach l (fun q s => setB (qk q 4) 0 false s) u).act = u.act ∧
      ∀ x : RKey, x.blk ≠ .qcb → rd (forEach l (fun q s => setB (qk q 4) 0 false s) u) x = rd u x := by
    intro l; induction l with
    | nil => intro u; exact ⟨rfl, rfl, rfl, rfl, fun _ _ => rfl⟩
    | cons q l ih =>
      intro u
      obtain ⟨h1, h2, h3, h4, h5⟩ := ih (setB (qk q 4) 0 false u)
      rw [show forEach (q :: l) (fun q s => setB (qk q 4) 0 false s) u = forEach l (fun q s => setB (qk q 4) 0 false s) (setB (qk q 4) 0 false u) from rfl]
      refine ⟨h1, h2, h3, h4, fun x hx => (h5 x hx).trans (rd_setB_ne _ _ _ (by rintro rfl; exact hx rfl))⟩
  rcases drainLink_or k s with h | h
  · rw [h]; exact ⟨rfl, rfl, rfl, rfl, fun _ _ _ => rfl⟩
  · rw [h]
    obtain ⟨h1, h2, h3, h4, h5⟩ := e ((List.range 8).map (8 * k + ·)) s
    obtain ⟨g1, g2, g3, g4, g5⟩ := drained_keeps k (forEach ((List.range 8).map (8 * k + ·)) (fun q s => setB (qk q 4) 0 false s) s)
    exact ⟨g1.trans h1, g2.trans h2, g3.trans h3, g4.trans h4, fun x hx hb => (g5 x hb).trans (h5 x hx)⟩
theorem sound_drain {k : Nat} (h : s.Sound) : (drainLink k s).Sound := by
  obtain ⟨h1, h2, h3, h4, h5⟩ := drainLink_keeps k s
  refine ⟨h1.trans h.1, fun x hx => ?_⟩
  rw [h2] at hx
  rw [leaseUser_congr h3 h4 h5]
  exact h.2 x hx
theorem haltNow_sound (h : s.Sound) : (haltNow s).Sound := by
  unfold haltNow; split
  · exact ⟨h.1, fun x hx => (leaseUser_congr (a := { s with halted := true, haltReq := false }) (b := s) rfl rfl (fun _ _ _ => rfl)).trans (h.2 x hx)⟩
  · exact h
theorem finish_sound (s : State) : (finish s).Sound := by
  have e : ∀ (l : List Nat) (u : State), u.Sound → (forEach l drainLink u).Sound := by
    intro l; induction l with
    | nil => intro u h; exact h
    | cons q l ih => intro u h; exact ih _ (sound_drain h)
  apply haltNow_sound
  apply e
  refine ⟨settle_rep s, fun x hx => ?_⟩
  have hm := (List.mem_filter.mp hx).2
  exact (leaseUser_congr (a := endStep s) (b := settle s) rfl rfl (fun _ _ _ => rfl)).trans hm
theorem emit_sound {o : Out} (h : s.Sound) : (emit o s).Sound :=
  ⟨h.1, fun x hx => (leaseUser_congr (a := emit o s) (b := s) rfl rfl (fun _ _ _ => rfl)).trans (h.2 x hx)⟩
theorem ite_sound {c : Prop} [Decidable c] {a b : State} (ha : a.Sound) (hb : b.Sound) : (if c then a else b).Sound := by
  split <;> assumption
theorem event_sound {f : State → State} (h : s.Sound) : (event f s).Sound := ite_sound (finish_sound _) h
theorem hostRow_sound {opc : Nat} {sel lenOk body after} {p : Pkt} (h : s.Sound) : (hostRow opc sel lenOk body after p s).Sound := ite_sound (finish_sound _) h
theorem busWrite_sound {q k : Nat} {v : Word} {m : BitVec 4} (h : s.Sound) : (busWrite q k v m s).Sound := ite_sound h (finish_sound _)
theorem busRead_sound {q k : Nat} (h : s.Sound) : (busRead q k s).Sound := ite_sound h (finish_sound _)
theorem targetWrite_sound {w : WrTarget} {v : Word} {m : BitVec 4} (h : s.Sound) : (targetWrite w v m s).Sound := by
  cases w with
  | ici q a => exact busWrite_sound h
  | bar0 k off => exact ite_sound (finish_sound _) h
  | cfg k r => exact ite_sound (finish_sound _) h
theorem tripEdge_sound {n : Nat} {b : Bool} (h : s.Sound) : (tripEdge n b s).Sound := by
  unfold tripEdge; split
  · exact h
  · dsimp only; split
    · exact finish_sound _
    · exact ⟨h.1, fun x hx => (leaseUser_congr (a := modTile n (fun x => { x with trip := b }) s) (b := s) rfl rfl (fun _ _ _ => rfl)).trans (h.2 x hx)⟩
theorem rowRead_sound {q a : Nat} (h : s.Sound) : (latchRowRead q a s).Sound ∧ (peakRowRead q a s).Sound := by
  constructor
  · unfold latchRowRead; split
    · exact ite_sound (busRead_sound h) h
    · exact h
  · unfold peakRowRead; split
    · exact ite_sound (busRead_sound h) h
    · exact h
theorem spi_sound {w : Bool} {a n : Nat} {bs : List Byte} (h : s.Sound) : (spiRow w a n bs s).Sound := by
  unfold spiRow; split
  · exact h
  · split
    · exact finish_sound _
    · exact emit_sound h
theorem plainRow_sound {opc n : Nat} {body} {p : Pkt} (h : s.Sound) : (plainRow opc n body p s).Sound := hostRow_sound h
theorem armRow_sound {opc : Nat} {g : Bool} {body} {p : Pkt} (h : s.Sound) : (armRow opc g body p s).Sound := hostRow_sound h
theorem reservedRow_sound {opc : Nat} {p : Pkt} (h : s.Sound) : (reservedRow opc p s).Sound := ite_sound (finish_sound _) h
theorem unboundRow_sound {opc : Nat} {p : Pkt} (h : s.Sound) : (unboundRow opc p s).Sound := ite_sound (finish_sound _) h
theorem incompleteRow_sound {q : Nat} (h : s.Sound) : (incompleteRow q s).Sound := ite_sound (finish_sound _) h
theorem outsideOn_sound {a b : Nat} (h : s.Sound) : (outsideOn a b s).Sound := ite_sound h (finish_sound _)
theorem outsideOff_sound {a : Nat} : (outsideOff a s).Sound := finish_sound _
theorem doorbellRow_sound {q : Nat} {v : Word} {be : BitVec 4} (h : s.Sound) : (doorbellRow q v be s).Sound := ite_sound (finish_sound _) h
theorem qctlRow_sound {q : Nat} {v : Word} {be : BitVec 4} (h : s.Sound) : (qctlRow q v be s).Sound := ite_sound (finish_sound _) h
theorem wholeWrite_sound {q : Nat} {k : RKey} {v : Word} (h : s.Sound) : (wholeWrite q k v s).Sound := busWrite_sound h
end Whole
section Dead
variable {s : State}
/-! ## A device that is not alive -/

theorem serving_live (h : live s = false) : serving s = false := by
  unfold live at h; unfold serving
  cases hp : s.pfail <;> cases ho : s.por <;> cases hr : s.rstn <;> simp_all
theorem turn_dead (h : live s = false) : turn s = none := by unfold turn; rw [serving_live h]; rfl
theorem offered_dead {opc : Nat} {p : Pkt} (h : live s = false) : offered opc p s = false := by unfold offered; rw [turn_dead h]; rfl
theorem hostOn_dead {k : Nat} (h : live s = false) : hostOn s k = false := by unfold hostOn; rw [h]; rfl
theorem hostRow_dead {opc : Nat} {sel lenOk body after} {p : Pkt} (h : live s = false) : hostRow opc sel lenOk body after p s = s := hostRow_skip (offered_dead h)
theorem plainRow_dead {opc n : Nat} {body} {p : Pkt} (h : live s = false) : plainRow opc n body p s = s := hostRow_dead h
theorem armRow_dead {opc : Nat} {g : Bool} {body} {p : Pkt} (h : live s = false) : armRow opc g body p s = s := hostRow_dead h
theorem reservedRow_dead {opc : Nat} {p : Pkt} (h : live s = false) : reservedRow opc p s = s := by unfold reservedRow; rw [offered_dead h]; simp
theorem unboundRow_dead {opc : Nat} {p : Pkt} (h : live s = false) : unboundRow opc p s = s := by unfold unboundRow; rw [offered_dead h]; simp
theorem incompleteRow_dead {q : Nat} (h : live s = false) : incompleteRow q s = s := by unfold incompleteRow; rw [turn_dead h]; rfl
theorem doorbellRow_dead {q : Nat} {v : Word} {be : BitVec 4} (h : live s = false) : doorbellRow q v be s = s := by
  unfold doorbellRow; rw [h, hostOn_dead h]; simp
theorem qctlRow_dead {q : Nat} {v : Word} {be : BitVec 4} (h : live s = false) : qctlRow q v be s = s := by unfold qctlRow; rw [hostOn_dead h]; rfl
theorem busWrite_dead {q k : Nat} {v : Word} {m : BitVec 4} (h : live s = false) : busWrite q k v m s = s := by unfold busWrite; rw [serving_live h]; rfl
theorem wholeWrite_dead {q : Nat} {k : RKey} {v : Word} (h : live s = false) : wholeWrite q k v s = s := busWrite_dead h
theorem busRead_dead {q k : Nat} (h : live s = false) : busRead q k s = s := by unfold busRead; rw [serving_live h]; rfl
theorem targetWrite_dead {w : WrTarget} {v : Word} {m : BitVec 4} (h : live s = false) : targetWrite w v m s = s := by
  cases w with
  | ici q a => exact busWrite_dead h
  | bar0 k off => unfold targetWrite; dsimp only; rw [hostOn_dead h]; rfl
  | cfg k r => unfold targetWrite; dsimp only; rw [h]; rfl
theorem latchRow_dead {q a : Nat} (h : live s = false) : latchRowRead q a s = s := by unfold latchRowRead; rw [busRead_dead h]; split <;> simp
theorem peakRow_dead {q a : Nat} (h : live s = false) : peakRowRead q a s = s := by unfold peakRowRead; rw [busRead_dead h]; split <;> simp
theorem spiRow_dead {w : Bool} {a n : Nat} {bs : List Byte} (h : live s = false) : spiRow w a n bs s = s := by unfold spiRow; rw [h]; rfl
theorem ite_same {c : Prop} [Decidable c] {a b : State} (ha : a = s) (hb : b = s) : (if c then a else b) = s := by split <;> assumption
end Dead
section Frames
variable {s : State}
/-! ## Replies and the ledger -/

/-- A message of a port is sent, pending or dropped (R63). -/
theorem signal_eq (k v : Nat) (s : State) : signal k v s = { s with regs := (signal k v s).regs, out := (signal k v s).out } := by
  unfold signal; dsimp only; split
  · rfl
  · split <;> rfl
theorem rd_signal (k v : Nat) (s : State) {x : RKey} (h : x ≠ bpk k 0x9800) : rd (signal k v s) x = rd s x := by
  unfold signal; dsimp only; split
  · rfl
  · split
    · exact rd_setB_ne _ _ _ h
    · rfl
/-- A reply after its words are placed: the message that the queue asks for. -/
theorem putReply_cases (q st tag : Nat) (c n : Bool) (pay : List Word) (s : State) :
    putReply q st tag c n pay s = incR (qk q 0x30) s ∨ ∃ (a : BitVec 65) (m : List (Nat × Word)) (o : List Out) (h : Nat),
      putReply q st tag c n pay s = setF (qk q 0x1C) 9 0 h { s with aftRst := a, rpl := m, out := o } ∨
      ∃ v, putReply q st tag c n pay s = signal (q / 8) v (setF (qk q 0x1C) 9 0 h { s with aftRst := a, rpl := m, out := o }) := by
  unfold putReply; split
  · refine Or.inr ?_
    dsimp only
    split <;> split
    · exact ⟨_, _, _, _, Or.inr ⟨_, rfl⟩⟩
    · exact ⟨_, _, _, _, Or.inl rfl⟩
    · exact ⟨_, s.rpl, _, _, Or.inr ⟨_, rfl⟩⟩
    · exact ⟨_, s.rpl, _, _, Or.inl rfl⟩
  · exact Or.inl rfl
theorem putReply_eq (q st tag : Nat) (c n : Bool) (pay : List Word) (s : State) :
    putReply q st tag c n pay s = { s with regs := (putReply q st tag c n pay s).regs, aftRst := (putReply q st tag c n pay s).aftRst, rpl := (putReply q st tag c n pay s).rpl, out := (putReply q st tag c n pay s).out } := by
  obtain h | ⟨a, m, o, x, h | ⟨v, h⟩⟩ := putReply_cases q st tag c n pay s
  · rw [h]; rfl
  · rw [h]; rfl
  · rw [h, signal_eq]; rfl
theorem rd_putReply (q st tag : Nat) (c n : Bool) (pay : List Word) (s : State) {k : RKey} (h1 : k ≠ qk q 0x1C) (h2 : k ≠ qk q 0x30) (h3 : k ≠ bpk (q / 8) 0x9800) :
    rd (putReply q st tag c n pay s) k = rd s k := by
  obtain h | ⟨a, m, o, x, h | ⟨v, h⟩⟩ := putReply_cases q st tag c n pay s
  · rw [h]; exact rd_wr_ne _ _ h2
  · rw [h, rd_setF_ne _ _ _ _ h1]; exact rd_congr rfl k
  · rw [h, rd_signal _ _ _ h3, rd_setF_ne _ _ _ _ h1]; exact rd_congr rfl k
theorem firstReply_eq (q st tag : Nat) (n : Bool) (pay : List Word) (s : State) :
    firstReply q st tag n pay s = { putReply q st tag false n pay s with led := (firstReply q st tag n pay s).led } := by
  unfold firstReply; rw [ledSub_eq, ledAdd_eq]
theorem ledGet_eq_of {s t : State} {c i n : Nat} (h : t.led = s.led) : ledGet t c i n = ledGet s c i n := by unfold ledGet; rw [h]
theorem ledGet_ledAdd_ne (s : State) {c i t n c' i' t' : Nat} (h : c' * 65536 + i' * 16 + t' ≠ c * 65536 + i * 16 + t) : ledGet (ledAdd c i t n s) c' i' t' = ledGet s c' i' t' := by
  unfold ledAdd; split
  · rfl
  · unfold ledGet; exact nget_nput_ne _ _ _ h
theorem ledGet_ledSub_ne (s : State) {c i t n c' i' t' : Nat} (h : c' * 65536 + i' * 16 + t' ≠ c * 65536 + i * 16 + t) : ledGet (ledSub c i t n s) c' i' t' = ledGet s c' i' t' := by
  unfold ledSub; split
  · rfl
  · unfold ledGet; exact nget_nput_ne _ _ _ h
/-! ## Bytes and outputs -/

theorem bytesWord_wordBytes (w : Word) : bytesWord (wordBytes w) = w := by
  apply BitVec.eq_of_toNat_eq
  have := w.isLt
  simp [bytesWord, wordBytes, BitVec.extractLsb'_toNat, Nat.shiftRight_eq_div_pow]
  omega
end Frames
section Outputs
variable {c : PathCfg} {vs raw : List Mk} {i j : Nat} {o u : OutW}
theorem sat16_range (x : Int) : -32768 ≤ sat16 x ∧ sat16 x ≤ 32767 := by unfold sat16 clampInt; omega
theorem fineLine_get (h : (fineLine c vs raw)[i]? = some o) : ∃ x, raw[i]? = some x ∧
    o = ⟨sat16 x.1, x.2 || limited x, decide (i < settleCount c vs.length) && !c.edge, decide (i < settleCount c vs.length) && c.edge⟩ := by
  unfold fineLine at h
  rw [List.getElem?_mapIdx] at h
  cases hx : raw[i]? with
  | none => rw [hx] at h; simp at h
  | some x => rw [hx] at h; exact ⟨x, rfl, (Option.some.inj h).symm⟩
theorem fastLine_get (h : (fastLine c raw)[i]? = some o) : ∃ x, raw[i]? = some x ∧
    o = ⟨sat16 x.1, x.2 || limited x, decide (t0Of c + i * c.d < c.d - 1) || (decide (t0Of c + i * c.d < c.delta + c.d - 1) && !c.edge),
      !decide (t0Of c + i * c.d < c.d - 1) && decide (t0Of c + i * c.d < c.delta + c.d - 1) && c.edge⟩ := by
  unfold fastLine at h
  rw [List.getElem?_mapIdx] at h
  cases hx : raw[i]? with
  | none => rw [hx] at h; simp at h
  | some x => rw [hx] at h; exact ⟨x, rfl, (Option.some.inj h).symm⟩
end Outputs

/-! ## Frames of a bit-stream (R367, R370) -/

theorem frameIn_ok {x : Session} {buf : List Byte} {c : Word} {s : State} (h : (crc32 buf == c) = true) :
    frameIn x buf c s = (0, putSession { x with buf := [], chunk := 0, frame := x.frame + 1, data := x.data ++ buf, failed := false, rem := 1000000000 }
      (if x.data.isEmpty then forEach x.regions (fun r t => setRegion r 1 (regionClear r t)) s else s)) := by
  unfold frameIn; rw [if_pos h]
theorem bootLoad_barred {hold : Bool} {r : Nat} {f : FlashStream} {s : State}
    (g : (dW f.hdr 0 != 0x46514254 || dW f.hdr 1 != 0x01607196 || regionsOf (dW f.hdr 2) != [r] || (dW f.hdr 3).toNat != 164) = false)
    (b : ((s.fabAuth && !bit (dW f.hdr 2) 8) || (bit (dW f.hdr 2) 8 && !keySet s)) = true) :
    bootLoad hold [r] f s = report { hwReport (0x0E8 + r) none (0x38 + r) (regOwner s r) with sev := some 1 }
      (setF (fbk r 0) 15 8 0x0F (regionClear r { s with rep := s.rep.filter fun x => x.src / 8 != 0x1D })) := by
  have e : (dW f.hdr 0 != 0x46514254 || dW f.hdr 1 != 0x01607196 || [r].isEmpty || regionsOf (dW f.hdr 2) != [r] ||
      (dW f.hdr 3).toNat != 164 * [r].length) = false := by
    simpa only [List.isEmpty_cons, List.length_singleton, Nat.mul_one, Bool.or_false] using g
  have c : bootCheck hold [r] f s = (0x0F, s) := by
    unfold bootCheck; dsimp only; rw [if_neg (ne_true_of_eq_false e), if_pos b]
  unfold bootLoad; dsimp only; rw [c]; rfl

end Sys2Proof.Machine
end

