-- ==== Sys2Proof/Laws/Balance.lean ====
section
/-! SUPPORT. The conservation ledger (R105–R112): a unit that enters its class and one right-hand term, and a unit that
passes from one right-hand term to another, keep every identity. -/

namespace Sys2Proof.Machine

/-- Two accounts are different keys of the ledger. -/
theorem ledK_ne {c i t c' i' t' : Nat} (ht : t < 16) (ht' : t' < 16) (hi : i < 4096) (hi' : i' < 4096)
    (h : c ≠ c' ∨ i ≠ i' ∨ t ≠ t') : c * 65536 + i * 16 + t ≠ c' * 65536 + i' * 16 + t' := by omega

/-- The ledger of a state after one term changes. -/
theorem ledGet_ledAdd (s : State) {c i t n c' i' t' : Nat} (hs : s.ledStop = false) (ht : t < 16) (ht' : t' < 16) (hi : i < 4096) (hi' : i' < 4096) :
    ledGet (ledAdd c i t n s) c' i' t' = if c' = c ∧ i' = i ∧ t' = t then (ledGet s c i t + n) % 2 ^ 64 else ledGet s c' i' t' := by
  split
  · rename_i h; obtain ⟨rfl, rfl, rfl⟩ := h; exact ledGet_ledAdd_same _ _ _ _ _ hs
  · exact ledGet_ledAdd_ne _ (ledK_ne ht' ht hi' hi (by omega))
theorem ledGet_ledSub (s : State) {c i t n c' i' t' : Nat} (hs : s.ledStop = false) (ht : t < 16) (ht' : t' < 16) (hi : i < 4096) (hi' : i' < 4096) :
    ledGet (ledSub c i t n s) c' i' t' = if c' = c ∧ i' = i ∧ t' = t then ledGet s c i t - n else ledGet s c' i' t' := by
  split
  · rename_i h; obtain ⟨rfl, rfl, rfl⟩ := h
    simp [ledGet, ledSub, hs, nget_nput_same]
  · exact ledGet_ledSub_ne _ (ledK_ne ht' ht hi' hi (by omega))
theorem ledAdd_stopped {s : State} (h : s.ledStop = true) (c i t n : Nat) : ledAdd c i t n s = s := if_pos h
theorem ledSub_stopped {s : State} (h : s.ledStop = true) (c i t n : Nat) : ledSub c i t n s = s := if_pos h
theorem ledAdd_stop (s : State) (c i t n : Nat) : (ledAdd c i t n s).ledStop = s.ledStop := by unfold ledAdd; split <;> rfl

/-- Only the ledger decides whether an account balances. -/
theorem balanced_congr {c i : Nat} {s t : State} (h : t.led = s.led) (hb : balanced c i s) : balanced c i t := by
  have e : ledGet t = ledGet s := by funext a b d; rw [ledGet, ledGet, h]
  unfold balanced at *
  rw [e]; exact hb

theorem balanced_same {c i : Nat} {s t : State} (h : ∀ k < 16, ledGet t c i k = ledGet s c i k) (hb : balanced c i s) : balanced c i t := by
  have e : (ledRight c).map (ledGet t c i) = (ledRight c).map (ledGet s c i) := by
    apply List.map_congr_left
    intro k hk
    exact h k (by revert hk; unfold ledRight; split <;> simp <;> omega)
  unfold balanced at *
  rw [h 0 (by decide), e]; exact hb

/-- `n` units enter a class with one right-hand term (R105). -/
theorem balanced_enter {c i t n c' i' : Nat} {s : State} (ht : t ∈ ledRight c) (hi : i < 4096) (hi' : i' < 4096) (hb : balanced c' i' s) :
    balanced c' i' (ledAdd c i t n (ledAdd c i 0 n s)) := by
  cases hs : s.ledStop
  · have hs' : (ledAdd c i 0 n s).ledStop = false := by rw [ledAdd_stop, hs]
    have h16 : t < 16 := by revert ht; unfold ledRight; split <;> simp <;> omega
    have h0 : t ≠ 0 := by revert ht; unfold ledRight; split <;> simp <;> omega
    have g : ∀ k < 16, ledGet (ledAdd c i t n (ledAdd c i 0 n s)) c' i' k =
        if c' = c ∧ i' = i ∧ k = t then (ledGet s c i t + n) % 2 ^ 64 else if c' = c ∧ i' = i ∧ k = 0 then (ledGet s c i 0 + n) % 2 ^ 64 else ledGet s c' i' k := by
      intro k hk
      rw [ledGet_ledAdd _ hs' h16 hk hi hi', ledGet_ledAdd _ hs (by decide) hk hi hi', ledGet_ledAdd _ hs (by decide) h16 hi hi, if_neg (show ¬ (c = c ∧ i = i ∧ t = 0) by omega)]
    unfold balanced at *
    by_cases he : c' = c ∧ i' = i
    · obtain ⟨rfl, rfl⟩ := he
      rw [g 0 (by decide), if_neg (by omega), if_pos (by simp)]
      clear h0 h16
      unfold ledRight at *
      split at ht <;> simp only [List.mem_cons, List.not_mem_nil, or_false] at ht <;>
        simp only [List.map_cons, List.map_nil, List.sum_cons, List.sum_nil] at hb ⊢ <;>
        rcases ht with rfl | rfl | rfl | rfl | rfl | rfl <;>
        simp +decide only [g, true_and, if_true, if_false] <;> omega
    · have : ∀ k < 16, ledGet (ledAdd c i t n (ledAdd c i 0 n s)) c' i' k = ledGet s c' i' k := by
        intro k hk
        rw [ledGet_ledAdd _ hs' h16 hk hi hi', if_neg (by omega), ledGet_ledAdd _ hs (by decide) hk hi hi', if_neg (by omega)]
      rw [this 0 (by decide)]
      have e : (ledRight c').map (ledGet (ledAdd c i t n (ledAdd c i 0 n s)) c' i') = (ledRight c').map (ledGet s c' i') := by
        apply List.map_congr_left
        intro k hk
        exact this k (by revert hk; unfold ledRight; split <;> simp <;> omega)
      rw [e]; exact hb
  · rw [ledAdd_stopped (by rw [ledAdd_stop, hs]), ledAdd_stopped hs]; exact hb

/-- `n` units pass from one right-hand term, which holds at least so many, to another (R105). -/
theorem balanced_move {c i t u n c' i' : Nat} {s : State} (ht : t ∈ ledRight c) (hu : u ∈ ledRight c) (htu : t ≠ u) (hi : i < 4096) (hi' : i' < 4096)
    (hn : n ≤ ledGet s c i u) (hb : balanced c' i' s) : balanced c' i' (ledSub c i u n (ledAdd c i t n s)) := by
  cases hs : s.ledStop
  · have hs' : (ledAdd c i t n s).ledStop = false := by rw [ledAdd_stop, hs]
    have h16 : t < 16 := by revert ht; unfold ledRight; split <;> simp <;> omega
    have hu16 : u < 16 := by revert hu; unfold ledRight; split <;> simp <;> omega
    have g : ∀ k < 16, ledGet (ledSub c i u n (ledAdd c i t n s)) c' i' k =
        if c' = c ∧ i' = i ∧ k = u then ledGet s c i u - n else if c' = c ∧ i' = i ∧ k = t then (ledGet s c i t + n) % 2 ^ 64 else ledGet s c' i' k := by
      intro k hk
      rw [ledGet_ledSub _ hs' hu16 hk hi hi', ledGet_ledAdd _ hs h16 hk hi hi', ledGet_ledAdd _ hs h16 hu16 hi hi, if_neg (show ¬ (c = c ∧ i = i ∧ u = t) by omega)]
    have h0 : ∀ k ∈ ledRight c, k ≠ 0 := by intro k; unfold ledRight; split <;> simp <;> omega
    unfold balanced at *
    rw [g 0 (by decide), if_neg (by have := h0 u hu; omega), if_neg (by have := h0 t ht; omega)]
    by_cases he : c' = c ∧ i' = i
    · obtain ⟨rfl, rfl⟩ := he
      clear h0 h16 hu16
      unfold ledRight at *
      split at ht <;> simp only [List.mem_cons, List.not_mem_nil, or_false] at ht hu <;>
        simp only [List.map_cons, List.map_nil, List.sum_cons, List.sum_nil] at hb ⊢ <;>
        rcases ht with rfl | rfl | rfl | rfl | rfl | rfl <;> rcases hu with rfl | rfl | rfl | rfl | rfl | rfl <;>
        first
          | exact absurd rfl htu
          | (simp +decide only [g, true_and, if_true, if_false]; omega)
    · have e : (ledRight c').map (ledGet (ledSub c i u n (ledAdd c i t n s)) c' i') = (ledRight c').map (ledGet s c' i') := by
        apply List.map_congr_left
        intro k hk
        rw [g k (by revert hk; unfold ledRight; split <;> simp <;> omega), if_neg (by omega), if_neg (by omega)]
      rw [e]; exact hb
  · rw [ledSub_stopped (by rw [ledAdd_stop, hs]), ledAdd_stopped hs]; exact hb

theorem putReply_led (q st tag : Nat) (c n : Bool) (pay : List Word) (s : State) : (putReply q st tag c n pay s).led = s.led := by rw [putReply_eq]
theorem putReply_ledStop (q st tag : Nat) (c n : Bool) (pay : List Word) (s : State) : (putReply q st tag c n pay s).ledStop = s.ledStop := by rw [putReply_eq]
/-- A command received is pending (R111). -/
theorem balanced_take {q len c i : Nat} {s : State} (hq : q < 65) (hi : i < 4096) (hb : balanced c i s) : balanced c i (take q len s) := by
  unfold take
  refine balanced_congr (s := ledAdd 7 q 4 1 (ledAdd 7 q 0 1 (incR (qk q 0x24) (setF (qk q 0x10) 9 0 ((rf s (qk q 0x10) 9 0 + 1 + len) % 1024) s)))) rfl ?_
  exact balanced_enter (by decide) (by omega) hi (balanced_congr rfl hb)
/-- A pending command is replied to (R111). -/
theorem balanced_firstReply {q st tag c i : Nat} {n : Bool} {pay : List Word} {s : State} (hq : q < 65) (hi : i < 4096) (hp : 1 ≤ ledGet s 7 q 4)
    (hb : balanced c i s) : balanced c i (firstReply q st tag n pay s) := by
  unfold firstReply
  exact balanced_move (by decide) (by decide) (by decide) (by omega) hi (by rw [ledGet_eq_of (putReply_led ..)]; exact hp) (balanced_congr (putReply_led ..) hb)
/-- A command taken and replied to (R111). -/
theorem balanced_replied {q len st tag c i : Nat} {n : Bool} {pay : List Word} {s : State} (hq : q < 65) (hi : i < 4096) (hp : ledGet s 7 q 4 < 2 ^ 64 - 1)
    (hb : balanced c i s) : balanced c i (firstReply q st tag n pay (take q len s)) := by
  cases hs : s.ledStop
  · refine balanced_firstReply hq hi ?_ (balanced_take hq hi hb)
    have e : ledGet (take q len s) 7 q 4 = (ledGet s 7 q 4 + 1) % 2 ^ 64 := by
      have : ledGet (take q len s) 7 q 4 = ledGet (ledAdd 7 q 4 1 (ledAdd 7 q 0 1 (incR (qk q 0x24) (setF (qk q 0x10) 9 0 ((rf s (qk q 0x10) 9 0 + 1 + len) % 1024) s)))) 7 q 4 := rfl
      rw [this, ledGet_ledAdd _ (by rw [ledAdd_stop]; exact hs) (by decide) (by decide) (by omega) (by omega), if_pos (by simp),
        ledGet_ledAdd (c := 7) (i := q) (t := 0) (n := 1) (incR (qk q 0x24) (setF (qk q 0x10) 9 0 ((rf s (qk q 0x10) 9 0 + 1 + len) % 1024) s)) hs (by decide) (by decide) (by omega) (by omega), if_neg (by simp)]; rfl
    rw [e]; omega
  · refine balanced_congr (s := take q len s) ?_ (balanced_take hq hi hb)
    have ht : (take q len s).ledStop = true := by
      show (ledAdd 7 q 4 1 (ledAdd 7 q 0 1 (incR (qk q 0x24) (setF (qk q 0x10) 9 0 ((rf s (qk q 0x10) 9 0 + 1 + len) % 1024) s)))).ledStop = true
      rw [ledAdd_stop, ledAdd_stop]; exact hs
    have hp : (putReply q st tag false n pay (take q len s)).ledStop = true := by rw [putReply_ledStop, ht]
    unfold firstReply
    rw [ledAdd_stopped hp, ledSub_stopped hp, putReply_led]
/-- Commands a partition reset discards (R77, R111). -/
theorem balanced_discard {q c i : Nat} {s : State} (hq : q < 65) (hi : i < 4096) (hb : balanced c i s) : balanced c i (discardQueue q s) := by
  unfold discardQueue
  exact balanced_congr (s := ledAdd 7 q 2 (packetsIn s q 1024 (rf s (qk q 0x10) 9 0) (waitingWords s q)) (ledAdd 7 q 0 _ _)) rfl
    (balanced_enter (by decide) (by omega) hi (balanced_congr rfl hb))
/-- A pending command is aborted (R76, R111). -/
theorem balanced_abort {w : Waiting} {c i : Nat} {s : State} (hq : w.q < 65) (hi : i < 4096) (hp : 1 ≤ ledGet s 7 w.q 4) (hb : balanced c i s) :
    balanced c i (abortWaiting w s) :=
  balanced_congr (s := ledSub 7 w.q 4 1 (ledAdd 7 w.q 3 1 (incR (qk w.q 0x2C) s))) rfl
    (balanced_move (by decide) (by decide) (by decide) (by omega) hi hp (balanced_congr rfl hb))
/-- A line's window is converted, and each pixel enters one term (R106). -/
theorem balanced_line {n : Nat} {l : Line} {excl c i : Nat} {s : State} (hn : n < 96) (hi : i < 4096) (he : excl ≤ l.count) (hb : balanced c i s) :
    balanced c i (lineLedger n l excl s) := by
  unfold lineLedger; dsimp only
  split
  · exact balanced_enter (by decide) (by omega) hi hb
  split
  · exact balanced_enter (by decide) (by omega) hi hb
  split
  · exact balanced_enter (by decide) (by omega) hi hb
  · have hn4 : n < 4096 := by omega
    cases hs : s.ledStop
    · refine balanced_same (fun k hk => ?_) (balanced_enter (c := 1) (i := n) (t := 1) (n := l.count - excl) (by decide) hn4 hi
        (balanced_enter (c := 1) (i := n) (t := 2) (n := excl) (by decide) hn4 hi hb))
      have g : ∀ u : State, u.ledStop = false → ∀ t m c' i' k, t < 16 → k < 16 → i' < 4096 →
          ledGet (ledAdd 1 n t m u) c' i' k = if c' = 1 ∧ i' = n ∧ k = t then (ledGet u 1 n t + m) % 2 ^ 64 else ledGet u c' i' k :=
        fun u hu t m c' i' k ht hk hi' => ledGet_ledAdd u hu ht hk hn4 hi'
      have d : ∀ u t m, u.ledStop = false → (ledAdd 1 n t m u).ledStop = false := fun u t m h => by rw [ledAdd_stop, h]
      have a1 := d s 0 l.count hs
      have a2 := d _ 2 excl a1
      have b1 := d s 0 excl hs
      have b2 := d _ 2 excl b1
      have b3 := d _ 0 (l.count - excl) b2
      rw [g _ a2 1 _ c i k (by decide) hk hi, g _ a1 2 _ c i k (by decide) hk hi, g _ hs 0 _ c i k (by decide) hk hi,
        g _ a1 2 _ 1 n 1 (by decide) (by decide) hn4, g _ hs 0 _ 1 n 1 (by decide) (by decide) hn4, g _ hs 0 _ 1 n 2 (by decide) (by decide) hn4,
        g _ b3 1 _ c i k (by decide) hk hi, g _ b2 0 _ c i k (by decide) hk hi, g _ b1 2 _ c i k (by decide) hk hi, g _ hs 0 _ c i k (by decide) hk hi,
        g _ b2 0 _ 1 n 1 (by decide) (by decide) hn4, g _ b1 2 _ 1 n 1 (by decide) (by decide) hn4, g _ hs 0 _ 1 n 1 (by decide) (by decide) hn4,
        g _ b1 2 _ 1 n 0 (by decide) (by decide) hn4, g _ hs 0 _ 1 n 0 (by decide) (by decide) hn4, g _ hs 0 _ 1 n 2 (by decide) (by decide) hn4]
      by_cases h : c = 1 ∧ i = n
      · obtain ⟨rfl, rfl⟩ := h
        by_cases k0 : k = 0
        · subst k0; simp; omega
        · simp [k0]
      · have : ∀ q : Prop, ¬ (c = 1 ∧ i = n ∧ q) := fun q hq => h ⟨hq.1, hq.2.1⟩
        simp [this]
    · rw [ledAdd_stopped hs, ledAdd_stopped hs, ledAdd_stopped hs]; exact hb
/-- Entries leave the queue for one term (R108). -/
theorem balanced_gone (es : List Entry) {term c i : Nat} {s : State} (ht : term ∈ [1, 2, 3, 4, 5]) (hi : i < 4096) (ho : ∀ e ∈ es, e.owner < 4096)
    (hp : ∀ o, (es.filter fun e => e.owner == o).length ≤ ledGet s 3 o 6) (hb : balanced c i s) :
    balanced c i (forEach es (fun e s => ledSub 3 e.owner 6 1 (ledAdd 3 e.owner term 1 s)) s) := by
  induction es generalizing s with
  | nil => exact hb
  | cons e es ih =>
    have h1 : 1 ≤ ledGet s 3 e.owner 6 := by have := hp e.owner; simp at this; omega
    have ht6 : term ∈ ledRight 3 ∧ term ≠ 6 ∧ term < 16 := by revert ht; unfold ledRight; simp; omega
    have oe := ho e (List.mem_cons_self ..)
    show balanced c i (forEach es _ (ledSub 3 e.owner 6 1 (ledAdd 3 e.owner term 1 s)))
    refine ih (fun x hx => ho x (List.mem_cons_of_mem _ hx)) ?_ (balanced_move ht6.1 (by decide) ht6.2.1 oe hi h1 hb)
    intro o
    have hl := hp o
    by_cases hne : (es.filter fun e => e.owner == o) = []
    · rw [hne]; exact Nat.zero_le _
    have oo : o < 4096 := by
      obtain ⟨x, hx⟩ := List.exists_mem_of_ne_nil _ hne
      rw [List.mem_filter] at hx
      have := ho x (List.mem_cons_of_mem _ hx.1)
      simp at hx; omega
    cases hs : s.ledStop
    · rw [ledGet_ledSub _ (by rw [ledAdd_stop, hs]) (by decide) (by decide) oe oo]
      by_cases e2 : o = e.owner
      · subst e2
        rw [if_pos (by simp), ledGet_ledAdd _ hs ht6.2.2 (by decide) oe oe, if_neg (by omega)]
        simp at hl; omega
      · rw [if_neg (by omega), ledGet_ledAdd _ hs ht6.2.2 (by decide) oe oo, if_neg (by omega)]
        rw [List.filter_cons_of_neg (by simp; omega)] at hl; exact hl
    · rw [ledAdd_stopped hs, ledSub_stopped hs]
      refine le_trans ?_ hl
      by_cases e2 : e.owner == o
      · rw [List.filter_cons, if_pos e2]; simp
      · rw [List.filter_cons, if_neg e2]
/-- A conversion ends or is aborted (R112). -/
theorem balanced_conv {t c i term : Nat} {s : State} (ht : t < 8) (hi : i < 4096) (hx : term ∈ [1, 2]) (hb : balanced c i s) :
    balanced c i (ledAdd 8 t term 1 (ledAdd 8 t 0 1 s)) := balanced_enter hx (by omega) hi hb
/-- A frame spends a credit (R110). -/
theorem balanced_frame {k kind c i : Nat} {f l : Bool} {pay : List Word} {s : State} (hk : k < 8) (hi : i < 4096) (hp : 1 ≤ ledGet s 6 k 2) (hb : balanced c i s) :
    balanced c i (frameOut k kind f l pay s) := by
  unfold frameOut
  exact balanced_move (by decide) (by decide) (by decide) (by omega) hi hp (balanced_congr rfl hb)
/-- Credits arrive (R110, R287). -/
theorem balanced_credit {k c i : Nat} {a b : Word} {s : State} (hk : k < 8) (hi : i < 4096) (hb : balanced c i s) : balanced c i (creditBlock k a b s) := by
  unfold creditBlock
  split
  · exact hb
  split
  · exact balanced_congr rfl hb
  · exact balanced_enter (by decide) (by omega) hi (balanced_congr rfl hb)
/-- An event meets its fate (R107). -/
theorem balanced_event {n c i : Nat} {s : State} (hn : n < 96) (hi : i < 4096) (hb : balanced c i s) : balanced c i (eventArrives n s) := by
  unfold eventArrives
  split
  · dsimp only; split
    · exact balanced_enter (by decide) (by omega) hi (balanced_congr rfl hb)
    · exact balanced_congr rfl hb
  · exact hb
/-- What ends a line at its channel leaves the ledger. -/
theorem led_lineTail (n v : Nat) (t : LineTag) (q : List QItem) (s : State) :
    (let s := setF (thk n 0x24) 31 16 v s
     let s := modChan n (fun c => { c with evq := q, burst := none, recs := 0 }) s
     setColl (n / 12) (coll s (n / 12) ++ [(n, .mark t)]) s).led = s.led := rfl
theorem led_incR (k : RKey) (s : State) : (incR k s).led = s.led := rfl
theorem led_setB (k : RKey) (i : Nat) (b : Bool) (s : State) : (setB k i b s).led = s.led := rfl
theorem led_collWrite (n : Nat) (r : EvRec) (s : State) : (collWrite n r s).led = s.led := rfl
/-- A line-end marker brings the line's burst to its fate (R107). -/
theorem balanced_marker {n c i : Nat} {s : State} (hn : n < 96) (hi : i < 4096) (hb : balanced c i s) : balanced c i (markerArrives n s) := by
  unfold markerArrives
  split
  · cases (chan s n).burst with
    | none => exact balanced_congr (led_lineTail ..) hb
    | some b =>
      refine balanced_congr (led_lineTail ..) ?_
      dsimp only
      split
      · exact balanced_enter (by decide) (by omega) hi (balanced_congr (by rw [led_setB, led_collWrite, led_incR]) hb)
      · exact balanced_enter (by decide) (by omega) hi (balanced_congr (by rw [led_setB, led_incR, led_incR]) hb)
  · exact hb

end Sys2Proof.Machine
end

