-- ==== Sys2Proof/Laws/Canon.lean ====
section
/-! SUPPORT. The canonical form of the register file, of the values in force and of the ledger: every write keeps it. -/

namespace Sys2Proof.Machine

/-- Within the address map the order of registers tells them apart. -/
theorem RKey.code_inj {a b : RKey} (ha : a.i < 2 ^ 24 ∧ a.off < 2 ^ 24) (hb : b.i < 2 ^ 24 ∧ b.off < 2 ^ 24) (h : a.code = b.code) : a = b := by
  obtain ⟨ab, ai, ao⟩ := a
  obtain ⟨bb, bi, bo⟩ := b
  simp only [RKey.code] at h ha hb
  have e1 : ab.ctorIdx = bb.ctorIdx := by omega
  have e2 : ab = bb := by rw [← Blk.ofNat_ctorIdx ab, e1, Blk.ofNat_ctorIdx]
  have e3 : ai = bi := by omega
  have e4 : ao = bo := by omega
  rw [e2, e3, e4]
/-- Writing a register within the map keeps the form. -/
theorem Regs.wf_put {m : List (RKey × Word)} {k : RKey} (v : Word) (hk : k.i < 2 ^ 24 ∧ k.off < 2 ^ 24) (h : Regs.wf m = true) :
    Regs.wf (spPut RKey.code rstVal m k v) = true := by
  simp only [Regs.wf, Bool.and_eq_true, List.all_eq_true, decide_eq_true_eq] at h ⊢
  refine ⟨spWf_spPut_on rstVal k v (fun e he hc => RKey.code_inj (h.2 e he) hk hc) h.1, fun e he => ?_⟩
  rcases mem_spPut _ _ _ _ _ _ he with rfl | he
  · exact hk
  · exact h.2 e he

end Sys2Proof.Machine
end

