-- ==== Sys2Proof/Laws/Raises.lean ====
section
/-! SUPPORT. The fault collector (R406–R412): what a raise leaves in the source's registers, in SUMMARY and in the
capture, and what the collector does with the reports that wait. -/

namespace Sys2Proof.Machine

theorem srk4_ne (i j : Nat) : srk i 4 ≠ srk j 0xC := by simp [srk]
theorem sumK_ne (i j o : Nat) : sumK i ≠ srk j o := by simp [sumK, srk, flk]
theorem bit_setBit (w : Word) (i : Nat) (b : Bool) (h : i < 32) : bit (setBit w i b) i = b := by
  have e := fld_setFld_same w i i b.toNat (Nat.le_refl i) h (by cases b <;> simp)
  have x : ∀ w : Word, fld w i i = (bit w i).toNat := by
    intro w
    unfold fld bit
    rw [Nat.add_sub_cancel_left, Nat.pow_one, ← BitVec.testBit_toNat, Nat.toNat_testBit, Nat.shiftRight_eq_div_pow]
  rw [x] at e
  unfold setBit
  revert e
  cases bit (setFld w i i b.toNat) i <;> cases b <;> simp

/-- The status word of a source after a raise. -/
def raisedStat (w : Word) (sev : Nat) : Word :=
  let u := setBit (setFld w 31 16 (satInc (fld w 31 16) 16)) 1 true
  setFld u 6 4 (max (fld u 6 4) sev)
theorem latchRaise_stat (r : Report) (sev : Nat) (s : State) :
    rd (latchRaise r sev s) (srk r.src 4) = raisedStat (rd s (srk r.src 4)) sev := by
  have n1 : srk r.src 4 ≠ srk r.src 0xC := srk4_ne _ _
  have n2 : srk r.src 4 ≠ sumK r.src := Ne.symm (sumK_ne _ _ _)
  simp only [latchRaise, raisedStat, satF, setF, setB, rf, rd_wr_same, rd_wr_ne _ _ n1, rd_wr_ne _ _ n2]
theorem latchRaise_members (r : Report) (sev : Nat) (s : State) :
    rd (latchRaise r sev s) (srk r.src 0xC) = rd s (srk r.src 0xC) ||| BitVec.ofNat 32 (memBit r.mem) := by
  have n1 : srk r.src 0xC ≠ srk r.src 4 := Ne.symm (srk4_ne _ _)
  have n2 : srk r.src 0xC ≠ sumK r.src := Ne.symm (sumK_ne _ _ _)
  simp only [latchRaise, satF, setF, setB, rf, rd_wr_same, rd_wr_ne _ _ n1, rd_wr_ne _ _ n2]
theorem latchRaise_summary (r : Report) (sev : Nat) (s : State) :
    rd (latchRaise r sev s) (sumK r.src) = setBit (rd s (sumK r.src)) (r.src % 32) true := by
  simp only [latchRaise, satF, setF, setB, rf, rd_wr_same, rd_wr_ne _ _ (sumK_ne _ _ _)]
theorem latchRaise_other (r : Report) (sev : Nat) (s : State) {k : RKey} (h1 : k ≠ srk r.src 4) (h2 : k ≠ srk r.src 0xC)
    (h3 : k ≠ sumK r.src) : rd (latchRaise r sev s) k = rd s k := by
  simp only [latchRaise, satF, setF, setB, rd_wr_ne _ _ h1, rd_wr_ne _ _ h2, rd_wr_ne _ _ h3]
/-- A raise's latches touch the register file alone. -/
theorem latchRaise_frame (r : Report) (sev : Nat) (s : State) : latchRaise r sev s = { s with regs := (latchRaise r sev s).regs } := by
  simp only [latchRaise, satF, setF, setB, wr]

theorem raisedStat_count (w : Word) (sev : Nat) : fld (raisedStat w sev) 31 16 = min (fld w 31 16 + 1) 0xFFFF := by
  have hb : fld w 31 16 < 65536 := Nat.mod_lt _ (by decide)
  unfold raisedStat; dsimp only
  rw [bit_fld_setFld _ _ _ _ _ _ (by omega) (by omega) (by omega), setBit, bit_fld_setFld _ _ _ _ _ _ (by omega) (by omega) (by omega),
    fld_setFld_same _ _ _ _ (by omega) (by omega) (by unfold satInc; omega)]
  unfold satInc; omega
theorem raisedStat_latch (w : Word) (sev : Nat) : bit (raisedStat w sev) 1 = true := by
  unfold raisedStat; dsimp only
  rw [setFld_bits _ _ _ _ _ (by omega) (by omega), bit_setBit _ _ _ (by omega)]
theorem raisedStat_severity (w : Word) (sev : Nat) (h : sev < 8) : fld (raisedStat w sev) 6 4 = max (fld w 6 4) sev := by
  have hb : fld w 6 4 < 8 := Nat.mod_lt _ (by decide)
  have e : ∀ v, fld (setBit (setFld w 31 16 v) 1 true) 6 4 = fld w 6 4 := by
    intro v
    rw [setBit, bit_fld_setFld _ _ _ _ _ _ (by omega) (by omega) (by omega), bit_fld_setFld _ _ _ _ _ _ (by omega) (by omega) (by omega)]
  unfold raisedStat; dsimp only
  rw [fld_setFld_same _ _ _ _ (by omega) (by omega) (by rw [e]; omega), e]

theorem captureRaise_word (ws : List Word) (s : State) (hl : ws.length = 8) (k : Nat) (h : k < 8) :
    rd (captureRaise ws s) (flk (0x20 + 4 * k)) = ws.getD k 0 := by
  match ws, hl with
  | [a, b, c, d, e, f, g, i], _ =>
    have n : ∀ a b : Nat, a ≠ b → flk a ≠ flk b := by intro a b h e; simp only [flk, RKey.mk.injEq] at e; exact h e.2.2
    unfold captureRaise
    rw [rd_setB_ne _ _ _ (n _ _ (by omega))]
    interval_cases k <;> simp [List.zipIdx, rd_wr, flk]
theorem captureRaise_held (ws : List Word) (s : State) : rb (captureRaise ws s) (flk 4) 0 = true := by
  unfold captureRaise setB rb
  rw [rd_wr_same, bit_setBit _ _ _ (by omega)]

/-- One report that makes no other: the collector takes it. -/
theorem collect_one {r : Report} {s : State} (h : (s.por || s.rstn || s.pfail) = false) (hr : s.rep = [r])
    (hn : (takeReport r { s with rep := [] }).rep = []) : collect s = takeReport r { s with rep := [] } := by
  unfold collect
  rw [if_neg (by simp [h]), hr]
  show collectN (1024 + 1) s = _
  rw [collectN, hr]; dsimp only
  exact collectN_nil _ hn

end Sys2Proof.Machine
end

