-- ==== Sys2Proof/Laws/Staged.lean ====
section
/-! SUPPORT. Staged registers: what a write under HOLD leaves waiting, and which values a line start puts in force
(R180, R235). -/

namespace Sys2Proof.Machine

variable {n p num : Nat} {k x : RKey} {v m : Word} {s : State}

/-- Putting registers in force one after another touches no register as it is written. -/
theorem forEach_setAct_rd (l : List RKey) (s : State) : rd (forEach l (fun k s => setAct k (rd s k) s) s) x = rd s x := by
  induction l generalizing s with
  | nil => rfl
  | cons a l ih => exact ih (setAct a (rd s a) s)
/-- The listed registers are in force as they were written, the others as before. -/
theorem act_forEach_setAct (l : List RKey) (s : State) :
    act (forEach l (fun k s => setAct k (rd s k) s) s) x = if x ∈ l then rd s x else act s x := by
  induction l generalizing s with
  | nil => simp [forEach]
  | cons a l ih =>
    have h := ih (setAct a (rd s a) s)
    show act (forEach l _ (setAct a (rd s a) s)) x = _
    rw [h, show rd (setAct a (rd s a) s) x = rd s x from rfl]
    by_cases hx : x = a
    · subst hx; simp
    · by_cases hl : x ∈ l
      · simp [hl]
      · rw [if_neg hl, if_neg (by simp [hx, hl]), act_setAct_ne _ _ hx]
/-- A line start of a channel puts its staged VID and COR registers in force as they were last written, and touches no
other (R180, R197). -/
theorem act_vidApply : act (vidApply n s) x = if x ∈ ck n 4 :: vidStaged n then rd s x else act s x := by
  rw [← act_forEach_setAct]
  unfold vidApply; dsimp only
  split <;> rfl
/-- One staged FIL or THR register as it comes into force. -/
def filForce (wait : RKey → Bool) (k : RKey) (s : State) : State :=
  if wait k then (match dueOf s k with | some v => setAct k v s | none => s) else setAct k (rd s k) s
theorem filForce_regs (wait : RKey → Bool) (k : RKey) (s : State) : (filForce wait k s).regs = s.regs ∧ (filForce wait k s).due = s.due := by
  unfold filForce; split
  · split <;> exact ⟨rfl, rfl⟩
  · exact ⟨rfl, rfl⟩
theorem act_filForce (wait : RKey → Bool) (l : List RKey) (s : State) :
    act (forEach l (filForce wait) s) x = if x ∈ l then (if wait x then (dueOf s x).getD (act s x) else rd s x) else act s x := by
  induction l generalizing s with
  | nil => simp [forEach]
  | cons a l ih =>
    have h := ih (filForce wait a s)
    have e1 : rd (filForce wait a s) x = rd s x := rd_congr (filForce_regs wait a s).1 x
    have e2 : dueOf (filForce wait a s) x = dueOf s x := by unfold dueOf; rw [(filForce_regs wait a s).2]
    show act (forEach l _ (filForce wait a s)) x = _
    rw [h, e1, e2]
    by_cases hx : x = a
    · subst hx
      have e3 : act (filForce wait x s) x = if wait x then (dueOf s x).getD (act s x) else rd s x := by
        unfold filForce
        split
        · split
          · next v hv => rw [hv]; exact act_setAct_same ..
          · next hv => rw [hv]; rfl
        · exact act_setAct_same ..
      rw [e3, if_pos (List.mem_cons_self ..)]
      split
      · split
        · cases dueOf s x <;> rfl
        · rfl
      · rfl
    · have e3 : act (filForce wait a s) x = act s x := by
        unfold filForce
        split
        · split
          · exact act_setAct_ne _ _ hx
          · rfl
        · exact act_setAct_ne _ _ hx
      rw [e3]; simp [hx]
/-- What a line start puts in force of FIL and THR: every staged register as it was last written, except that one which
waits under HOLD keeps what is in force, or takes the value that was due before HOLD was set (R235). -/
theorem act_filTake {all : Bool} : act (filTake n all s) x = if x ∈ filStaged n then
    (if !all && (chan s n).held.contains x then (dueOf s x).getD (act s x) else rd s x) else act s x :=
  act_filForce (fun k => !all && (chan s n).held.contains k) (filStaged n) s
/-- The values in force for a line whose number is `num`: the waiting ones too where a SYNC acts on it or HOLD = 0 (R235). -/
theorem act_filApply : act (filApply n num s) x = if x ∈ filStaged n then
    (if !(syncDue s n num || !rb s (fk n 4) 0) && (chan s n).held.contains x then (dueOf s x).getD (act s x) else rd s x) else act s x := by
  have e : (filApply n num s).act = (filTake n (syncDue s n num || !rb s (fk n 4) 0) s).act := by
    have h1 : ∀ u, (respInfo n u).act = u.act := fun _ => rfl
    have h2 : ∀ u, (unprime n u).act = u.act := fun _ => rfl
    have h3 : ∀ u, (setApply n num u).act = u.act := fun _ => rfl
    have h4 : ∀ (a : Bool) (u v : State), (if a then u else v).act = if a then u.act else v.act := fun a _ _ => by cases a <;> rfl
    unfold filApply; dsimp only
    generalize filTake n (syncDue s n num || !rb s (fk n 4) 0) s = u
    rw [h1, h4, h2]
    simp only [ite_self, h4, h3, wr_act, setB, modChan_act]
  rw [← act_filTake, act, act, e]
/-- A write of a staged FIL or THR register with HOLD = 0: the value takes effect at the next line start, in place of any
that waited or was due (R235). -/
theorem stageHold_now (h : rb s (fk n 4) 0 = false) : stageHold n k s =
    modChan n (fun c => { c with held := c.held.filter (· != k), freed := c.freed.filter (· != k) }) { s with due := s.due.filter fun e => e.1 != k } := by
  unfold stageHold; rw [h]; rfl
/-- The same with HOLD = 1: the register waits, and a value that was free to take effect before stays due (R235). -/
theorem stageHold_wait (h : rb s (fk n 4) 0 = true) (g : (chan s n).held.contains k = false) : stageHold n k s =
    if act s k = rd s k then modChan n (fun c => { c with held := c.held ++ [k] }) s
    else modChan n (fun c => { c with held := c.held ++ [k] }) { s with due := s.due ++ [(k, rd s k)] } := by
  unfold stageHold; rw [h, g]; rfl
theorem stageHold_again (h : rb s (fk n 4) 0 = true) (g : (chan s n).held.contains k = true) : stageHold n k s = s := by
  unfold stageHold; rw [h, g]; rfl
theorem act_stageHold : act (stageHold n k s) x = act s x := by
  unfold stageHold; dsimp only
  split
  · rfl
  · split
    · split <;> rfl
    · rfl

end Sys2Proof.Machine
end

