-- ==== Sys2Proof/Laws/Zones.lean ====
section
/-! SUPPORT. Zone statistics (R271): what one output, and a line's outputs together, add to an open interval. -/

namespace Sys2Proof.Machine

/-- An output that the zone excludes. -/
def zoneExcl (orx : Bool) (x : Nat × OutW × Bool) : Bool := x.2.2 || (orx && x.2.1.orr)
theorem zoneOut_excl {orx : Bool} {x : Nat × OutW × Bool} (h : zoneExcl orx x = true) (ln : Nat) (a : ZoneAcc) :
    zoneOut orx ln a x = { a with orr := a.orr || x.2.1.orr, excl := a.excl + 1 } := by
  unfold zoneExcl at h
  unfold zoneOut; dsimp only; rw [if_pos h]
theorem zoneOut_incl {orx : Bool} {x : Nat × OutW × Bool} (h : zoneExcl orx x = false) (ln : Nat) (a : ZoneAcc) :
    zoneOut orx ln a x = { a with
      orr := a.orr || x.2.1.orr, count := a.count + 1, sum := a.sum + x.2.1.y, sumsq := a.sumsq + x.2.1.y.natAbs * x.2.1.y.natAbs,
      mn := if a.count = 0 ∨ x.2.1.y < a.mn then x.2.1.y else a.mn, mnln := if a.count = 0 ∨ x.2.1.y < a.mn then ln else a.mnln,
      mnix := if a.count = 0 ∨ x.2.1.y < a.mn then x.1 else a.mnix,
      mx := if a.count = 0 ∨ a.mx < x.2.1.y then x.2.1.y else a.mx, mxln := if a.count = 0 ∨ a.mx < x.2.1.y then ln else a.mxln,
      mxix := if a.count = 0 ∨ a.mx < x.2.1.y then x.1 else a.mxix } := by
  unfold zoneExcl at h
  unfold zoneOut; dsimp only; rw [if_neg (by simp [h])]
  by_cases h1 : a.count = 0 ∨ x.2.1.y < a.mn <;> by_cases h2 : a.count = 0 ∨ a.mx < x.2.1.y <;> simp only [h1, h2, if_true, if_false]

/-- What the outputs of a line add. -/
structure ZoneSums (orx : Bool) (os : List (Nat × OutW × Bool)) (a b : ZoneAcc) : Prop where
  count : b.count = a.count + (os.filter fun x => !zoneExcl orx x).length
  excl : b.excl = a.excl + (os.filter (zoneExcl orx)).length
  sum : b.sum = a.sum + ((os.filter fun x => !zoneExcl orx x).map (·.2.1.y)).sum
  sumsq : b.sumsq = a.sumsq + ((os.filter fun x => !zoneExcl orx x).map fun x => x.2.1.y.natAbs * x.2.1.y.natAbs).sum
  orr : b.orr = (a.orr || os.any (·.2.1.orr))
  kept : 0 < a.count → b.mn ≤ a.mn ∧ a.mx ≤ b.mx
  bounds : ∀ x ∈ os, zoneExcl orx x = false → b.mn ≤ x.2.1.y ∧ x.2.1.y ≤ b.mx
theorem zoneOut_fold (orx : Bool) (ln : Nat) (os : List (Nat × OutW × Bool)) (a : ZoneAcc) :
    ZoneSums orx os a (os.foldl (zoneOut orx ln) a) := by
  induction os generalizing a with
  | nil => exact ⟨rfl, rfl, (add_zero _).symm, rfl, (Bool.or_false _).symm, fun _ => ⟨le_refl _, le_refl _⟩, fun x h => absurd h (List.not_mem_nil)⟩
  | cons x xs ih =>
    rw [List.foldl_cons]
    obtain ⟨c, e, m, q, o, k, b⟩ := ih (zoneOut orx ln a x)
    cases hx : zoneExcl orx x
    · rw [zoneOut_incl hx] at c e m q o k b ⊢
      dsimp only at c e m q o k b
      have k := k (Nat.succ_pos _)
      refine ⟨?_, ?_, ?_, ?_, ?_, ?_, ?_⟩
      · rw [c, List.filter_cons_of_pos (by simp [hx]), List.length_cons]; omega
      · rw [e, List.filter_cons_of_neg (by simp [hx])]
      · rw [m, List.filter_cons_of_pos (by simp [hx]), List.map_cons, List.sum_cons, add_assoc]
      · rw [q, List.filter_cons_of_pos (by simp [hx]), List.map_cons, List.sum_cons, add_assoc]
      · rw [o, List.any_cons, Bool.or_assoc]
      · intro hc
        refine ⟨k.1.trans ?_, le_trans ?_ k.2⟩
        · split
          · rename_i h; rcases h with h | h <;> omega
          · exact le_refl _
        · split
          · rename_i h; rcases h with h | h <;> omega
          · exact le_refl _
      · intro y hy hn
        rcases List.mem_cons.mp hy with rfl | hy
        · refine ⟨k.1.trans ?_, le_trans ?_ k.2⟩ <;> split <;> omega
        · exact b y hy hn
    · rw [zoneOut_excl hx] at c e m q o k b ⊢
      dsimp only at c e m q o k b
      refine ⟨?_, ?_, ?_, ?_, ?_, k, ?_⟩
      · rw [c, List.filter_cons_of_neg (by simp [hx])]
      · rw [e, List.filter_cons_of_pos hx, List.length_cons]; omega
      · rw [m, List.filter_cons_of_neg (by simp [hx])]
      · rw [q, List.filter_cons_of_neg (by simp [hx])]
      · rw [o, List.any_cons, Bool.or_assoc]
      · intro y hy hn
        rcases List.mem_cons.mp hy with rfl | hy
        · rw [hx] at hn; exact absurd hn (by decide)
        · exact b y hy hn

end Sys2Proof.Machine
end

