-- ==== Sys2Proof/WellFormed.lean ====
section
/-! DEFINITION. Commands that the outside can send: a packet whose LEN fits its field (R66) and which selects the row
it is named as, and event data of the widths that the spec gives. `exec` is defined on every command; one that is
ill-formed stands for nothing that can happen. -/

namespace Sys2Proof

/-- A packet's payload fits LEN. -/
def Pkt.wf (p : Pkt) : Bool := decide (p.pay.length ≤ 255)
/-- Bits [hi:lo] of payload word 0. -/
def Pkt.selects (p : Pkt) (hi lo : Nat) (vs : List Nat) : Bool :=
  p.wf && (match p.pay.head? with | some w => vs.contains ((w.toNat >>> lo) % 2 ^ (hi + 1 - lo)) | none => false)
/-- The first row of an opcode with selectors takes also a packet without payload. -/
def Pkt.selectsOr (p : Pkt) (hi lo : Nat) (vs : List Nat) : Bool := p.selects hi lo vs || (p.wf && p.pay.isEmpty)
/-- A frame's payload is 11 bytes (R148). -/
def SwFrame.wf (f : SwFrame) : Bool := f.pay.length == 11

/-- Whether a command is one that can be sent, or an event one that can come. -/
def Instr.wf : Instr → Bool
  | .nop p | .ident p | .time p | .regRead p | .regWrite p | .regModify p | .regPeek p | .assign p | .release p |
    .lock p | .quota p | .partReset p | .calRun p | .calCommit p | .calStatus p | .corrLoad p | .sync p | .statsSnap p
    | .actInsert p | .actCancel p | .actQuery p | .molt p | .fence p | .unfence p | .selftest p | .bitBegin p |
    .bitData p | .bitEnd p | .readback p | .ledgerSnap p | .ledgerRead p | .faultClear p | .severitySet p | .nvmRead p
    | .nvmWrite p | .nvmLock p | .supSnap p | .ffLoad p | .ffClear p | .resync p => p.wf
  | .unlock p => p.selectsOr 31 31 [0]
  | .unlockForce p => p.selects 31 31 [1]
  | .armChannels p => p.selectsOr 1 0 [0, 2, 3]
  | .disarmChannels p => p.selectsOr 1 0 [0, 2, 3]
  | .armGenerator p => p.selects 1 0 [1]
  | .disarmGenerator p => p.selects 1 0 [1]
  | .freeze p => p.selectsOr 0 0 [1]
  | .freezeRelease p => p.selects 0 0 [0]
  | .regionReset p => p.selectsOr 10 8 [0, 5, 6, 7]
  | .regionStart p => p.selects 10 8 [1]
  | .regionClkstop p => p.selects 10 8 [2]
  | .regionClkrun p => p.selects 10 8 [3]
  | .regionClear p => p.selects 10 8 [4]
  | .faultReadRecords p => p.selectsOr 1 0 [0, 3]
  | .faultReadCapture p => p.selects 1 0 [1]
  | .faultReadStatus p => p.selects 1 0 [2]
  | .injectRaise p => p.selectsOr 25 24 [0]
  | .injectHold p => p.selects 25 24 [1]
  | .injectBrokenWire p => p.selects 25 24 [2]
  | .injectRelease p => p.selects 25 24 [3]
  | .supUrgent p => p.selectsOr 8 8 [0]
  | .supPathTest p => p.selects 8 8 [1]
  | .swarmStop p => p.selectsOr 1 0 [0, 3]
  | .swarmListen p => p.selects 1 0 [1]
  | .swarmTrain p => p.selects 1 0 [2]
  | .dmaKick p => p.selectsOr 10 8 [0, 6, 7]
  | .dmaPause p => p.selects 10 8 [1]
  | .dmaResume p => p.selects 10 8 [2]
  | .dmaAbort p => p.selects 10 8 [3]
  | .dmaEnable p => p.selects 10 8 [4]
  | .dmaDisable p => p.selects 10 8 [5]
  | .reservedOpcode _ p | .unboundQueueCommand _ p => p.wf
  | .swarmTokenFrame f | .swarmTimeFrame f | .swarmStatusFrame f | .swarmPosFrame f | .swarmGdescFrame f |
    .swarmNakFrame f
  | .swarmTrainFrame f => f.wf
  | .swarmTrainDone _ hops _ => decide (hops.length ≤ 8)
  | .supSlotEnd codes => codes.length == 8
  | .lineEnd _ px => decide (px.length ≤ 81920)
  | .lineStart _ left => decide (left.length ≤ 12) && left.all (· ≤ 16384)
  | .tileClkStart _ _ v => v.getLsbD 16
  | .tileClkStop _ _ v => !v.getLsbD 16
  | .spiTransaction _ _ bytes n => decide (bytes.length ≤ 16384) && decide (n ≤ 16384)
  | .powerFail pin mon => pin || mon
  | .bar2Read _ _ n => decide (n ≤ 4096)
  | .incompletePacket _ | .partResetComplete _ | .calComputeDone _ _ | .calRunTimeout _ _ | .calCommitDeadline _ _ |
    .corrLoadDone _ | .moltCopyDone _ | .moltDeadline _ | .selftestAttemptEnd _ _ _ | .bitEndDone _ | .sessionTimeout
    _ | .readbackDone _ | .clkstopForce _ | .nvmWriteDone _ | .nvmLockDone | .resyncDeadline _ _ | .doorbell _ _ _ |
    .qctlWrite _ _ _ | .w1cWrite _ _ | .registerWrite _ _ _ | .tbLoRead _ | .latchedLoRead _ _ | .rdescSelectRead _ _
    | .peakRead _ _ | .axisForce _ _ | .axisRestore _ _ | .axisPreset _ _ _ | .ffEnable _ _ | .ffDisable _ _ |
    .strobeMaskWrite _ _ _ | .creditWrite _ _ _ | .zoneEnable _ _ | .zoneDisable _ _ | .recordRingEnable _ _ _ |
    .dmaPauseBitWrite _ _ _ | .gpioBankWrite _ _ _ _ | .irqSelWrite _ _ _ | .powerStateRun _ | .powerStateIdle _ |
    .powerStateStandby _ | .completionDelivery _ | .processorRestart _ | .leaseExpiry _ | .debugRead _ _ | .debugHalt
    | .debugResume | .bar2Write _ _ | .hostLinkDown _ | .perstRelease _ | .faultNotifyDelayed _ | .encoderEdge _ _ _ |
    .tokenDeferredDelivery _ | .encoderZEdge _ | .encoderLossOfSignal _ _ | .encoderSignalReturn _ _ | .axisRateUpdate
    _ | .triggerPulseEnd _ | .eventArrival _ | .lineEndMarker _ | .stitcherTake | .stitchTimeout _ |
    .insertTaken | .actionExecute _ | .markerPulseEnd _ | .ffUpdateEdge _ | .deglitchHoldEnd _ | .comparatorTrip _ |
    .tripNLow _ | .ffShortCircuit _ | .ffCompliance _ | .fabricRequest _ _ _ | .dmaDescriptorRead _ _ | .dmaQuantumEnd
    _ _ | .dmaDescriptorComplete _ | .dmaHostReadError _ | .dmaPauseDrainEnd _ | .streamFrameSend _ |
    .streamCreditBlock _ _ _ | .streamLinkDown _ | .speedUpdate _ _ | .tilePllLock _ | .tileCalibrationDone _ |
    .tilePllLockTimeout _ | .tilePllLossOfLock _ | .fabricPllLock _ | .swarmFrameSend _ _ | .swarmResendTimeout _ |
    .swarmSegmentFail _ | .swarmTokenDelivery | .swarmHoldoverStart | .swarmHoldoverEnd | .swarmFollowerLost _ |
    .swarmReceiveDiscard | .gpioIrqEdge _ _ | .timeBasePulse | .timeBasePulseEnd | .brokenWire _ _ | .sramEccError _ _
    _ _ | .dieOverTemperature _ _ | .sclkRefLost | .referencePllUnlock | .syncMissing |
    .powerOnResetEntry | .powerOnResetRelease | .bootNvmLoadDone | .bootSelftestDone _ | .bootFabricLoadDone _ _ |
    .ready | .resetNAssert | .resetNRelease | .hostLinkUp _ | .sclkRefReturn | .referencePllLock | .syncReturn |
    .dieTemperatureNormal _ | .ffShortCircuitEnd _ | .ffComplianceEnd _ | .tripNHigh _ | .brokenWireCleared _ _ |
    .domainSupplyValid _ | .domainSupplyLost _ | .processorRestartDone | .dmaStopDrainEnd _ | .holdoverExtrapolation _
    | .strobePulseBegin _ _ | .strobePulseEnd _ _ => true

end Sys2Proof
end

