-- ==== Sys2Proof/Tests/Slice0.lean ====
section
/-! SUPPORT. Tests: ill-formed commands that WellFormed refuses, small steps with results from the spec's examples, and
a witness for every statement that has hypotheses. -/

namespace Sys2Proof.Tests

open Sys2Proof Sys2Proof.Machine
set_option Elab.async false
set_option maxRecDepth 20000
set_option linter.unusedVariables false

/-! ## States to start from -/

/-- The device at READY. -/
def up : State := setF rstatK 6 4 6 State.reset
/-- A ring that holds one packet, at its head. -/
def offer (opc : Nat) (p : Pkt) (s : State) : State :=
  setF (qk p.q.val 0x14) 9 0 (1 + p.pay.length)
    { s with ring := (header opc p :: p.pay).mapIdx fun i w => (p.q.val * 1024 + i, w) }
/-- A packet of the management SPI port's queue, which is P0's. -/
def pk (l : List Word) : Pkt := ⟨64, 1, 0, l⟩
/-- A packet of queue 8, which `tenant` binds to partition 3. -/
def pk3 (l : List Word) : Pkt := ⟨8, 1, 0, l⟩
/-- READY, with queue 8 bound to partition 3 and enabled. -/
def tenant : State := setB (qk 8 4) 0 true (setB (qk 8 0) 8 true (setF (qk 8 0) 4 0 3 up))
/-- That with the link of port 1 up, so that the queue is served. -/
def tenantUp : State := { tenant with links := vmod tenant.links 1 fun l => { l with up := true, bme := true } }

/-! ## Ill-formed commands are refused -/

/-- A payload longer than LEN can say. -/
theorem test_wf_long : (Instr.nop (pk (List.replicate 256 0))).wf = false ∧ (Instr.reservedOpcode 9 (pk (List.replicate 256 0))).wf = false ∧
    (Instr.nop (pk [])).wf = true := by decide
/-- A payload that selects another row of its opcode. -/
theorem test_wf_unlock : (Instr.unlock (pk [0x80000000])).wf = false ∧ (Instr.unlockForce (pk [0])).wf = false ∧
    (Instr.unlockForce (pk [])).wf = false := by decide
theorem test_wf_arm : (Instr.armChannels (pk [1])).wf = false ∧ (Instr.armGenerator (pk [0])).wf = false ∧
    (Instr.disarmChannels (pk [1])).wf = false ∧ (Instr.disarmGenerator (pk [2])).wf = false := by decide
theorem test_wf_freeze : (Instr.freeze (pk [0])).wf = false ∧ (Instr.freezeRelease (pk [1])).wf = false := by decide
theorem test_wf_region : (Instr.regionReset (pk [0x100])).wf = false ∧ (Instr.regionStart (pk [0])).wf = false ∧
    (Instr.regionClkstop (pk [0x300])).wf = false ∧ (Instr.regionClkrun (pk [0x200])).wf = false ∧
    (Instr.regionClear (pk [0x500])).wf = false := by decide
theorem test_wf_faultRead : (Instr.faultReadRecords (pk [1])).wf = false ∧ (Instr.faultReadCapture (pk [0])).wf = false ∧
    (Instr.faultReadStatus (pk [3])).wf = false := by decide
theorem test_wf_inject : (Instr.injectRaise (pk [0x1000000])).wf = false ∧ (Instr.injectHold (pk [0])).wf = false ∧
    (Instr.injectBrokenWire (pk [0])).wf = false ∧ (Instr.injectRelease (pk [0])).wf = false := by decide
theorem test_wf_sup : (Instr.supUrgent (pk [0x100])).wf = false ∧ (Instr.supPathTest (pk [0])).wf = false := by decide
theorem test_wf_swarm : (Instr.swarmStop (pk [1])).wf = false ∧ (Instr.swarmListen (pk [2])).wf = false ∧
    (Instr.swarmTrain (pk [3])).wf = false := by decide
theorem test_wf_dma : (Instr.dmaKick (pk [0x100])).wf = false ∧ (Instr.dmaPause (pk [0])).wf = false ∧
    (Instr.dmaResume (pk [0])).wf = false ∧ (Instr.dmaAbort (pk [0])).wf = false ∧ (Instr.dmaEnable (pk [0])).wf = false ∧
    (Instr.dmaDisable (pk [0x600])).wf = false := by decide
/-- Event data of a wrong width. -/
theorem test_wf_frame : (Instr.swarmTokenFrame ⟨false, 0, 0, [], true, false⟩).wf = false := by decide
theorem test_wf_train : (Instr.swarmTrainDone true (List.replicate 9 (0, 0)) 0).wf = false := by decide
theorem test_wf_slot : (Instr.supSlotEnd [1, 2]).wf = false := by decide
theorem test_wf_clk : (Instr.tileClkStart 64 0 0x00000A01).wf = false ∧ (Instr.tileClkStop 64 0 0x00010A01).wf = false := by decide
theorem test_wf_reads : (Instr.bar2Read 0 0 4097).wf = false ∧ (Instr.spiTransaction false 0 [] 16385).wf = false := by decide

/-! ## Results that the spec's examples give -/

/-- The state after a step; reset for a step that gives none. -/
def after (o : Host.Outcome State Fault Refusal) : State := match o with | .next t => t | _ => State.reset
/-- A filter path of a response of `lp` coefficients. -/
def path (d delta phi lp : Nat) : PathCfg := ⟨delta, d, phi, false, 0, 0, [], lp, true, false⟩
/-- Outputs, flagged fine outputs and excluded pixels of a window of 1,365 (worked example of R222, R228, R232). -/
theorem test_settle_c : (outCount (path 10 0 0 121) 1365, settleCount (path 10 0 0 121) 1365, settleExcl (path 10 0 0 121) 1365) = (136, 12, 120) := by decide
theorem test_settle_shifted : (outCount (path 10 3 4 121) 1365, settleCount (path 10 3 4 121) 1365, settleExcl (path 10 3 4 121) 1365) = (137, 12, 111) := by decide
theorem test_settle_b : (outCount (path 1 0 0 256) 1365, settleCount (path 1 0 0 256) 1365, settleExcl (path 1 0 0 256) 1365) = (1365, 255, 255) := by decide
theorem test_settle_one : (outCount (path 1024 0 0 256) 1365, settleCount (path 1024 0 0 256) 1365, settleExcl (path 1024 0 0 256) 1365) = (1, 0, 0) := by decide
/-- The correction entry of a typical pixel (worked example of R203). -/
theorem test_entry : entWord (roundDiv 41944 10) (roundDiv (4096 * 49152) 52658).toNat false = 0x0EEF1062 := by decide
/-- The positions that tokens 1 to 3 of a pitch of 6.25 counts carry (worked example of R135 to R137). -/
theorem test_points : [1, 2, 3].map (fun k => (ceilPos (BitVec.ofNat 64 (1000000 * 65536 + k * 0x64000))).toNat) = [1000007, 1000013, 1000019] := by decide
/-- Fragments one output apart: with GAP = 0 three events, with GAP = 2 one (worked example of R254). -/
def dark : WinCfg := ⟨true, false, false, true, 16, false, 1, 0, 12384, 32767⟩
def broken : List OutW := [16384, 0, 16384, 0, 16384, 0, 16384].map fun y => ⟨y, false, false, false⟩
theorem test_fragments : (winEvents dark (path 10 0 0 1) broken).map (fun x => (x.e.start, x.e.last)) = [(1, 1), (3, 3), (5, 5)] := by decide
theorem test_fragments_joined : (winEvents { dark with gap := 2 } (path 10 0 0 1) broken).map (fun x => (x.e.start, x.e.last)) = [(1, 5)] := by decide
/-- The burst record of channel 52 on the crack line (worked example of R276). -/
def crack : LineTag := ⟨5104377, 52, 0, 0, 51043770, false, 136, 136, 0, 0⟩
theorem test_burst_words : evWords (burstRec ⟨⟨crack, 3, false, 23, 1, 5000, true, false, false, true, false, false, false, false⟩, 135, 57⟩) =
    [0xE2F90343, 0x4D, 0x00710017, 0x00090039] := by decide
/-- Two events of one crack at the join of two heads become one (R264): the test of the worked example, with the
markers of both heads passed. -/
def pair40 : State := wr (pairK 40 0) 0x00292801 (wr (pairK 40 1) 0x0002007D up)
def half (h : Nat) : EvRec := ⟨⟨7, h, 0, 0, 0, false, 136, 136, 0, 0⟩, 1, false, 1, 135, 9, true, false, false, true, false, false, false, false⟩
def joined : State × List EvRec :=
  stitchMark (half 41).tag (stitchMark (half 40).tag (stitchRec (half 41) (stitchRec (half 40) pair40).1).1).1
theorem test_stitched : joined.2.map (fun r => (r.typ, r.tag.head, r.start, r.len)) = [(4, 40, 1, 260)] := by decide
theorem test_stitched_count : rd joined.1 ⟨.ruleG, 0, 8⟩ = 1 := by decide
/-- A later record of a head waits for a candidate of an earlier line (R265). -/
theorem test_line_order : (stitchRec { half 40 with tag := { (half 40).tag with num := 8 }, start := 3, len := 1 } (stitchRec (half 40) pair40).1).2 = [] := by decide
/-- The key of the gate insert 38 m downstream (worked example of R267). -/
theorem test_gate_key : (((51043770 : BitVec 48) + BitVec.ofNat 48 0x001CFDE0).toNat) = 0x0327DB9A := by decide
/-- REG_MODIFY of TILE[3].SPEED_CFG by P0 (worked example of R79): the reply and the new value. -/
def speedCfg : State := offer 0x12 (pk [0x01300014, 0xFFFF, 0x1266]) up
theorem test_modify_reply : (after (exec (.regModify (pk [0x01300014, 0xFFFF, 0x1266])) speedCfg)).out = [.reply 64 0x1000 0 [0x01010000, 0x1000]] := by decide
theorem test_modify_value : rd (after (exec (.regModify (pk [0x01300014, 0xFFFF, 0x1266])) speedCfg)) ⟨.tile, 3, 0x14⟩ = 0x1266 := by decide
/-- The same command from P3: DENIED, naming the address word, and nothing written. -/
def speedCfg3 : State := offer 0x12 (pk3 [0x01300014, 0xFFFF, 0x1266]) tenantUp
theorem test_modify_denied : (after (exec (.regModify (pk3 [0x01300014, 0xFFFF, 0x1266])) speedCfg3)).out = [.reply 8 0 0 [0x01010003, 0]] := by decide
/-- Tile 6 overheats with 0x16F at SAFE (worked example of R409): the record, and SAFE in force. -/
def hot : State := takeReport { hwReport 0x16F none 0x16 0 with d6 := 0x694 } (setF (srk 0x16F 0) 2 0 3 up)
theorem test_hot_record : hot.flt.fifo.map (fun ws => [0, 3, 4, 5, 6, 7].map fun i => ws.getD i 0) = [[0x16F77, 0, 0x0316FE00, 1, 0x694, 0xFF]] := by decide
theorem test_hot_safe : (rf hot (flk 4) 3 1, hot.paused) = (3, true) := by decide
/-- Quadrature ×4, A leading B: forward at each edge (R119). -/
theorem test_quadrature : [edgeCount 3 false false true false, edgeCount 3 true false true true, edgeCount 3 true true false true,
    edgeCount 3 false true false false] = List.replicate 4 (some 1) := by decide
/-- Quadrature ×1 judges by B in the sample before (R119). -/
theorem test_quadrature_one : (edgeCount 1 false false true true, edgeCount 1 false true true false) = (some 1, some (-1)) := by decide
/-- Balls of the worked example of R447, and the counts of R439. -/
theorem test_balls : ballName 56 7 = "BW7" ∧ ballNet 56 7 = .sig (.ffGate 52) ∧ ballName 64 4 = "CG4" ∧ ballNet 64 7 = .sig (.vinP 52) ∧
    ballNet 55 5 = .sig (.supIn 34) ∧ ballNet 53 5 = .sig (.gp 4 20) ∧ ballNet 1 52 = .sig (.vinP 37) ∧ ballNet 11 55 = .sig (.gp 3 6) := by decide
theorem test_ball_counts : ballsOf (· == .vddCore) = 692 ∧ ballsOf (· == .vss) = 1099 ∧ ballsOf (· == .vssa) = 400 := by decide +kernel



theorem witness_NopReplies_1 : ∃ (p : Pkt) (s : State),
    (runs 0x00 p s = true) ∧ (p.pay.length = 0) :=
  ⟨pk [], offer 0x00 (pk []) up, by decide +kernel⟩
theorem witness_NopReplies_2 : ∃ (p : Pkt) (s : State),
    (runs 0x01 p s = true) ∧ (p.pay.length = 0) :=
  ⟨pk [], offer 0x01 (pk []) up, by decide +kernel⟩
theorem witness_NopReplies_3 : ∃ (p : Pkt) (s : State),
    (runs 0x02 p s = true) ∧ (p.pay.length = 0) :=
  ⟨pk [], offer 0x02 (pk []) up, by decide +kernel⟩
theorem witness_RegisterCommandsAct_1 : ∃ (p : Pkt) (s : State),
    (runs 0x10 p s = true) ∧ (p.pay.length = 2) ∧ (1 ≤ fld (word p 1) 7 0) ∧ (fld (word p 1) 7 0 ≤ 254) ∧ (((List.range (fld (word p 1) 7 0)).map fun i => (word p 0).toNat + 4 * i).any badAddr = false) ∧ (((List.range (fld (word p 1) 7 0)).map fun i => (word p 0).toNat + 4 * i).find? (fun x => !mayRead (taken p s) ⟨sender p s, p.q.val, 0⟩ (locate x)) = none) :=
  ⟨pk [0x10, 2], offer 0x10 (pk [0x10, 2]) up, by decide +kernel⟩
theorem witness_RegisterCommandsAct_2 : ∃ (p : Pkt) (s : State),
    (runs 0x13 p s = true) ∧ (p.pay.length = 2) ∧ (1 ≤ fld (word p 1) 7 0) ∧ (fld (word p 1) 7 0 ≤ 254) ∧ (((List.range (fld (word p 1) 7 0)).map fun i => (word p 0).toNat + 4 * i).any badAddr = false) ∧ (sender p s = 0) :=
  ⟨pk [0x10, 254], offer 0x13 (pk [0x10, 254]) up, by decide +kernel⟩
theorem witness_RegisterCommandsAct_3 : ∃ (p : Pkt) (s : State),
    (runs 0x11 p s = true) ∧ (3 ≤ p.pay.length) ∧ (writeRefusal (sender p s) (writeWords p) (taken p s) = false) :=
  ⟨pk [0xC0000, 0xF, 5, 6], offer 0x11 (pk [0xC0000, 0xF, 5, 6]) up, by decide +kernel⟩
theorem witness_RegisterCommandsAct_4 : ∃ (p : Pkt) (s : State),
    (runs 0x12 p s = true) ∧ (p.pay.length = 3) ∧ (badAddr (word p 0).toNat = false) ∧ (writeRefusal (sender p s) [modifyWord p s] (readWord ⟨sender p s, p.q.val, 1⟩ (word p 0).toNat (taken p s)).2 = false) :=
  ⟨pk [0xC0000, 1, 2], offer 0x12 (pk [0xC0000, 1, 2]) up, by decide +kernel⟩
theorem witness_RegisterCommandsAct_5 : ∃ (p : Pkt) (s : State) (x : Nat),
    (runs 0x10 p s = true) ∧ (p.pay.length = 2) ∧ (1 ≤ fld (word p 1) 7 0) ∧ (fld (word p 1) 7 0 ≤ 254) ∧ (((List.range (fld (word p 1) 7 0)).map fun i => (word p 0).toNat + 4 * i).any badAddr = false) ∧ (((List.range (fld (word p 1) 7 0)).map fun i => (word p 0).toNat + 4 * i).find? (fun x => !mayRead (taken p s) ⟨sender p s, p.q.val, 0⟩ (locate x)) = some x) :=
  ⟨pk3 [0x00030000, 1], offer 0x10 (pk3 [0x00030000, 1]) tenantUp, 0x00030000, by decide +kernel⟩
theorem witness_RegisterCommandsAct_6 : ∃ (p : Pkt) (s : State),
    (runs 0x13 p s = true) ∧ (p.pay.length = 2) ∧ (1 ≤ fld (word p 1) 7 0) ∧ (fld (word p 1) 7 0 ≤ 254) ∧ (((List.range (fld (word p 1) 7 0)).map fun i => (word p 0).toNat + 4 * i).any badAddr = false) ∧ (sender p s ≠ 0) :=
  ⟨pk3 [0x00010A00, 1], offer 0x13 (pk3 [0x00010A00, 1]) tenantUp, by decide +kernel⟩
theorem witness_RegisterCommandsAct_7 : ∃ (p : Pkt) (s : State) (o : WOp),
    (runs 0x11 p s = true) ∧ (3 ≤ p.pay.length) ∧ (checkParams (writeWords p) (taken p s) = none) ∧ (deniedAt (sender p s) (writeWords p) (taken p s) = some o) :=
  ⟨pk3 [0x01300014, 0xF, 0x1266], offer 0x11 (pk3 [0x01300014, 0xF, 0x1266]) tenantUp, ⟨0x01300014, 0x1266, 0xFFFFFFFF, 2⟩, by decide +kernel⟩
theorem witness_RegisterCommandsAct_8 : ∃ (p : Pkt) (s : State) (o : WOp),
    (runs 0x12 p s = true) ∧ (p.pay.length = 3) ∧ (badAddr (word p 0).toNat = false) ∧ (checkParams [modifyWord p s] (readWord ⟨sender p s, p.q.val, 1⟩ (word p 0).toNat (taken p s)).2 = none) ∧ (deniedAt (sender p s) [modifyWord p s] (readWord ⟨sender p s, p.q.val, 1⟩ (word p 0).toNat (taken p s)).2 = some o) :=
  ⟨pk3 [0x01300014, 0xFFFF, 0x1266], offer 0x12 (pk3 [0x01300014, 0xFFFF, 0x1266]) tenantUp, ⟨0x01300014, 0x1266, 0xFFFFFFFF, 2⟩, by decide +kernel⟩
theorem witness_PacketsThatMakeNoCommand_1 : ∃ (opc : BitVec 8) (p : Pkt) (s : State),
    (opcodes.contains opc.toNat = false) ∧ (offered opc.toNat p s = true) ∧ (bound s p.q.val = true) :=
  ⟨0x7F, pk [5], offer 0x7F (pk [5]) up, by decide +kernel⟩
theorem witness_PacketsThatMakeNoCommand_2 : ∃ (opc : BitVec 8) (p : Pkt) (s : State),
    (offered opc.toNat p s = true) ∧ (bound s p.q.val = false) :=
  ⟨0x00, pk3 [], offer 0x00 (pk3 []) (setB (qk 8 4) 0 true up), by decide +kernel⟩
theorem witness_PacketsThatMakeNoCommand_3 : ∃ (q : Fin 65) (s : State),
    (turn s = some q.val) ∧ (headWhole s q.val = false) ∧ (bound s q.val = true) :=
  ⟨64, setF (qk 64 0x14) 9 0 1 (offer 0x00 (pk [5, 6]) up), by decide +kernel⟩
theorem witness_LeasesAreTaken_1 : ∃ (p : Pkt) (s : State),
    (runs 0x22 p s = true) ∧ (p.pay.length = 2) ∧ (leaseValid (fld (word p 0) 6 0) = true) ∧ (1 ≤ fld (word p 1) 9 0) ∧ (fld (word p 1) 9 0 ≤ 1000) ∧ (leaseUser (taken p s) (sender p s) (fld (word p 0) 6 0) = true) ∧ ((match leaseOf (taken p s) (fld (word p 0) 6 0) with | some x => x.holder == sender p s | none => true) = true) :=
  ⟨pk [3, 1000], offer 0x22 (pk [3, 1000]) up, by decide +kernel⟩
theorem witness_LeasesAreTaken_2 : ∃ (p : Pkt) (s : State),
    (runs 0x23 p s = true) ∧ (p.pay.length = 1) ∧ (bit (word p 0) 31 = false) ∧ (leaseValid (fld (word p 0) 6 0) = true) ∧ (holds (taken p s) (fld (word p 0) 6 0) (sender p s) = true) :=
  ⟨pk [3], offer 0x23 (pk [3]) { up with leases := [⟨3, 0, 5⟩] }, by decide +kernel⟩
theorem witness_LeasesAreTaken_3 : ∃ (p : Pkt) (s : State),
    (runs 0x23 p s = true) ∧ (p.pay.length = 1) ∧ (bit (word p 0) 31 = true) ∧ (leaseValid (fld (word p 0) 6 0) = true) ∧ (sender p s = 0) :=
  ⟨pk [0x80000003], offer 0x23 (pk [0x80000003]) { up with leases := [⟨3, 5, 5⟩] }, by decide +kernel⟩
theorem witness_QuotasAreSet_1 : ∃ (p : Pkt) (s : State),
    (runs 0x24 p s = true) ∧ (p.pay.length = 2) ∧ (bit (word p 0) 8 = false) ∧ (fld (word p 0) 11 9 = 0) ∧ (fld (word p 1) 17 0 ≤ 131072) ∧ (sender p s = 0) :=
  ⟨pk [3, 131072], offer 0x24 (pk [3, 131072]) up, by decide +kernel⟩
theorem witness_QuotasAreSet_2 : ∃ (p : Pkt) (s : State),
    (runs 0x24 p s = true) ∧ (p.pay.length = 2) ∧ (bit (word p 0) 8 = true) ∧ (fld (word p 1) 17 0 ≤ 4096) ∧ (sender p s = 0) ∧ (rf (taken p s) ⟨.part, 0, 0x400 + 32 * fld (word p 0) 4 0 + 4 * fld (word p 0) 11 9⟩ 12 0 ≤ fld (word p 1) 17 0 ∨ credUsed (taken p s) (fld (word p 0) 4 0) (fld (word p 0) 11 9) ≤ fld (word p 1) 17 0) :=
  ⟨pk [0xF03, 4096], offer 0x24 (pk [0xF03, 4096]) up, by decide +kernel⟩
theorem witness_QuotasAreSet_3 : ∃ (p : Pkt) (s : State),
    (runs 0x24 p s = true) ∧ (p.pay.length = 2) ∧ ((bit (word p 0) 8 || fld (word p 0) 11 9 == 0) = true) ∧ (fld (word p 1) 17 0 ≤ (if bit (word p 0) 8 then 4096 else 131072)) ∧ (sender p s ≠ 0) :=
  ⟨pk3 [3, 131072], offer 0x24 (pk3 [3, 131072]) tenantUp, by decide +kernel⟩
theorem witness_ResourcesChangeOwner_1 : ∃ (p : Pkt) (s : State),
    (runs 0x20 p s = true) ∧ (p.pay.length = 2) ∧ (names64 (cmdOf 0x20 p s) = false) ∧ (rangeBad (cmdOf 0x20 p s) = none) ∧ ((fld (word p 0) 7 0 == 1 && (rangeOf (cmdOf 0x20 p s)).any (fun q => q != 64 && roleOf (taken p s) (q / 8) != 1)) = false) ∧ (sender p s = 0) ∧ ((if isUseSet (fld (word p 0) 7 0) then none else firstOf (rangeOf (cmdOf 0x20 p s)) fun i => ownerOf (taken p s) (fld (word p 0) 7 0) i != 0) = none) ∧ ((if fld (word p 0) 7 0 = 1 then firstOf (rangeOf (cmdOf 0x20 p s)) fun q => q == (taken p s).bootQ || q == 64 else none) = none) ∧ ((if fld (word p 0) 7 0 = 1 then firstOf (rangeOf (cmdOf 0x20 p s)) (queueWork (taken p s)) else none) = none) ∧ (firstOf (rangeOf (cmdOf 0x20 p s)) (indexHeld (taken p s) (fld (word p 0) 7 0)) = none) :=
  ⟨pk [0x302, 0x20000], offer 0x20 (pk [0x302, 0x20000]) up, by decide +kernel⟩
theorem witness_ResourcesChangeOwner_2 : ∃ (p : Pkt) (s : State),
    (runs 0x21 p s = true) ∧ (p.pay.length = 2) ∧ (names64 (cmdOf 0x21 p s) = false) ∧ (rangeBad (cmdOf 0x21 p s) = none) ∧ ((sender p s != 0 && fld (word p 0) 12 8 != sender p s) = false) ∧ ((if fld (word p 0) 7 0 = 1 then firstOf (rangeOf (cmdOf 0x21 p s)) fun q => q == (taken p s).bootQ || q == 64 else none) = none) ∧ ((firstOf (rangeOf (cmdOf 0x21 p s)) fun i => !ownsIdx (taken p s) (fld (word p 0) 7 0) (fld (word p 0) 12 8) i) = none) ∧ ((if fld (word p 0) 7 0 = 1 then firstOf (rangeOf (cmdOf 0x21 p s)) (queueWork (taken p s)) else none) = none) ∧ (firstOf (rangeOf (cmdOf 0x21 p s)) (indexHeld (taken p s) (fld (word p 0) 7 0)) = none) :=
  ⟨pk [0x302, 0x20000], offer 0x21 (pk [0x302, 0x20000]) (setOwner 2 0 3 (setOwner 2 1 3 up)), by decide +kernel⟩
theorem witness_ResourcesChangeOwner_3 : ∃ (p : Pkt) (s : State),
    (runs 0x20 p s = true) ∧ (p.pay.length = 2) ∧ (names64 (cmdOf 0x20 p s) = false) ∧ (rangeBad (cmdOf 0x20 p s) = none) ∧ ((fld (word p 0) 7 0 == 1 && (rangeOf (cmdOf 0x20 p s)).any (fun q => q != 64 && roleOf (taken p s) (q / 8) != 1)) = false) ∧ (sender p s ≠ 0) :=
  ⟨pk3 [0x302, 0x20000], offer 0x20 (pk3 [0x302, 0x20000]) tenantUp, by decide +kernel⟩
theorem witness_ResourcesChangeOwner_4 : ∃ (c p i j : Nat) (s : State),
    (isUseSet c = false) ∧ (j < 65536) ∧ (i < 65536) :=
  ⟨2, 3, 0, 1, up, by decide +kernel⟩
theorem witness_ResourcesChangeOwner_5 : ∃ (c p i : Nat) (s : State),
    (isUseSet c = true) ∧ (p < 32) ∧ (c = 0x0F ∨ i < 8) :=
  ⟨6, 3, 7, up, by decide +kernel⟩
theorem witness_ResourcesChangeOwner_6 : ∃ (p i : Nat) (s : State),
    (p < 32) ∧ (i < 64) :=
  ⟨3, 8, up, by decide +kernel⟩
theorem witness_ResourcesChangeOwner_7 : ∃ (c p i : Nat) (s : State),
    (isUseSet c = false) :=
  ⟨2, 3, 0, up, by decide +kernel⟩
theorem witness_ResourcesChangeOwner_8 : ∃ (c p i : Nat) (s : State),
    (isUseSet c = true) ∧ (p < 32) :=
  ⟨6, 3, 7, up, by decide +kernel⟩
theorem witness_PartResetBegins_1 : ∃ (p : Pkt) (s : State),
    (runs 0x25 p s = true) ∧ (p.pay.length = 1) ∧ (fld (word p 0) 4 0 ≠ 0) ∧ ((sender p s != 0 && sender p s != fld (word p 0) 4 0) = false) ∧ ((resetOp (taken p s) (fld (word p 0) 4 0)).isSome = false) ∧ (opsFull (taken p s) p.q.val = false) :=
  ⟨pk [3], offer 0x25 (pk [3]) up, by decide +kernel⟩
theorem witness_PartResetBegins_2 : ∃ (part : Part) (o : LongOp) (s : State),
    (live s = true) ∧ (resetOp s part.toNat = some o) ∧ (opOf s o.q o.tag = some o) ∧ (canComplete o 0 s = true) :=
  ⟨3, ⟨64, 1, false, 0, .partReset 3, none, false⟩, { up with ops := [⟨64, 1, false, 0, .partReset 3, none, false⟩] }, by decide +kernel⟩
theorem witness_PartResetBegins_3 : ∃ (part : Part) (o : LongOp) (s : State),
    (live s = true) ∧ (resetOp s part.toNat = some o) ∧ (opOf s o.q o.tag = some o) ∧ (canComplete o 0 s = false) :=
  ⟨3, ⟨64, 1, false, 0, .partReset 3, none, false⟩, { up with halted := true, ops := [⟨64, 1, false, 0, .partReset 3, none, false⟩] }, by decide +kernel⟩
theorem witness_PartResetBegins_4 : ∃ (part : Part) (s : State),
    (live s = true) ∧ (resetOp s part.toNat = none) :=
  ⟨3, up, by decide +kernel⟩
theorem witness_PartResetBegins_6 : ∃ (p : Nat) (s : State) (x : Lease),
    (x ∈ (leasesEnd p s).leases) :=
  ⟨3, { up with leases := [⟨0, 2, 5⟩] }, ⟨0, 2, 5⟩, by decide +kernel⟩
theorem witness_DoorbellMovesTail_1 : ∃ (q : Fin 65) (v : Word) (s : State),
    ((if q.val = 64 then live s && s.rails.getLsbD 24 else hostOn s (q.val / 8)) = true) ∧ (fld v 31 10 = 0) ∧ (q.val = 64 ∨ rb s (qk q.val 4) 0 = true) ∧ (waitingWords s q.val ≤ (fld v 9 0 + 1024 - rf s (qk q.val 0x10) 9 0) % 1024) :=
  ⟨64, 5, up, by decide +kernel⟩
theorem witness_DoorbellMovesTail_2 : ∃ (q : Fin 65) (v : Word) (s : State),
    ((if q.val = 64 then live s && s.rails.getLsbD 24 else hostOn s (q.val / 8)) = true) ∧ (fld v 31 10 ≠ 0 ∨ (q.val ≠ 64 ∧ rb s (qk q.val 4) 0 = false) ∨ (fld v 9 0 + 1024 - rf s (qk q.val 0x10) 9 0) % 1024 < waitingWords s q.val) :=
  ⟨64, 1024, up, by decide +kernel⟩
theorem witness_DoorbellMovesTail_3 : ∃ (q : Fin 64) (v : Word) (be : BitVec 4) (s : State),
    (hostOn s (q.val / 8) = true) ∧ (rb s (qk q.val 4) 0 = false) ∧ (bit (mergeReg (qk q.val 4) (rd s (qk q.val 4)) v (byteMask be)) 0 = true) :=
  ⟨8, 1, 0xF, { setF ⟨.pmode, 1, 0⟩ 1 0 1 up with links := Vector.replicate 8 { Link.reset with up := true, bme := true, mse := true } }, by decide +kernel⟩
theorem witness_DoorbellMovesTail_4 : ∃ (q : Fin 64) (v : Word) (be : BitVec 4) (s : State),
    (hostOn s (q.val / 8) = true) ∧ (rb s (qk q.val 4) 0 = true) ∧ (bit (mergeReg (qk q.val 4) (rd s (qk q.val 4)) v (byteMask be)) 0 = false) ∧ (waitingWords s q.val ≠ 0) :=
  ⟨8, 0, 0xF, { setB (qk 8 4) 0 true (setF (qk 8 0x14) 9 0 1 (setF ⟨.pmode, 1, 0⟩ 1 0 1 up)) with links := Vector.replicate 8 { Link.reset with up := true, bme := true, mse := true } }, by decide +kernel⟩
theorem witness_DoorbellMovesTail_5 : ∃ (q : Fin 64) (v : Word) (be : BitVec 4) (s : State),
    (hostOn s (q.val / 8) = true) ∧ (rb s (qk q.val 4) 0 = true) ∧ (bit (mergeReg (qk q.val 4) (rd s (qk q.val 4)) v (byteMask be)) 0 = false) ∧ ((s.ops.any fun o => o.q == q.val) = true) :=
  ⟨8, 0, 0xF, { setB (qk 8 4) 0 true (setF ⟨.pmode, 1, 0⟩ 1 0 1 up) with links := Vector.replicate 8 { Link.reset with up := true, bme := true, mse := true }, ops := [⟨8, 1, false, 0, .partReset 3, none, false⟩] }, by decide +kernel⟩
theorem witness_DoorbellMovesTail_6 : ∃ (q : Fin 64) (v : Word) (be : BitVec 4) (s : State),
    (hostOn s (q.val / 8) = true) ∧ (rb s (qk q.val 4) 0 = true) ∧ (bit (mergeReg (qk q.val 4) (rd s (qk q.val 4)) v (byteMask be)) 0 = false) ∧ (waitingWords s q.val = 0) ∧ ((s.ops.any fun o => o.q == q.val) = false) :=
  ⟨8, 0, 0xF, { setB (qk 8 4) 0 true (setF ⟨.pmode, 1, 0⟩ 1 0 1 up) with links := Vector.replicate 8 { Link.reset with up := true, bme := true, mse := true } }, by decide +kernel⟩
theorem witness_RegisterWriteStores_1 : ∃ (q : Fin 65) (k : RKey) (v : Word) (m : BitVec 4) (s : State),
    (writable q.val k v m s = true) ∧ (locate k.addr = .reg k) ∧ (k.addr < 2 ^ 32) :=
  ⟨64, ⟨.fil, 5, 8⟩, 0, 0xF, up, by decide +kernel⟩
theorem witness_RegisterWriteStores_2 : ∃ (q : Fin 65) (k : RKey) (v : Word) (s : State),
    (writable q.val k v 0xF s = true) ∧ (locate k.addr = .reg k) ∧ (k.addr < 2 ^ 32) :=
  ⟨64, ⟨.enc, 3, 4⟩, 0xC, up, by decide +kernel⟩
theorem witness_RegisterWriteStores_3 : ∃ (port : Fin 8) (off : BitVec 16) (v : Word) (m : BitVec 4) (s : State),
    (hostOn s port.val = true) ∧ (0x8000 ≤ off.toNat) ∧ (off.toNat < 0x8010) :=
  ⟨1, 0x8008, 1, 0xF, { setF ⟨.pmode, 1, 0⟩ 1 0 1 up with links := Vector.replicate 8 { Link.reset with up := true, bme := true, mse := true } }, by decide +kernel⟩
theorem witness_RegisterWriteStores_4 : ∃ (k : RKey) (old v m : Word) (i : Nat),
    (bit (accMask [.w1c] k) i = true) ∧ (i < 32) :=
  ⟨⟨.enc, 3, 4⟩, 0, 0, 0, 2, by decide +kernel⟩
theorem witness_RegisterWriteStores_5 : ∃ (k : RKey) (old v m : Word) (i : Nat),
    (bit (accMask [.rw, .rwl, .wos] k) i = false) ∧ (bit (accMask [.w1c] k) i = false) :=
  ⟨⟨.enc, 3, 8⟩, 0, 0, 0, 2, by decide +kernel⟩
theorem witness_RegisterWriteStores_6 : ∃ (port : Fin 8) (off : BitVec 16) (v : Word) (m : BitVec 4) (s : State),
    (hostOn s port.val = true) ∧ (off.toNat < 0x8000) ∧ (True) :=
  ⟨1, 0x1008, 1, 0xF, { setF ⟨.pmode, 1, 0⟩ 1 0 1 up with step1 := true, links := Vector.replicate 8 { Link.reset with up := true, bme := true, mse := true, perst := true } }, by decide +kernel⟩
theorem witness_RegisterWriteStores_7 : ∃ (port : Fin 8) (off : BitVec 16) (v : Word) (m : BitVec 4) (s : State),
    (hostOn s port.val = true) ∧ (0x8100 ≤ off.toNat) ∧ (off.toNat < 0x8300) ∧ ((off.toNat % 0x40 / 4 * 4) ≠ 0x18) ∧ ((off.toNat % 0x40 / 4 * 4) ≠ 4) ∧ ((fieldsOf .qcb (off.toNat % 0x40 / 4 * 4)).isSome = true) :=
  ⟨1, 0x8120, 1, 0xF, { setF ⟨.pmode, 1, 0⟩ 1 0 1 up with step1 := true, links := Vector.replicate 8 { Link.reset with up := true, bme := true, mse := true, perst := true } }, by decide +kernel⟩
theorem witness_RegisterWriteStores_8 : ∃ (port : Fin 8) (off : BitVec 16) (v : Word) (m : BitVec 4) (s : State),
    (hostOn s port.val = true) ∧ (0x8100 ≤ off.toNat) ∧ (off.toNat < 0x8300) ∧ ((off.toNat % 0x40 / 4 * 4) ≠ 0x18) ∧ ((off.toNat % 0x40 / 4 * 4) ≠ 4) ∧ ((fieldsOf .qcb (off.toNat % 0x40 / 4 * 4)).isSome = false) :=
  ⟨1, 0x813C, 1, 0xF, { setF ⟨.pmode, 1, 0⟩ 1 0 1 up with step1 := true, links := Vector.replicate 8 { Link.reset with up := true, bme := true, mse := true, perst := true } }, by decide +kernel⟩
theorem witness_RegisterWriteStores_9 : ∃ (port : Fin 8) (off : BitVec 16) (v : Word) (m : BitVec 4) (s : State),
    (hostOn s port.val = true) ∧ (0x9000 ≤ off.toNat) ∧ (off.toNat < 0x9100) :=
  ⟨1, 0x900C, 1, 0xF, { setF ⟨.pmode, 1, 0⟩ 1 0 1 up with step1 := true, links := Vector.replicate 8 { Link.reset with up := true, bme := true, mse := true, perst := true } }, by decide +kernel⟩
theorem witness_RegisterWriteStores_10 : ∃ (port : Fin 8) (off : BitVec 16) (v : Word) (m : BitVec 4) (s : State),
    (hostOn s port.val = true) ∧ (0x8010 ≤ off.toNat) ∧ (off.toNat < 0x8100 ∨ (0x8300 ≤ off.toNat ∧ off.toNat < 0x9000) ∨ 0x9100 ≤ off.toNat) :=
  ⟨1, 0x8020, 1, 0xF, { setF ⟨.pmode, 1, 0⟩ 1 0 1 up with step1 := true, links := Vector.replicate 8 { Link.reset with up := true, bme := true, mse := true, perst := true } }, by decide +kernel⟩
theorem witness_RegisterWriteStores_11 : ∃ (port : Fin 8) (off : BitVec 16) (v : Word) (m : BitVec 4) (s : State),
    (hostOn s port.val = false) :=
  ⟨1, 0x1008, 1, 0xF, up, by decide +kernel⟩
theorem witness_RegisterWriteStores_12 : ∃ (port : Fin 8) (v old : Word) (m : BitVec 4) (s : State),
    (live s = true) ∧ ((link s port.val).up = true) ∧ (cfgRead s port.val .command = some old) :=
  ⟨1, 1, (cfgRead ({ setF ⟨.pmode, 1, 0⟩ 1 0 1 up with step1 := true, links := Vector.replicate 8 { Link.reset with up := true, bme := true, mse := true, perst := true } }) 1 .command).getD 0, 0xF, { setF ⟨.pmode, 1, 0⟩ 1 0 1 up with step1 := true, links := Vector.replicate 8 { Link.reset with up := true, bme := true, mse := true, perst := true } }, by decide +kernel⟩
theorem witness_RegisterWriteStores_13 : ∃ (port : Fin 8) (v old : Word) (m : BitVec 4) (s : State),
    (live s = true) ∧ ((link s port.val).up = true) ∧ (cfgRead s port.val .bar0Lo = some old) :=
  ⟨1, 1, (cfgRead ({ setF ⟨.pmode, 1, 0⟩ 1 0 1 up with step1 := true, links := Vector.replicate 8 { Link.reset with up := true, bme := true, mse := true, perst := true } }) 1 .bar0Lo).getD 0, 0xF, { setF ⟨.pmode, 1, 0⟩ 1 0 1 up with step1 := true, links := Vector.replicate 8 { Link.reset with up := true, bme := true, mse := true, perst := true } }, by decide +kernel⟩
theorem witness_RegisterWriteStores_14 : ∃ (port : Fin 8) (v old : Word) (m : BitVec 4) (s : State),
    (live s = true) ∧ ((link s port.val).up = true) ∧ (cfgRead s port.val .bar0Hi = some old) :=
  ⟨1, 1, (cfgRead ({ setF ⟨.pmode, 1, 0⟩ 1 0 1 up with step1 := true, links := Vector.replicate 8 { Link.reset with up := true, bme := true, mse := true, perst := true } }) 1 .bar0Hi).getD 0, 0xF, { setF ⟨.pmode, 1, 0⟩ 1 0 1 up with step1 := true, links := Vector.replicate 8 { Link.reset with up := true, bme := true, mse := true, perst := true } }, by decide +kernel⟩
theorem witness_RegisterWriteStores_15 : ∃ (port : Fin 8) (v old : Word) (m : BitVec 4) (s : State),
    (live s = true) ∧ ((link s port.val).up = true) ∧ (cfgRead s port.val .bar2Lo = some old) :=
  ⟨1, 1, (cfgRead ({ setF ⟨.pmode, 1, 0⟩ 1 0 1 up with step1 := true, links := Vector.replicate 8 { Link.reset with up := true, bme := true, mse := true, perst := true } }) 1 .bar2Lo).getD 0, 0xF, { setF ⟨.pmode, 1, 0⟩ 1 0 1 up with step1 := true, links := Vector.replicate 8 { Link.reset with up := true, bme := true, mse := true, perst := true } }, by decide +kernel⟩
theorem witness_RegisterWriteStores_16 : ∃ (port : Fin 8) (v old : Word) (m : BitVec 4) (s : State),
    (live s = true) ∧ ((link s port.val).up = true) ∧ (cfgRead s port.val .bar2Hi = some old) :=
  ⟨1, 1, (cfgRead ({ setF ⟨.pmode, 1, 0⟩ 1 0 1 up with step1 := true, links := Vector.replicate 8 { Link.reset with up := true, bme := true, mse := true, perst := true } }) 1 .bar2Hi).getD 0, 0xF, { setF ⟨.pmode, 1, 0⟩ 1 0 1 up with step1 := true, links := Vector.replicate 8 { Link.reset with up := true, bme := true, mse := true, perst := true } }, by decide +kernel⟩
theorem witness_RegisterWriteStores_17 : ∃ (port : Fin 8) (v old : Word) (m : BitVec 4) (s : State),
    (live s = true) ∧ ((link s port.val).up = true) ∧ (cfgRead s port.val .deviceControl = some old) :=
  ⟨1, 0x5040, (cfgRead ({ setF ⟨.pmode, 1, 0⟩ 1 0 1 up with step1 := true, links := Vector.replicate 8 { Link.reset with up := true, bme := true, mse := true, perst := true } }) 1 .deviceControl).getD 0, 0xF, { setF ⟨.pmode, 1, 0⟩ 1 0 1 up with step1 := true, links := Vector.replicate 8 { Link.reset with up := true, bme := true, mse := true, perst := true } }, by decide +kernel⟩
theorem witness_RegisterWriteStores_18 : ∃ (port : Fin 8) (v old : Word) (m : BitVec 4) (s : State),
    (live s = true) ∧ ((link s port.val).up = true) ∧ (cfgRead s port.val .powerControl = some old) ∧ (fld (blend old v (byteMask m)) 1 0 ≠ 0) ∧ (fld (blend old v (byteMask m)) 1 0 ≠ 3) :=
  ⟨1, 1, (cfgRead ({ setF ⟨.pmode, 1, 0⟩ 1 0 1 up with step1 := true, links := Vector.replicate 8 { Link.reset with up := true, bme := true, mse := true, perst := true } }) 1 .powerControl).getD 0, 0xF, { setF ⟨.pmode, 1, 0⟩ 1 0 1 up with step1 := true, links := Vector.replicate 8 { Link.reset with up := true, bme := true, mse := true, perst := true } }, by decide +kernel⟩
theorem witness_RegisterWriteStores_19 : ∃ (port : Fin 8) (v old : Word) (m : BitVec 4) (s : State),
    (live s = true) ∧ ((link s port.val).up = true) ∧ (cfgRead s port.val .msixControl = some old) :=
  ⟨1, 0x8000, (cfgRead ({ setF ⟨.pmode, 1, 0⟩ 1 0 1 up with step1 := true, links := Vector.replicate 8 { Link.reset with up := true, bme := true, mse := true, perst := true } }) 1 .msixControl).getD 0, 0xF, { setF ⟨.pmode, 1, 0⟩ 1 0 1 up with step1 := true, links := Vector.replicate 8 { Link.reset with up := true, bme := true, mse := true, perst := true } }, by decide +kernel⟩
theorem witness_RegisterWriteStores_20 : ∃ (port : Fin 8) (v old : Word) (m : BitVec 4) (s : State),
    (live s = true) ∧ ((link s port.val).up = true) ∧ (cfgRead s port.val .powerControl = some old) ∧ (fld (blend old v (byteMask m)) 1 0 = 0) :=
  ⟨1, 0, (cfgRead ({ setF ⟨.pmode, 1, 0⟩ 1 0 1 up with step1 := true, links := Vector.replicate 8 { Link.reset with up := true, bme := true, mse := true, perst := true } }) 1 .powerControl).getD 0, 0xF, { setF ⟨.pmode, 1, 0⟩ 1 0 1 up with step1 := true, links := Vector.replicate 8 { Link.reset with up := true, bme := true, mse := true, perst := true } }, by decide +kernel⟩
theorem witness_RegisterWriteStores_21 : ∃ (port : Fin 8) (v old : Word) (m : BitVec 4) (s : State),
    (live s = true) ∧ ((link s port.val).up = true) ∧ (cfgRead s port.val .powerControl = some old) ∧ (fld (blend old v (byteMask m)) 1 0 = 3) :=
  ⟨1, 3, (cfgRead ({ setF ⟨.pmode, 1, 0⟩ 1 0 1 up with step1 := true, links := Vector.replicate 8 { Link.reset with up := true, bme := true, mse := true, perst := true } }) 1 .powerControl).getD 0, 0xF, { setF ⟨.pmode, 1, 0⟩ 1 0 1 up with step1 := true, links := Vector.replicate 8 { Link.reset with up := true, bme := true, mse := true, perst := true } }, by decide +kernel⟩
theorem witness_RegisterWriteStores_22 : ∃ (port : Fin 8) (r : CfgReg) (v : Word) (m : BitVec 4) (s : State),
    (live s = true) ∧ ([CfgReg.ident, .classCode, .deviceCap, .linkCap, .linkCap2, .powerCap, .msixTable, .msixPba, .aer].contains r = true) :=
  ⟨1, .ident, 1, 0xF, up, by decide +kernel⟩
theorem witness_RegisterWriteStores_23 : ∃ (port : Fin 8) (r : CfgReg) (v : Word) (m : BitVec 4) (s : State),
    (live s = true) ∧ (cfgReady s port.val = false ∨ (link s port.val).up = false) :=
  ⟨1, .command, 1, 0xF, up, by decide +kernel⟩
theorem witness_RegisterReadsReturn_1 : ∃ (q : Fin 65) (s : State),
    (serving s = true) ∧ (bound s q.val = true) :=
  ⟨64, { up with tb := 2 ^ 40 + 7 }, by decide +kernel⟩
theorem witness_RegisterReadsReturn_2 : ∃ (q : Fin 65) (addr : Word) (k : RKey) (x : Word × Word) (s : State),
    (serving s = true) ∧ (bound s q.val = true) ∧ (addr.toNat % 4 = 0) ∧ (locate addr.toNat = .reg k) ∧ (latchValue s k = some x) ∧ ((fieldsOf k.blk k.off).isSome = true) ∧ (mayRead s ⟨partOf s q.val, q.val, 0⟩ (.reg k) = true) :=
  ⟨64, 0x51014, ⟨.ax, 0, 0x14⟩, (0, 0), up, by decide +kernel⟩
theorem witness_RegisterReadsReturn_3 : ∃ (q : Fin 65) (i : Fin 512) (s : State),
    (serving s = true) ∧ (bound s q.val = true) :=
  ⟨64, 511, up, by decide +kernel⟩
theorem witness_RegisterReadsReturn_4 : ∃ (q : Fin 65) (t : Fin 8) (s : State),
    (serving s = true) ∧ (bound s q.val = true) ∧ (mayRead s ⟨partOf s q.val, q.val, 0⟩ (.reg (tk t.val 0x140)) = true) :=
  ⟨64, 2, up, by decide +kernel⟩
theorem witness_RegisterReadsReturn_5 : ∃ (q : Fin 65) (t : Fin 8) (s : State),
    (serving s = true) ∧ (bound s q.val = true) ∧ (mayRead s ⟨partOf s q.val, q.val, 0⟩ (.reg (tk t.val 0x10)) = true) :=
  ⟨64, 2, up, by decide +kernel⟩
theorem witness_RegisterReadsReturn_6 : ∃ (q : Fin 65) (s : State),
    (serving s = true) ∧ (bound s q.val = true) ∧ (mayRead s ⟨partOf s q.val, q.val, 0⟩ (.reg (pqk 0xC)) = true) :=
  ⟨64, up, by decide +kernel⟩
theorem witness_RegisterReadsReturn_7 : ∃ (q : Fin 65) (s : State),
    (serving s = true) ∧ (bound s q.val = true) ∧ (mayRead s ⟨partOf s q.val, q.val, 0⟩ (.reg (pqk 0x10)) = true) :=
  ⟨64, up, by decide +kernel⟩
theorem witness_RegisterReadsReturn_8 : ∃ (q : Fin 65) (k : Fin 8) (s : State),
    (serving s = true) ∧ (bound s q.val = true) ∧ (mayRead s ⟨partOf s q.val, q.val, 0⟩ (.reg (stk k.val 0x20)) = true) :=
  ⟨64, 2, up, by decide +kernel⟩
theorem witness_RegisterReadsReturn_9 : ∃ (q : Fin 65) (n : Fin 96) (s : State),
    (serving s = true) ∧ (bound s q.val = true) ∧ (mayRead s ⟨partOf s q.val, q.val, 0⟩ (.reg (ffk n.val 0x10)) = true) :=
  ⟨64, 2, up, by decide +kernel⟩
theorem witness_RegisterReadsReturn_10 : ∃ (q : Fin 65) (m : Fin 4) (s : State),
    (serving s = true) ∧ (bound s q.val = true) ∧ (mayRead s ⟨partOf s q.val, q.val, 0⟩ (.reg (⟨.mover, m.val, 0⟩ : RKey)) = true) ∧ (vget s.movers m.val = none) :=
  ⟨64, 2, up, by decide +kernel⟩
theorem witness_RegisterReadsReturn_11 : ∃ (q : Fin 65) (m : Fin 4) (c : Nat) (s : State),
    (serving s = true) ∧ (bound s q.val = true) ∧ (mayRead s ⟨partOf s q.val, q.val, 0⟩ (.reg (⟨.mover, m.val, 0⟩ : RKey)) = true) ∧ (vget s.movers m.val = some c) :=
  ⟨64, 2, 5, { up with movers := vset up.movers 2 (some 5) }, by decide +kernel⟩
theorem witness_ControlRegisterWrites_1 : ∃ (q : Fin 65) (a : Fin 8) (s : State),
    (writable q.val (ak a.val 0xC) (1) 0xF s = true) :=
  ⟨64, 2, { up with leases := [⟨10, 0, 5⟩] }, by decide +kernel⟩
theorem witness_ControlRegisterWrites_2 : ∃ (q : Fin 65) (a : Fin 8) (s : State),
    (writable q.val (ak a.val 0xC) (2) 0xF s = true) :=
  ⟨64, 2, { up with leases := [⟨10, 0, 5⟩] }, by decide +kernel⟩
theorem witness_ControlRegisterWrites_3 : ∃ (q : Fin 65) (a : Fin 8) (v : Word) (s : State),
    (writable q.val (ak a.val 0x24) (v) 0xF s = true) :=
  ⟨64, 2, 7, { up with leases := [⟨10, 0, 5⟩] }, by decide +kernel⟩
theorem witness_ControlRegisterWrites_4 : ∃ (q : Fin 65) (t : Fin 8) (v : Word) (s : State),
    (writable q.val (tk t.val 0) (v) 0xF s = true) ∧ (bit v 16 = true) :=
  ⟨64, 2, 0x00010101, up, by decide +kernel⟩
theorem witness_ControlRegisterWrites_5 : ∃ (q : Fin 65) (t : Fin 8) (v : Word) (s : State),
    (writable q.val (tk t.val 0) (v) 0xF s = true) ∧ (bit v 16 = false) :=
  ⟨64, 2, 0x00000101, up, by decide +kernel⟩
theorem witness_ControlRegisterWrites_6 : ∃ (q : Fin 65) (n : Fin 96) (s : State),
    (writable q.val (ffk n.val 0) (1) 0xF s = true) ∧ (rb s (ffk n.val 0) 0 = false) :=
  ⟨64, 95, up, by decide +kernel⟩
theorem witness_ControlRegisterWrites_7 : ∃ (q : Fin 65) (n : Fin 96) (s : State),
    (writable q.val (ffk n.val 0) (0) 0xF s = true) ∧ (rb s (ffk n.val 0) 0 = true) :=
  ⟨64, 95, setB (ffk 95 0) 0 true up, by decide +kernel⟩
theorem witness_ControlRegisterWrites_8 : ∃ (q : Fin 65) (t : Fin 8) (v : Word) (s : State),
    (writable q.val (tk t.val 0x308) (v) 0xF s = true) :=
  ⟨64, 2, 0x0FF, { up with leases := [⟨2, 0, 5⟩] }, by decide +kernel⟩
theorem witness_ControlRegisterWrites_9 : ∃ (q : Fin 65) (n : Fin 96) (v : Word) (s : State),
    (writable q.val (tlk n.val 0x100) (v) 0xF s = true) :=
  ⟨64, 95, 100, up, by decide +kernel⟩
theorem witness_ControlRegisterWrites_10 : ∃ (q : Fin 65) (z : Fin 1024) (s : State),
    (writable q.val (zk z.val 0) (1) 0xF s = true) :=
  ⟨64, 1023, up, by decide +kernel⟩
theorem witness_ControlRegisterWrites_11 : ∃ (q : Fin 65) (z : Fin 1024) (s : State),
    (writable q.val (zk z.val 0) (0) 0xF s = true) ∧ (rb s (zk z.val 0) 0 = true) :=
  ⟨64, 1023, setB (zk 1023 0) 0 true up, by decide +kernel⟩
theorem witness_ControlRegisterWrites_12 : ∃ (q : Fin 65) (part : Part) (v : Word) (s : State),
    (writable q.val (rrk part.toNat 0) v 0xF s = true) ∧ (bit v 0 = true) ∧ (rb s (rrk part.toNat 0) 0 = false) :=
  ⟨64, 0, 0x00100101, up, by decide +kernel⟩
theorem witness_ControlRegisterWrites_13 : ∃ (q : Fin 65) (c : Fin 64) (s : State),
    (writable q.val (dmk c.val 0) (BitVec.ofNat 32 true.toNat) 0xF s = true) :=
  ⟨64, 5, up, by decide +kernel⟩
theorem witness_ControlRegisterWrites_14 : ∃ (q : Fin 65) (c : Fin 64) (s : State),
    (writable q.val (dmk c.val 0) (BitVec.ofNat 32 false.toNat) 0xF s = true) ∧ (rb s (dmk c.val 0) 0 = true) :=
  ⟨64, 5, setB (dmk 5 0) 0 true up, by decide +kernel⟩
theorem witness_ControlRegisterWrites_15 : ∃ (q : Fin 65) (b : Fin 8) (v : Word) (s : State),
    (writable q.val (bk b.val 0) (v) 0xF s = true) :=
  ⟨64, 2, 0xFF, up, by decide +kernel⟩
theorem witness_ControlRegisterWrites_16 : ∃ (q : Fin 65) (b : Fin 8) (v : Word) (s : State),
    (writable q.val (bk b.val 4) (v) 0xF s = true) :=
  ⟨64, 2, 0xFF, up, by decide +kernel⟩
theorem witness_ControlRegisterWrites_17 : ∃ (q : Fin 65) (k : Fin 8) (v : Word) (s : State),
    (writable q.val (iqk k.val 0) (v) 0xF s = true) :=
  ⟨64, 2, 5, up, by decide +kernel⟩
theorem witness_ControlRegisterWrites_18 : ∃ (q : Fin 65) (s : State),
    (writable q.val (pwrK) (0) 0xF s = true) :=
  ⟨64, up, by decide +kernel⟩
theorem witness_ControlRegisterWrites_19 : ∃ (q : Fin 65) (s : State),
    (writable q.val (pwrK) (1) 0xF s = true) :=
  ⟨64, up, by decide +kernel⟩
theorem witness_ControlRegisterWrites_20 : ∃ (q : Fin 65) (s : State),
    (writable q.val (pwrK) (2) 0xF s = true) :=
  ⟨64, up, by decide +kernel⟩
theorem witness_ControlRegisterWrites_26 : ∃ (c : Fin 64) (s : State),
    (dmaState s c.val ≠ 4) :=
  ⟨5, up, by decide +kernel⟩
theorem witness_ControlRegisterWrites_27 : ∃ (c : Fin 64) (s : State),
    (dmaState s c.val = 4) ∧ (((dch s c.val).desc.isSome || (dch s c.val).fetch || (dch s c.val).stop.isSome) = true) :=
  ⟨5, modDma 5 (fun x => { x with fetch := true }) (setDmaState 5 4 up), by decide +kernel⟩
theorem witness_ControlRegisterWrites_28 : ∃ (c : Fin 64) (s : State),
    (dmaState s c.val = 4) ∧ (((dch s c.val).desc.isSome || (dch s c.val).fetch || (dch s c.val).stop.isSome) = false) :=
  ⟨5, setDmaState 5 4 up, by decide +kernel⟩
theorem witness_ControlRegisterWrites_30 : ∃ (s : State),
    (pwrCur s ≠ 2) :=
  ⟨up, by decide +kernel⟩
theorem witness_ControlRegisterWrites_31 : ∃ (s : State),
    (pwrCur s ≠ 2) :=
  ⟨up, by decide +kernel⟩
theorem witness_ControlRegisterWrites_32 : ∃ (s : State),
    (pwrCur s ≠ 2) :=
  ⟨up, by decide +kernel⟩
theorem witness_ControlRegisterWrites_33 : ∃ (v : Fin 2) (s : State),
    (pwrCur s = 2) :=
  ⟨0, setF pwrK 9 8 2 up, by decide +kernel⟩
theorem witness_ControlRegisterWrites_35 : ∃ (n : Fin 96) (s : State),
    (armed s n.val = true) ∧ (calCollecting (setB (vk n.val 0x20) 0 false s) n.val = false) ∧ ((chan s n.val).line.isNone = false) :=
  ⟨5, setB (vk 5 0x20) 0 true (modChan 5 (fun x => { x with line := some ⟨0, 5, 0, 0, 0, false, true, false, false, 0, 0, 16, false, false, false, 0, none, none⟩ }) up), by decide +kernel⟩
theorem witness_ControlRegisterWrites_36 : ∃ (n : Fin 96) (s : State),
    (armed s n.val = false) :=
  ⟨5, up, by decide +kernel⟩
theorem witness_EncoderEdgesCount_1 : ∃ (e : Fin 32) (a b : Bool) (d : Int) (s : State),
    (live s = true) ∧ (pinPowered s (.encAP e.val) = true) ∧ (noEdgePins e.val s = true) ∧ ((((encP s e.val).a != a) && ((encP s e.val).b != b)) = false) ∧ (edgeCount (rf s (ek e.val 0) 2 0) (encP s e.val).a (encP s e.val).b a b = some d) ∧ ((match (encP s e.val).lastEdge with | some l => decide (s.tb < l + 20) | none => false) = false) ∧ (unfiltered e.val s = true) :=
  ⟨5, true, false, 1, setF (ek 5 0) 2 0 3 up, by decide +kernel⟩
theorem witness_EncoderEdgesCount_2 : ∃ (e : Fin 32) (s : State),
    (live s = true) ∧ (pinPowered s (.encZP e.val) = true) ∧ ((decide (1 ≤ rf s (ek e.val 0) 2 0) && decide (rf s (ek e.val 0) 2 0 ≤ 3) && rb s (ek e.val 0) 12 && !((encP s e.val).a && (encP s e.val).b)) = false) ∧ (filterPassed s e.val (if (encP s e.val).z == !rb s (ek e.val 0) 13 then 2 else 1) (encP s e.val).chgZ = true) :=
  ⟨31, up, by decide +kernel⟩
theorem witness_EncoderEdgesCount_3 : ∃ (e : Fin 32) (a b : Bool) (s : State),
    (live s = true) ∧ (pinPowered s (.encAP e.val) = false) :=
  ⟨5, true, false, { up with rails := 0 }, by decide +kernel⟩
theorem witness_EncoderEdgesCount_4 : ∃ (e : Fin 32) (s : State),
    (live s = true) ∧ (pinPowered s (.encZP e.val) = false) :=
  ⟨5, { up with rails := 0 }, by decide +kernel⟩
theorem witness_SignalLossIsJudged_1 : ∃ (e : Fin 32) (onB : Bool) (s : State),
    (live s = true) ∧ ((onB && !usesB s e.val) = false) :=
  ⟨5, false, up, by decide +kernel⟩
theorem witness_SignalLossIsJudged_2 : ∃ (e : Fin 32) (onB : Bool) (s : State),
    (live s = true) ∧ (rb (setB (ek e.val 4) (if onB then 1 else 0) false s) (ek e.val 4) 0 = false) ∧ (rb (setB (ek e.val 4) (if onB then 1 else 0) false s) (ek e.val 4) 1 = false) :=
  ⟨5, false, setB (ek 5 4) 0 true up, by decide +kernel⟩
theorem witness_FailoverRule_1 : ∃ (a c : Nat) (s : State),
    (onBackup s a = false) ∧ (a < 8) ∧ (c < 4) ∧ (rb s (ak a 0) 16 = false) :=
  ⟨7, 3, up, by decide +kernel⟩
theorem witness_FailoverRule_2 : ∃ (a c : Nat) (s : State),
    (onBackup s a = true) :=
  ⟨7, 3, setB (ak 7 0x10) 0 true up, by decide +kernel⟩
theorem witness_AxisAndGeneratorEvents_1 : ∃ (a : Fin 8) (s : State),
    (live s = true) ∧ (followsMaster s a.val = false) ∧ ((((axis s a.val).odo - (((axis s a.val).odo :: (axis s a.val).hist).take 1025).getD (2 ^ rf s (ak a.val 0) 23 20) 0) * 1600000) % ((2 ^ rf s (ak a.val 0) 23 20 : Nat) : Int) = 0) :=
  ⟨3, up, by decide +kernel⟩
theorem witness_AxisAndGeneratorEvents_2 : ∃ (g : Fin 16) (t : Token) (ts : List Token) (d : Nat) (s : State),
    (live s = true) ∧ ((gen s g.val).backlog = t :: ts) ∧ ((gen s g.val).lastDel = some d) ∧ (d + 4000 ≤ s.tb) ∧ (genMay s g.val = true) ∧ ((gen s g.val).lock = false) :=
  ⟨3, ⟨3, 1, 5, false⟩, [], 0, { up with tb := 4000, gens := vmod up.gens 3 fun x => { x with backlog := [⟨3, 1, 5, false⟩], lastDel := some 0 } }, by decide +kernel⟩
theorem witness_AxisAndGeneratorEvents_3 : ∃ (g : Fin 16) (t : Token) (ts : List Token) (d : Nat) (s : State),
    (live s = true) ∧ ((gen s g.val).backlog = t :: ts) ∧ ((gen s g.val).lastDel = some d) ∧ (d + 4000 ≤ s.tb) ∧ (genMay s g.val = false) ∧ ((gen s g.val).lock = false) :=
  ⟨3, ⟨3, 1, 5, false⟩, [], 0, { setOwner 7 3 2 up with tb := 4000, gens := vmod up.gens 3 fun x => { x with backlog := [⟨3, 1, 5, false⟩], lastDel := some 0 } }, by decide +kernel⟩
theorem witness_AxisAndGeneratorEvents_4 : ∃ (g : Fin 16) (s : State),
    (live s = true) ∧ ((gen s g.val).lock = true) :=
  ⟨3, { up with gens := vmod up.gens 3 fun x => { x with backlog := [⟨3, 1, 5, false⟩], lock := true } }, by decide +kernel⟩
theorem witness_AxisAndGeneratorEvents_5 : ∃ (g : Fin 16) (e : Nat) (s : State),
    (live s = true) ∧ ((gen s g.val).pulseEnd = some e) ∧ (e ≤ s.tb) :=
  ⟨3, 0, { up with gens := vmod up.gens 3 fun x => { x with pulseEnd := some 0 } }, by decide +kernel⟩
theorem witness_AxisAndGeneratorEvents_6 : ∃ (t : Token) (s : State),
    (exported s t.gen = false) :=
  ⟨⟨3, 1, 5, false⟩, up, by decide +kernel⟩
theorem witness_SwarmFramesAreSent_1 : ∃ (i : Fin 16) (g k t : Nat) (ts : List (Nat × Nat × Nat)) (s : State),
    (live s = true) ∧ (s.sw.txTok = (g, k, t) :: ts) :=
  ⟨0, 1, 2, 3, [], { up with sw := { up.sw with txTok := [(1, 2, 3)] } }, by decide +kernel⟩
theorem witness_SwarmFramesAreSent_2 : ∃ (i : Fin 16) (s : State),
    (live s = true) ∧ (swMaster s = true) ∧ (outranked s 1 = false) :=
  ⟨0, setF (swk 0x20) 2 0 2 (setB (swk 0) 3 true up), by decide +kernel⟩
theorem witness_SwarmFramesAreSent_3 : ∃ (i : Fin 16) (s : State),
    (live s = true) ∧ (rb s (swk 0) 3 = false) ∧ (2 ≤ swState s) ∧ (outranked s 2 = false) :=
  ⟨0, setF (swk 0x20) 2 0 2 up, by decide +kernel⟩
theorem witness_SwarmFramesAreSent_4 : ∃ (i : Fin 16) (s : State),
    (live s = true) ∧ (swMaster s = true) ∧ (rb s (swk 0x10) (i.val % 8) = true) ∧ (outranked s 3 = false) :=
  ⟨0, setB (swk 0x10) 0 true (setF (swk 0x20) 2 0 2 (setB (swk 0) 3 true up)), by decide +kernel⟩
theorem witness_SwarmFramesAreSent_5 : ∃ (i : Fin 16) (s : State),
    (live s = true) ∧ (swMaster s = true) ∧ (rb s (swk 0x10) (16 + i.val) = true) ∧ (outranked s 4 = false) :=
  ⟨0, setB (swk 0x10) 16 true (setF (swk 0x20) 2 0 2 (setB (swk 0) 3 true up)), by decide +kernel⟩
theorem witness_SwarmFramesAreSent_6 : ∃ (i : Fin 16) (s : State),
    (live s = true) ∧ (training s = true) ∧ (outranked s 6 = false) :=
  ⟨0, setF (swk 0x20) 2 0 1 up, by decide +kernel⟩
theorem witness_SwarmFramesAreSent_7 : ∃ (kind : Fin 6) (i : Fin 16) (s : State),
    (live s = true) ∧ (outranked s (if kind.val = 5 then 6 else kind.val) = true) :=
  ⟨4, 0, { up with sw := { up.sw with txTok := [(1, 2, 3)] } }, by decide +kernel⟩
theorem witness_SwarmFramesAreSent_8 : ∃ (s : State),
    (outranked s 5 = false) :=
  ⟨up, by decide +kernel⟩
theorem witness_SwarmFramesAreSent_9 : ∃ (s : State),
    (outranked s 5 = true) :=
  ⟨{ up with sw := { up.sw with txTok := [(1, 2, 3)] } }, by decide +kernel⟩
theorem witness_SwarmFramesAreSent_10 : ∃ (east : Bool) (bs : List Byte) (s : State),
    (s.rails.getLsbD 24 = true) :=
  ⟨true, [], up, by decide +kernel⟩
theorem witness_SwarmFramesAreReceived_1 : ∃ (f : SwFrame) (s : State),
    (live s = true) ∧ (fresh 1 f s = true) ∧ (followsToken f (heard 1 f s) = true) ∧ (lateToken f (heard 1 f s) = false) ∧ ((gdescPoint (heard 1 f s) (payNat f 0 1 % 16) (payNat f 1 6)).isSome = true) ∧ (pinPowered s .swmRxEP = true) :=
  ⟨{ seg := true, origin := 1, seq := 7, pay := [3, 9, 0, 0, 0, 0, 0, 100, 0, 0, 0], crcOk := true, resend := false }, setB (gk 3 0) 4 true (setB (gk 3 0x10) 0 true { setF (swk 0x20) 2 0 2 up with sw := { up.sw with gdesc := [(3, 0, 65536)] } }), by decide +kernel⟩
theorem witness_SwarmFramesAreReceived_2 : ∃ (f : SwFrame) (s : State),
    (live s = true) ∧ (fresh 1 f s = true) ∧ (followsToken f (heard 1 f s) = true) ∧ (lateToken f (heard 1 f s) = true) ∧ ((gdescPoint (heard 1 f s) (payNat f 0 1 % 16) (payNat f 1 6)).isSome = true) ∧ (pinPowered s .swmRxEP = true) :=
  ⟨{ seg := true, origin := 1, seq := 7, pay := [3, 9, 0, 0, 0, 0, 0, 100, 0, 0, 0], crcOk := true, resend := false }, setB (gk 3 0) 4 true (setB (gk 3 0x10) 0 true { setF (swk 0x20) 2 0 2 up with tb := 1000, sw := { up.sw with gdesc := [(3, 0, 65536)] } }), by decide +kernel⟩
theorem witness_SwarmFramesAreReceived_3 : ∃ (f : SwFrame) (s : State),
    (live s = true) ∧ (fresh 2 f s = true) ∧ (rb (heard 2 f s) (swk 0) 3 = false) ∧ (swState (heard 2 f s) ≠ 3) ∧ (swState (heard 2 f s) ≠ 4) ∧ (pinPowered s .swmRxEP = true) :=
  ⟨{ seg := true, origin := 1, seq := 7, pay := [], crcOk := true, resend := false }, setF (swk 0x20) 2 0 2 up, by decide +kernel⟩
theorem witness_SwarmFramesAreReceived_4 : ∃ (f : SwFrame) (s : State),
    (live s = true) ∧ (fresh 2 f s = true) ∧ (rb (heard 2 f s) (swk 0) 3 = false) ∧ (swState (heard 2 f s) = 3 ∨ swState (heard 2 f s) = 4) ∧ (pinPowered s .swmRxEP = true) :=
  ⟨{ seg := true, origin := 1, seq := 7, pay := [], crcOk := true, resend := false }, setF (swk 0x20) 2 0 3 up, by decide +kernel⟩
theorem witness_SwarmFramesAreReceived_5 : ∃ (f : SwFrame) (s : State),
    (live s = true) ∧ (fresh 3 f s = true) ∧ (rb (heard 3 f s) (swk 0) 3 = true) ∧ ((heard 3 f s).sw.rx < 64) ∧ (rf (statusHeard f (heard 3 f s)) (swk 0x24) 7 0 = 0) ∧ (pinPowered s .swmRxEP = true) :=
  ⟨{ seg := true, origin := 1, seq := 7, pay := [], crcOk := true, resend := false }, setF (swk 0x20) 2 0 2 (setB (swk 0) 3 true up), by decide +kernel⟩
theorem witness_SwarmFramesAreReceived_6 : ∃ (f : SwFrame) (s : State),
    (live s = true) ∧ (fresh 3 f s = true) ∧ (rb (heard 3 f s) (swk 0) 3 = true) ∧ ((heard 3 f s).sw.rx < 64) ∧ (rf (statusHeard f (heard 3 f s)) (swk 0x24) 7 0 ≠ 0) ∧ (pinPowered s .swmRxEP = true) :=
  ⟨{ seg := true, origin := 1, seq := 7, pay := [], crcOk := true, resend := false }, setB (swk 0x24) 2 true (setF (swk 0x20) 2 0 2 (setB (swk 0) 3 true up)), by decide +kernel⟩
theorem witness_SwarmFramesAreReceived_7 : ∃ (f : SwFrame) (s : State),
    (live s = true) ∧ (fresh 3 f s = true) ∧ (rb (heard 3 f s) (swk 0) 3 = true) ∧ (64 ≤ (heard 3 f s).sw.rx) ∧ (pinPowered s .swmRxEP = true) :=
  ⟨{ seg := true, origin := 1, seq := 7, pay := [], crcOk := true, resend := false }, { setF (swk 0x20) 2 0 2 (setB (swk 0) 3 true up) with sw := { up.sw with rx := 64 } }, by decide +kernel⟩
theorem witness_SwarmFramesAreReceived_8 : ∃ (f : SwFrame) (s : State),
    (live s = true) ∧ (fresh 4 f s = true) ∧ (rb (heard 4 f s) (swk 0) 3 = false) ∧ (axSwarm (heard 4 f s) (payNat f 0 1 % 8) = true) ∧ (swState (heard 4 f s) = 2) ∧ ((heard 4 f s).sw.rsAxes.contains (payNat f 0 1 % 8) = false) ∧ (pinPowered s .swmRxEP = true) :=
  ⟨{ seg := true, origin := 1, seq := 7, pay := [3, 9, 0, 0, 0, 0, 0, 1, 0, 0, 0], crcOk := true, resend := false }, setB (ak 3 0) 14 true (setF (swk 0x20) 2 0 2 up), by decide +kernel⟩
theorem witness_SwarmFramesAreReceived_9 : ∃ (f : SwFrame) (s : State),
    (live s = true) ∧ (fresh 5 f s = true) ∧ (rb (heard 5 f s) (swk 0) 3 = false) ∧ (pinPowered s .swmRxEP = true) :=
  ⟨{ seg := true, origin := 1, seq := 7, pay := [3, 9, 0, 0, 0, 0, 0, 1, 0, 0, 0], crcOk := true, resend := false }, setF (swk 0x20) 2 0 2 up, by decide +kernel⟩
theorem witness_SwarmFramesAreReceived_10 : ∃ (f : SwFrame) (b : List Byte) (s : State),
    (live s = true) ∧ (fresh 6 f s = true) ∧ ((if f.seg then (heard 6 f s).sw.sentE else (heard 6 f s).sw.sentW).find? (fun b => b.getD 1 0 == BitVec.ofNat 8 (payNat f 1 1 + 16 * payNat f 0 1) && b.getD 2 0 == BitVec.ofNat 8 (payNat f 2 1)) = some b) ∧ ((heard 6 f s).rails.getLsbD 24 = true) ∧ (pinPowered s .swmRxEP = true) :=
  ⟨{ seg := true, origin := 1, seq := 7, pay := [1, 2, 3], crcOk := true, resend := false }, [0xBC, 0x12, 3], { setF (swk 0x20) 2 0 2 up with sw := { up.sw with sentE := [[0xBC, 0x12, 3]] } }, by decide +kernel⟩
theorem witness_SwarmFramesAreReceived_11 : ∃ (f : SwFrame) (s : State),
    (live s = true) ∧ (fresh 7 f s = true) ∧ (pinPowered s .swmRxEP = true) :=
  ⟨{ seg := true, origin := 1, seq := 7, pay := [], crcOk := true, resend := false }, setF (swk 0x20) 2 0 2 up, by decide +kernel⟩
theorem witness_SwarmFramesAreReceived_12 : ∃ (typ : Nat) (f : SwFrame) (app : State → State) (s : State),
    (swState s ≠ 0) ∧ (f.crcOk = false) ∧ (f.resend = false) :=
  ⟨2, { seg := true, origin := 1, seq := 7, pay := [], crcOk := false, resend := false }, id, setF (swk 0x20) 2 0 2 up, by decide +kernel⟩
theorem witness_SwarmFramesAreReceived_13 : ∃ (typ : Nat) (f : SwFrame) (app : State → State) (s : State),
    (swState s ≠ 0) ∧ (f.crcOk = false) ∧ (f.resend = true) ∧ (s.sw.nak.any (nakNames typ f) = true) :=
  ⟨2, { seg := true, origin := 1, seq := 7, pay := [], crcOk := false, resend := true }, id, { setF (swk 0x20) 2 0 2 up with sw := { up.sw with nak := [(true, 18, 7, 5)] } }, by decide +kernel⟩
theorem witness_SwarmFramesAreReceived_14 : ∃ (f : SwFrame) (app : State → State) (s : State),
    (swState s ≠ 0) ∧ (f.crcOk = true) ∧ (f.resend = true) ∧ (segFailed s f.seg = false) ∧ (s.sw.nak.any (nakNames 2 f) = true) ∧ ((remembered s).any (fun x => x.1 == 2 && x.2.1 == f.origin.val && x.2.2.1 == f.seq.toNat) = false) :=
  ⟨{ seg := true, origin := 1, seq := 7, pay := [], crcOk := true, resend := true }, id, { setF (swk 0x20) 2 0 2 up with sw := { up.sw with nak := [(true, 18, 7, 5)] } }, by decide +kernel⟩
theorem witness_SwarmFramesAreReceived_15 : ∃ (typ : Nat) (f : SwFrame) (app : State → State) (s : State),
    (swState s ≠ 0) ∧ (f.crcOk = true) ∧ (f.resend = false) ∧ (segFailed s f.seg = false) ∧ (typ ≠ 6) ∧ ((remembered s).any (fun x => x.1 == typ && x.2.1 == f.origin.val && x.2.2.1 == f.seq.toNat) = true) :=
  ⟨2, { seg := true, origin := 1, seq := 7, pay := [], crcOk := true, resend := false }, id, { setF (swk 0x20) 2 0 2 up with sw := { up.sw with seen := [(2, 1, 7, 0)] } }, by decide +kernel⟩
theorem witness_SwarmLinkEvents_1 : ∃ (seg : Bool) (s : State),
    (live s = true) ∧ ((s.sw.nak.any fun x => x.1 == seg && decide (x.2.2.2 ≤ s.tb)) = true) :=
  ⟨true, { up with sw := { up.sw with nak := [(true, 1, 2, 0)] } }, by decide +kernel⟩
theorem witness_SwarmLinkEvents_2 : ∃ (seg : Bool) (s : State),
    (live s = true) ∧ (swState s ≠ 0) ∧ (segFailed s seg = false) :=
  ⟨true, setF (swk 0x20) 2 0 2 up, by decide +kernel⟩
theorem witness_SwarmLinkEvents_3 : ∃ (seg : Bool) (s : State),
    (live s = true) ∧ (swState s ≠ 0) ∧ (segFailed s seg = true) :=
  ⟨true, setB (swk 0x20) 5 true (setF (swk 0x20) 2 0 2 up), by decide +kernel⟩
theorem witness_SwarmLinkEvents_4 : ∃ (x : Nat × Token) (s : State),
    (live s = true) ∧ (s.sw.tokQ.find? (fun x => decide (x.1 ≤ s.tb)) = some x) ∧ (rb s (swk 0) 3 = true) :=
  ⟨(0, ⟨3, 1, 5, false⟩), { setB (swk 0) 3 true up with sw := { up.sw with tokQ := [(0, ⟨3, 1, 5, false⟩)] } }, by decide +kernel⟩
theorem witness_SwarmLinkEvents_5 : ∃ (x : Nat × Token) (s : State),
    (live s = true) ∧ (s.sw.tokQ.find? (fun x => decide (x.1 ≤ s.tb)) = some x) ∧ (rb s (swk 0) 3 = false) ∧ (aboveLast x s = true) ∧ (genMay s x.2.gen = true) ∧ (swState s ≠ 6) :=
  ⟨(0, ⟨3, 1, 5, false⟩), { setF (swk 0x20) 2 0 2 up with sw := { up.sw with tokQ := [(0, ⟨3, 1, 5, false⟩)] } }, by decide +kernel⟩
theorem witness_SwarmLinkEvents_6 : ∃ (x : Nat × Token) (s : State),
    (live s = true) ∧ (s.sw.tokQ.find? (fun x => decide (x.1 ≤ s.tb)) = some x) ∧ (rb s (swk 0) 3 = false) ∧ (aboveLast x s = true) ∧ (genMay s x.2.gen = true) ∧ (swState s = 6) ∧ (s.sw.rsGens.contains x.2.gen = true) :=
  ⟨(0, ⟨3, 1, 5, false⟩), { setF (swk 0x20) 2 0 6 up with sw := { up.sw with tokQ := [(0, ⟨3, 1, 5, false⟩)], rsGens := [3] } }, by decide +kernel⟩
theorem witness_SwarmLinkEvents_7 : ∃ (x : Nat × Token) (s : State),
    (live s = true) ∧ (s.sw.tokQ.find? (fun x => decide (x.1 ≤ s.tb)) = some x) ∧ (rb s (swk 0) 3 = false) ∧ (aboveLast x s = false) :=
  ⟨(0, ⟨3, 1, 5, false⟩), { setF (swk 0x20) 2 0 2 up with sw := { up.sw with tokQ := [(0, ⟨3, 1, 5, false⟩)] }, gens := vmod up.gens 3 fun g => { g with lastCount := some 4 } }, by decide +kernel⟩
theorem witness_SwarmLinkEvents_8 : ∃ (x : Nat × Token) (s : State),
    (live s = true) ∧ (s.sw.tokQ.find? (fun x => decide (x.1 ≤ s.tb)) = some x) ∧ (rb s (swk 0) 3 = false) ∧ (aboveLast x s = true) ∧ (genMay s x.2.gen = false) :=
  ⟨(0, ⟨3, 1, 5, false⟩), { setOwner 7 3 2 (setF (swk 0x20) 2 0 2 up) with sw := { up.sw with tokQ := [(0, ⟨3, 1, 5, false⟩)] } }, by decide +kernel⟩
theorem witness_SwarmLinkEvents_9 : ∃ (s : State),
    (swState s ≠ 6) :=
  ⟨up, by decide +kernel⟩
theorem witness_SwarmLinkEvents_10 : ∃ (s : State),
    (live s = true) ∧ (rb s (swk 0) 3 = false) ∧ (timeLost s = true) ∧ (swState s = 2) :=
  ⟨setF (swk 0x20) 2 0 2 up, by decide +kernel⟩
theorem witness_SwarmLinkEvents_11 : ∃ (s : State),
    (live s = true) ∧ (rb s (swk 0) 3 = false) ∧ (timeLost s = true) ∧ (5 ≤ swState s) ∧ (swState s ≠ 6) :=
  ⟨setF (swk 0x20) 2 0 5 up, by decide +kernel⟩
theorem witness_SwarmLinkEvents_12 : ∃ (s : State),
    (live s = true) ∧ (rb s (swk 0) 3 = false) ∧ (timeLost s = true) ∧ (swState s = 6) :=
  ⟨setF (swk 0x20) 2 0 6 up, by decide +kernel⟩
theorem witness_SwarmLinkEvents_13 : ∃ (t : Nat) (s : State),
    (live s = true) ∧ (s.sw.hold0 = some t) ∧ (swAlone s = true) ∧ (t + 1000000 * rf s (swk 0xC) 6 0 ≤ s.tb) ∧ (swState s ≠ 3 ∨ rb s (swk 0) 7 = false ∨ anyLocal s = false) :=
  ⟨0, { setF (swk 0xC) 6 0 0 (setF (swk 0x20) 2 0 3 up) with sw := { up.sw with hold0 := some 0 } }, by decide +kernel⟩
theorem witness_SwarmLinkEvents_14 : ∃ (t : Nat) (s : State),
    (live s = true) ∧ (s.sw.hold0 = some t) ∧ (swAlone s = true) ∧ (t + 1000000 * rf s (swk 0xC) 6 0 ≤ s.tb) ∧ (swState s = 3) ∧ (rb s (swk 0) 7 = true) ∧ (anyLocal s = true) :=
  ⟨0, { setB (ak 2 0) 5 true (setB (ak 2 0) 14 true (setB (swk 0) 7 true (setF (swk 0xC) 6 0 0 (setF (swk 0x20) 2 0 3 up)))) with sw := { up.sw with hold0 := some 0 } }, by decide +kernel⟩
theorem witness_SwarmLinkEvents_15 : ∃ (d : Fin 8) (x : Nat × Nat) (s : State),
    (live s = true) ∧ (s.sw.status.find? (fun x => x.1 == d.val) = some x) ∧ ((swMaster s && d.val != swNode s && decide (d.val < swN s) && decide (x.2 + 12000 ≤ s.tb) && !rb s (swk 0x24) d.val) = true) :=
  ⟨1, (1, 0), { setF (swk 0x20) 2 0 2 (setB (swk 0) 3 true up) with tb := 20000, sw := { up.sw with status := [(1, 0)] }, regs := (setF (swk 0) 6 4 1 (setF (swk 0x20) 2 0 2 (setB (swk 0) 3 true up))).regs }, by decide +kernel⟩
theorem witness_SwarmLinkEvents_16 : ∃ (s : State),
    (live s = true) ∧ (64 ≤ s.sw.rx) :=
  ⟨{ up with sw := { up.sw with rx := 64 } }, by decide +kernel⟩
theorem witness_SwarmLinkEvents_17 : ∃ (a : Fin 8) (x : Nat × Nat × Int × Nat) (s : State),
    (live s = true) ∧ ((!axSwarm s a.val || !swAlone s || followsMaster s a.val || s.sw.fall || s.sw.hold0.isNone) = false) ∧ (s.sw.pos.find? (fun x => x.1 == a.val) = some x) :=
  ⟨3, (3, 0, 5, 0), { setB (ak 3 0) 14 true (setF (swk 0x20) 2 0 3 up) with sw := { up.sw with hold0 := some 0, pos := [(3, 0, 5, 0)] } }, by decide +kernel⟩
theorem witness_ProcessorPortsAndLinks_1 : ∃ (q : Fin 65) (o : LongOp) (w : Word) (ws : List Word) (s : State),
    (live s = true) ∧ (s.ops.find? (fun o => o.q == q.val && o.held.isSome) = some o) ∧ (o.held = some (w :: ws)) ∧ (s.halted = false) ∧ (s.restarting = false) ∧ (canWrite s q.val = true) ∧ (ws.length + 1 ≤ rplRoom s q.val) ∧ (o.lost = false) :=
  ⟨64, ⟨64, 1, false, 0, .finished, some [0, 7], false⟩, 0, [7], { up with ops := [⟨64, 1, false, 0, .finished, some [0, 7], false⟩] }, by decide +kernel⟩
theorem witness_ProcessorPortsAndLinks_2 : ∃ (s : State),
    (live s = true) ∧ (s.halted = false) ∧ (s.restarting = false) ∧ (s.insWait = []) :=
  ⟨up, by decide +kernel⟩
theorem witness_ProcessorPortsAndLinks_3 : ∃ (a : Option (Fin 65)) (w : Waiting) (ws : List Waiting) (s : State),
    (live s = true) ∧ (s.halted = false) ∧ (s.restarting = false) ∧ (s.insWait = w :: ws) :=
  ⟨none, ⟨64, 1, false, 0⟩, [], { up with insWait := [⟨64, 1, false, 0⟩] }, by decide +kernel⟩
theorem witness_ProcessorPortsAndLinks_4 : ∃ (q : Fin 65) (s : State),
    (live s = true) ∧ (s.halted = false) ∧ (s.restarting = false) ∧ (s.insWait = []) ∧ (turn s = some q.val) ∧ (headWhole s q.val = true) :=
  ⟨64, offer 0 (pk []) up, by decide +kernel⟩
theorem witness_ProcessorPortsAndLinks_5 : ∃ (s : State),
    (live s = true) ∧ (s.restarting = true) :=
  ⟨{ up with restarting := true }, by decide +kernel⟩
theorem witness_ProcessorPortsAndLinks_6 : ∃ (l : Fin 128) (x : Lease) (s : State),
    (live s = true) ∧ (leaseOf s l.val = some x) ∧ (x.rem = 0) ∧ (s.halted = false) :=
  ⟨3, ⟨3, 0, 0⟩, { up with leases := [⟨3, 0, 0⟩] }, by decide +kernel⟩
theorem witness_ProcessorPortsAndLinks_7 : ∃ (addr : Word) (count : BitVec 8) (s : State),
    (live s = true) ∧ (pinPowered s .tck = true) ∧ (s.dbgDis = false) :=
  ⟨0x10, 2, up, by decide +kernel⟩
theorem witness_ProcessorPortsAndLinks_8 : ∃ (addr : Word) (count : BitVec 8) (s : State),
    (live s = true) ∧ (pinPowered s .tck = true) ∧ (s.dbgDis = true) :=
  ⟨0x10, 2, { up with dbgDis := true }, by decide +kernel⟩
theorem witness_ProcessorPortsAndLinks_9 : ∃ (s : State),
    (live s = true) ∧ (pinPowered s .tck = true) ∧ (s.dbgDis = false) ∧ (s.insWait = []) ∧ (s.halted = false) :=
  ⟨up, by decide +kernel⟩
theorem witness_ProcessorPortsAndLinks_10 : ∃ (s : State),
    (live s = true) ∧ (pinPowered s .tck = true) ∧ (s.dbgDis = false) ∧ (s.insWait ≠ []) ∧ (s.halted = false) :=
  ⟨{ up with insWait := [⟨64, 1, false, 0⟩] }, by decide +kernel⟩
theorem witness_ProcessorPortsAndLinks_11 : ∃ (s : State),
    (live s = true) ∧ (pinPowered s .tck = true) ∧ (s.dbgDis = false) :=
  ⟨{ up with halted := true }, by decide +kernel⟩
theorem witness_ProcessorPortsAndLinks_12 : ∃ (port : Fin 8) (off : BitVec 24) (n a : Nat) (s : State),
    (hostOn s port.val = true) ∧ ((((List.range n).map fun i => (off.toNat + i) % 2 ^ 24).find? fun a => !portHas s port.val (ownerOf s 0x0E (a / 4096))) = some a) :=
  ⟨1, 5, 2, 5, { setF ⟨.pmode, 1, 0⟩ 1 0 1 up with links := Vector.replicate 8 { Link.reset with up := true, bme := true, mse := true, perst := true } }, by decide +kernel⟩
theorem witness_ProcessorPortsAndLinks_13 : ∃ (port : Fin 8) (off : BitVec 24) (n : Nat) (s : State),
    (hostOn s port.val = true) ∧ ((((List.range n).map fun i => (off.toNat + i) % 2 ^ 24).find? fun a => !portHas s port.val (ownerOf s 0x0E (a / 4096))) = none) ∧ ((((List.range n).map fun i => (off.toNat + i) % 2 ^ 24).all fun a => portHas s port.val (ownerOf s 0x0E (a / 4096))) = true) :=
  ⟨1, 5, 2, setB (qk 8 0) 8 true ({ setF ⟨.pmode, 1, 0⟩ 1 0 1 up with links := Vector.replicate 8 { Link.reset with up := true, bme := true, mse := true, perst := true } }), by decide +kernel⟩
theorem witness_ProcessorPortsAndLinks_14 : ∃ (port : Fin 8) (off : BitVec 24) (s : State),
    (hostOn s port.val = true) :=
  ⟨1, 5, { setF ⟨.pmode, 1, 0⟩ 1 0 1 up with links := Vector.replicate 8 { Link.reset with up := true, bme := true, mse := true, perst := true } }, by decide +kernel⟩
theorem witness_ProcessorPortsAndLinks_15 : ∃ (addr : BitVec 16) (bytes : List Byte) (n : Nat) (s : State),
    (live s = true) ∧ (s.rails.getLsbD 24 = true) :=
  ⟨0x2000, [], 4, up, by decide +kernel⟩
theorem witness_ProcessorPortsAndLinks_16 : ∃ (addr : BitVec 16) (bytes : List Byte) (n : Nat) (s : State),
    (live s = true) ∧ (s.rails.getLsbD 24 = true) :=
  ⟨0, [1, 2, 3, 4], 0, up, by decide +kernel⟩
theorem witness_ProcessorPortsAndLinks_17 : ∃ (port : Fin 8) (s : State),
    (s.por = false) ∧ (roleOf s port.val = 1) ∧ ((link s port.val).up = true) :=
  ⟨1, { setF ⟨.pmode, 1, 0⟩ 1 0 1 up with links := Vector.replicate 8 { Link.reset with up := true, bme := true, mse := true, perst := true } }, by decide +kernel⟩
theorem witness_ProcessorPortsAndLinks_18 : ∃ (port : Fin 8) (how : LinkLoss) (s : State),
    (s.por = false) ∧ (roleOf s port.val = 1) ∧ ((link s port.val).up = true) ∧ (how ≠ .down) :=
  ⟨1, .hotReset, { setF ⟨.pmode, 1, 0⟩ 1 0 1 up with links := Vector.replicate 8 { Link.reset with up := true, bme := true, mse := true, perst := true } }, by decide +kernel⟩
theorem witness_ProcessorPortsAndLinks_19 : ∃ (port : Fin 8) (s : State),
    (s.por = false) ∧ (roleOf s port.val = 1) ∧ ((link s port.val).perst = true) ∧ ((link s port.val).up = false) :=
  ⟨1, { setF ⟨.pmode, 1, 0⟩ 1 0 1 up with links := Vector.replicate 8 { Link.reset with perst := true } }, by decide +kernel⟩
theorem witness_ProcessorPortsAndLinks_20 : ∃ (port : Fin 8) (s : State),
    (pinPowered s (.perstN port.val) = true) :=
  ⟨1, up, by decide +kernel⟩
theorem witness_ProcessorPortsAndLinks_21 : ∃ (port : Fin 8) (s : State),
    (live s = true) ∧ ((vget s.links port.val).due = true) ∧ ((match (vget s.links port.val).lastMsg with | some t => decide (t + 10000 ≤ s.tb) | none => true) = true) :=
  ⟨1, { up with links := Vector.replicate 8 { Link.reset with up := true, bme := true, perst := true, due := true } }, by decide +kernel⟩
theorem witness_CalibrationCommands_1 : ∃ (p : Pkt) (s : State),
    (runs 0x30 p s = true) ∧ (p.pay.length = 8) ∧ (4 ≤ fld (word p 0) 3 0) ∧ (fld (word p 0) 3 0 ≤ 12) ∧ (fld (word p 7) 15 0 ≠ 0) ∧ (((!bit (word p 0) 4 && !bit (word p 0) 5 && !bit (word p 0) 6) || (mask96 (word p 1) (word p 2) (word p 3)).isEmpty) = false) ∧ (mayUse (sender p s) (mask96 (word p 1) (word p 2) (word p 3)) (taken p s) = true) ∧ (((mask96 (word p 4) (word p 5) (word p 6)).any fun n => ownerOf (taken p s) 0x04 n != sender p s || busy (taken p s) 0x04 n) = false) ∧ ((bit (word p 0) 7 == (mask96 (word p 4) (word p 5) (word p 6)).isEmpty) = false) ∧ ((bit (word p 0) 4 || bit (word p 0) 5) = true) ∧ (((mask96 (word p 1) (word p 2) (word p 3)).any fun n => !armed (taken p s) n) = false) ∧ (opsFull (taken p s) p.q.val = false) :=
  ⟨pk [0x74, 0x20, 0, 0, 0, 0, 0, 100], offer 0x30 (pk [0x74, 0x20, 0, 0, 0, 0, 0, 100]) (setB (vk 5 0x20) 0 true up), by decide +kernel⟩
theorem witness_CalibrationCommands_2 : ∃ (p : Pkt) (s : State),
    (runs 0x31 p s = true) ∧ (p.pay.length = 7) ∧ (bit (word p 0) 0 = true) ∧ ((mask96 (word p 4) (word p 5) (word p 6)).isEmpty = false) ∧ (mayUse (sender p s) (mask96 (word p 4) (word p 5) (word p 6)) (taken p s) = true) ∧ (((mask96 (word p 4) (word p 5) (word p 6)).any fun n => armed (taken p s) n) = false) ∧ (((mask96 (word p 4) (word p 5) (word p 6)).any fun n => !rb (taken p s) (ck n 0) 1) = false) ∧ (opsFull (taken p s) p.q.val = false) :=
  ⟨pk [1, 0, 0, 0, 0x20, 0, 0], offer 0x31 (pk [1, 0, 0, 0, 0x20, 0, 0]) (setB (ck 5 0) 1 true up), by decide +kernel⟩
theorem witness_CalibrationCommands_3 : ∃ (p : Pkt) (s : State),
    (runs 0x31 p s = true) ∧ (p.pay.length = 7) ∧ (bit (word p 0) 0 = false) ∧ (1 ≤ fld (word p 3) 15 0) ∧ (fld (word p 3) 15 0 ≤ 60000) ∧ ((mask96 (word p 4) (word p 5) (word p 6)).isEmpty = false) ∧ (mayUse (sender p s) (mask96 (word p 4) (word p 5) (word p 6)) (taken p s) = true) ∧ (((mask96 (word p 4) (word p 5) (word p 6)).any fun n => !armed (taken p s) n) = false) ∧ (((mask96 (word p 4) (word p 5) (word p 6)).any fun n => !rb (taken p s) (ck n 0) 1) = false) ∧ (((mask96 (word p 4) (word p 5) (word p 6)).any fun n => startedAt (taken p s) n (lineNo p 1)) = false) ∧ (opsFull (taken p s) p.q.val = false) :=
  ⟨pk [0, 7, 0, 60000, 0x20, 0, 0], offer 0x31 (pk [0, 7, 0, 60000, 0x20, 0, 0]) (setB (vk 5 0x20) 0 true (setB (ck 5 0) 1 true up)), by decide +kernel⟩
theorem witness_CalibrationCommands_4 : ∃ (p : Pkt) (s : State),
    (runs 0x32 p s = true) ∧ (p.pay.length = 1) ∧ (fld (word p 0) 6 0 ≤ 95) ∧ ((ownerOf (taken p s) 0x02 (fld (word p 0) 6 0) != sender p s && sender p s != 0) = false) :=
  ⟨pk [95], offer 0x32 (pk [95]) up, by decide +kernel⟩
theorem witness_CalibrationCommands_5 : ∃ (p : Pkt) (s : State),
    (runs 0x33 p s = true) ∧ (p.pay.length = 3) ∧ (fld (word p 0) 6 0 ≤ 95) ∧ ((word p 1).toNat % 4 = 0) ∧ (0x30000000 ≤ (word p 1).toNat) ∧ (1 ≤ fld (word p 2) 30 16) ∧ (fld (word p 2) 14 0 + fld (word p 2) 30 16 ≤ 16384) ∧ ((word p 1).toNat + 4 * fld (word p 2) 30 16 ≤ 0x31000000) ∧ (mayUse (sender p s) [fld (word p 0) 6 0] (taken p s) = true) ∧ (((List.range ((((word p 1).toNat - 0x30000000) + 4 * fld (word p 2) 30 16 - 1) / 4096 + 1 - ((word p 1).toNat - 0x30000000) / 4096)).any fun k => ownerOf (taken p s) 0x0E (((word p 1).toNat - 0x30000000) / 4096 + k) != sender p s) = false) ∧ (opsFull (taken p s) p.q.val = false) :=
  ⟨pk [95, 0x30000000, 0x40000000], offer 0x33 (pk [95, 0x30000000, 0x40000000]) up, by decide +kernel⟩
theorem witness_CalibrationEvents_1 : ∃ (q : Fin 65) (tag : BitVec 8) (o : LongOp) (c : CalSt) (s : State),
    (live s = true) ∧ (opOf s q.val tag.toNat = some o) ∧ (o.kind = .calRun c) ∧ (c.stage = 2) ∧ (c.compute = true) :=
  ⟨64, 1, ⟨64, 1, false, 0, .calRun ⟨[5], true, true, true, 16, 0, none, 9, 2, []⟩, none, false⟩, ⟨[5], true, true, true, 16, 0, none, 9, 2, []⟩, { up with ops := [⟨64, 1, false, 0, .calRun ⟨[5], true, true, true, 16, 0, none, 9, 2, []⟩, none, false⟩] }, by decide +kernel⟩
theorem witness_CalibrationEvents_2 : ∃ (q : Fin 65) (tag : BitVec 8) (o : LongOp) (c : CalSt) (s : State),
    (live s = true) ∧ (opOf s q.val tag.toNat = some o) ∧ (o.kind = .calRun c) ∧ (c.stage < 2) ∧ (c.tmo ≤ s.tb) :=
  ⟨64, 1, ⟨64, 1, false, 0, .calRun ⟨[5], true, true, true, 16, 0, none, 0, 0, []⟩, none, false⟩, ⟨[5], true, true, true, 16, 0, none, 0, 0, []⟩, { up with ops := [⟨64, 1, false, 0, .calRun ⟨[5], true, true, true, 16, 0, none, 0, 0, []⟩, none, false⟩] }, by decide +kernel⟩
theorem witness_CalibrationEvents_3 : ∃ (q : Fin 65) (tag : BitVec 8) (o : LongOp) (left all : List Nat) (l dl late : Nat) (s : State),
    (live s = true) ∧ (opOf s q.val tag.toNat = some o) ∧ (o.kind = .calCommit left all l dl late none) ∧ (dl ≤ s.tb) :=
  ⟨64, 1, ⟨64, 1, false, 0, .calCommit [5] [5] 7 0 0 none, none, false⟩, [5], [5], 7, 0, 0, { up with ops := [⟨64, 1, false, 0, .calCommit [5] [5] 7 0 0 none, none, false⟩] }, by decide +kernel⟩
theorem witness_CalibrationEvents_4 : ∃ (n : Fin 96) (o : LongOp) (src first count : Nat) (s : State),
    (live s = true) ∧ (loadOp s n.val = some o) ∧ (o.kind = .corrLoad n.val src first count) ∧ (((shadow n.val (loaded n.val src first count s)).findIdx? fun e => !entDef e && !inLimits (loaded n.val src first count s) n.val (entOfs e) (entGain e)) = none) ∧ (checkShadow (loaded n.val src first count s) n.val (countBad (shadow n.val (loaded n.val src first count s))) (countMoved (loaded n.val src first count s) n.val (bankEnts (loaded n.val src first count s) n.val (actBank (loaded n.val src first count s) n.val)) (shadow n.val (loaded n.val src first count s))) = 0) :=
  ⟨5, ⟨64, 1, false, 0, .corrLoad 5 0 0 1, none, false⟩, 0, 0, 1, setF (vk 5 0x1C) 30 16 2 (wr (ck 5 0x10) 0x3FFF0000 { up with ops := [⟨64, 1, false, 0, .corrLoad 5 0 0 1, none, false⟩] }), by decide +kernel⟩
theorem witness_ChannelsAndGeneratorsArm_1 : ∃ (p : Pkt) (s : State),
    (runs 0x40 p s = true) ∧ (p.pay.length = 4) ∧ (fld (word p 0) 1 0 = 0) ∧ (fld (word p 0) 11 8 = 0) ∧ ((mask96 (word p 1) (word p 2) (word p 3)).isEmpty = false) ∧ (((mask96 (word p 1) (word p 2) (word p 3)).any fun n => ownerOf (taken p s) 0x02 n != sender p s) = false) ∧ (armRefused (taken p s) (mask96 (word p 1) (word p 2) (word p 3)) = none) ∧ (pwrCur (taken p s) = 0) :=
  ⟨pk [0, 0x20, 0, 0], offer 0x40 (pk [0, 0x20, 0, 0]) (setB (vk 5 0) 0 true (setF (tk 0 4) 1 0 3 (setF (tk 0 0) 16 0 0x10103 up))), by decide +kernel⟩
theorem witness_ChannelsAndGeneratorsArm_2 : ∃ (p : Pkt) (s : State),
    (runs 0x40 p s = true) ∧ (p.pay.length = 1) ∧ (fld (word p 0) 1 0 = 1) ∧ (ownerOf (taken p s) 0x07 (fld (word p 0) 11 8) = sender p s) ∧ (busy (taken p s) 0x07 (fld (word p 0) 11 8) = false) ∧ (rb (taken p s) (gk (fld (word p 0) 11 8) 0) 4 = false) ∧ (genArmed (taken p s) (fld (word p 0) 11 8) = false) ∧ (pwrCur (taken p s) = 0) ∧ (rb (taken p s) (gk (fld (word p 0) 11 8) 0) 3 = true) ∧ (1 ≤ sext 48 (genStart (taken p s) (fld (word p 0) 11 8)).toNat) :=
  ⟨pk [0x501], offer 0x40 (pk [0x501]) (wr (gk 5 8) 9 (setB (gk 5 0) 3 true up)), by decide +kernel⟩
theorem witness_ChannelsAndGeneratorsArm_3 : ∃ (p : Pkt) (s : State),
    (runs 0x40 p s = true) ∧ (p.pay.length = 1) ∧ (fld (word p 0) 1 0 = 1) ∧ (ownerOf (taken p s) 0x07 (fld (word p 0) 11 8) = sender p s) ∧ (busy (taken p s) 0x07 (fld (word p 0) 11 8) = false) ∧ (rb (taken p s) (gk (fld (word p 0) 11 8) 0) 4 = false) ∧ (genArmed (taken p s) (fld (word p 0) 11 8) = false) ∧ (pwrCur (taken p s) = 0) ∧ (rb (taken p s) (gk (fld (word p 0) 11 8) 0) 3 = false) ∧ (0 < sdiff (genStart (taken p s) (fld (word p 0) 11 8)) (axis (taken p s) (rf (taken p s) (gk (fld (word p 0) 11 8) 0) 2 0)).pos) :=
  ⟨pk [0x501], offer 0x40 (pk [0x501]) (wr (gk 5 8) 9 up), by decide +kernel⟩
theorem witness_ChannelsAndGeneratorsArm_4 : ∃ (p : Pkt) (s : State),
    (runs 0x40 p s = true) ∧ (p.pay.length = 1) ∧ (fld (word p 0) 1 0 = 1) ∧ (ownerOf (taken p s) 0x07 (fld (word p 0) 11 8) = sender p s) ∧ (busy (taken p s) 0x07 (fld (word p 0) 11 8) = false) ∧ (rb (taken p s) (gk (fld (word p 0) 11 8) 0) 4 = true) ∧ (genArmed (taken p s) (fld (word p 0) 11 8) = false) ∧ (pwrCur (taken p s) = 0) :=
  ⟨pk [0x501], offer 0x40 (pk [0x501]) (setB (gk 5 0) 4 true up), by decide +kernel⟩
theorem witness_ChannelsAndGeneratorsArm_5 : ∃ (p : Pkt) (s : State),
    (runs 0x41 p s = true) ∧ (p.pay.length = 4) ∧ (fld (word p 0) 1 0 = 0) ∧ (fld (word p 0) 11 8 = 0) ∧ ((mask96 (word p 1) (word p 2) (word p 3)).isEmpty = false) ∧ (mayUse (sender p s) (mask96 (word p 1) (word p 2) (word p 3)) (taken p s) = true) :=
  ⟨pk [0, 0x20, 0, 0], offer 0x41 (pk [0, 0x20, 0, 0]) up, by decide +kernel⟩
theorem witness_ChannelsAndGeneratorsArm_6 : ∃ (p : Pkt) (s : State),
    (runs 0x41 p s = true) ∧ (p.pay.length = 1) ∧ (fld (word p 0) 1 0 = 1) ∧ (ownerOf (taken p s) 0x07 (fld (word p 0) 11 8) = sender p s) ∧ (busy (taken p s) 0x07 (fld (word p 0) 11 8) = false) ∧ (genArmed (taken p s) (fld (word p 0) 11 8) = true) :=
  ⟨pk [0x501], offer 0x41 (pk [0x501]) (setB (gk 5 0x10) 0 true up), by decide +kernel⟩
theorem witness_LineCommands_1 : ∃ (p : Pkt) (s : State),
    (runs 0x42 p s = true) ∧ (p.pay.length = 6) ∧ ((mask96 (word p 3) (word p 4) (word p 5)).isEmpty = false) ∧ (mayUse (sender p s) (mask96 (word p 3) (word p 4) (word p 5)) (taken p s) = true) ∧ (((mask96 (word p 3) (word p 4) (word p 5)).any fun n => rb (taken p s) (fk n 0x40) 4) = false) ∧ (((mask96 (word p 3) (word p 4) (word p 5)).any fun n => !bit (word p 0) 0 && startedAt (taken p s) n (lineNo p 1)) = false) :=
  ⟨pk [2, 7, 0, 0x20, 0, 0], offer 0x42 (pk [2, 7, 0, 0x20, 0, 0]) up, by decide +kernel⟩
theorem witness_LineCommands_2 : ∃ (p : Pkt) (s : State),
    (runs 0x43 p s = true) ∧ (p.pay.length = 4) ∧ (bit (word p 0) 0 = true) ∧ ((mask96 (word p 1) (word p 2) (word p 3)).isEmpty = false) ∧ (mayUse (sender p s) (mask96 (word p 1) (word p 2) (word p 3)) (taken p s) = true) :=
  ⟨pk [1, 0x20, 0, 0], offer 0x43 (pk [1, 0x20, 0, 0]) up, by decide +kernel⟩
theorem witness_LineCommands_3 : ∃ (p : Pkt) (s : State),
    (runs 0x43 p s = true) ∧ (p.pay.length = 4) ∧ (bit (word p 0) 0 = false) ∧ ((mask96 (word p 1) (word p 2) (word p 3)).isEmpty = false) ∧ (mayUse (sender p s) (mask96 (word p 1) (word p 2) (word p 3)) (taken p s) = true) :=
  ⟨pk [0, 0x20, 0, 0], offer 0x43 (pk [0, 0x20, 0, 0]) up, by decide +kernel⟩
theorem witness_LineCommands_4 : ∃ (p : Pkt) (s : State),
    (runs 0x44 p s = true) ∧ (p.pay.length = 2) ∧ (1 ≤ fld (word p 0) 26 16) ∧ (fld (word p 0) 9 0 + fld (word p 0) 26 16 ≤ 1024) ∧ ((word p 1).toNat % 16 = 0) ∧ (0x30000000 ≤ (word p 1).toNat) ∧ ((word p 1).toNat + 48 * fld (word p 0) 26 16 ≤ 0x31000000) ∧ (((List.range (fld (word p 0) 26 16)).any fun i => ownerOf (taken p s) 0x08 (fld (word p 0) 9 0 + i) != sender p s) = false) ∧ (((List.range (((word p 1).toNat - 0x30000000 + 48 * fld (word p 0) 26 16 - 1) / 4096 + 1)).any fun x => decide (((word p 1).toNat - 0x30000000) / 4096 ≤ x) && ownerOf (taken p s) 0x0E x != sender p s) = false) ∧ (((List.range (fld (word p 0) 26 16)).any fun i => busy (taken p s) 0x08 (fld (word p 0) 9 0 + i)) = false) ∧ (((List.range (((word p 1).toNat - 0x30000000 + 48 * fld (word p 0) 26 16 - 1) / 4096 + 1 - ((word p 1).toNat - 0x30000000) / 4096)).any fun x => busy (taken p s) 0x0E (((word p 1).toNat - 0x30000000) / 4096 + x)) = false) :=
  ⟨pk [0x20005, 0x30000000], offer 0x44 (pk [0x20005, 0x30000000]) up, by decide +kernel⟩
theorem witness_ActionCommands_1 : ∃ (p : Pkt) (s : State),
    (runs 0x50 p s = true) ∧ (p.pay.length = 6) ∧ (s.insBuf.length < 1024) ∧ (actBad (word p 3) (word p 4) = false) ∧ (inUse (taken p s) 0x06 (fld (word p 0) 2 0) (sender p s) = true) ∧ ((match actTarget (word p 3) with | some (cls, i) => ownerOf (taken p s) cls i == sender p s | none => true) = true) ∧ (((actTarget (word p 3)).any fun x => busy (taken p s) x.1 x.2) = false) :=
  ⟨pk [8, 7, 0, 1, 5, 0], offer 0x50 (pk [8, 7, 0, 1, 5, 0]) up, by decide +kernel⟩
theorem witness_ActionCommands_2 : ∃ (p : Pkt) (s : State),
    (runs 0x51 p s = true) ∧ (p.pay.length = 6) ∧ ((sender p s != 0 && fld (word p 0) 4 0 != sender p s) = false) :=
  ⟨pk [0x300, 0, 0, 0, 9, 0], offer 0x51 (pk [0x300, 0, 0, 0, 9, 0]) { up with paq := [⟨0, 5, 1, 5, 0, 0, false, false, false⟩] }, by decide +kernel⟩
theorem witness_ActionCommands_3 : ∃ (p : Pkt) (s : State),
    (runs 0x52 p s = true) ∧ (p.pay.length = 6) ∧ ((sender p s != 0 && fld (word p 0) 4 0 != sender p s) = false) :=
  ⟨pk [0x300, 0, 0, 0, 9, 0], offer 0x52 (pk [0x300, 0, 0, 0, 9, 0]) { up with paq := [⟨0, 5, 1, 5, 0, 0, false, false, false⟩] }, by decide +kernel⟩
theorem witness_MoltAndFenceCommands_1 : ∃ (p : Pkt) (s : State),
    (runs 0x60 p s = true) ∧ (p.pay.length = 4) ∧ (fld (word p 0) 6 0 ≤ 95) ∧ (1 ≤ fld (word p 3) 15 0) ∧ (fld (word p 3) 15 0 ≤ 60000) ∧ (fld (word p 0) 14 8 = 0x7F ∨ fld (word p 0) 14 8 / 12 = fld (word p 0) 6 0 / 12) ∧ (moltRefusal (cmdOf 0x60 p s) (taken p s) (fld (word p 0) 6 0) (chanOf (taken p s) (fld (word p 0) 6 0)) (if fld (word p 0) 14 8 = 0x7F then none else some (fld (word p 0) 14 8)) (bit (word p 0) 16) (lineNo p 1) = none) ∧ (opsFull (taken p s) p.q.val = false) :=
  ⟨pk [0x30705, 0, 0, 100], offer 0x60 (pk [0x30705, 0, 0, 100]) (setB (hk 7 0) 0 true (setB (hmapK 7) 4 false up)), by decide +kernel⟩
theorem witness_MoltAndFenceCommands_2 : ∃ (p : Pkt) (s : State),
    (runs 0x61 p s = true) ∧ (p.pay.length = 3) ∧ (fld (word p 0) 6 0 ≤ 95) ∧ (mayUse (sender p s) [(fld (word p 0) 6 0)] (taken p s) = true) ∧ ((!bit (word p 0) 16 && startedAt (taken p s) (fld (word p 0) 6 0) (lineNo p 1)) = false) :=
  ⟨pk [0x10005, 9, 0], offer 0x61 (pk [0x10005, 9, 0]) up, by decide +kernel⟩
theorem witness_MoltAndFenceCommands_3 : ∃ (p : Pkt) (s : State),
    (runs 0x62 p s = true) ∧ (p.pay.length = 1) ∧ (fld (word p 0) 6 0 ≤ 95) ∧ (mayUse (sender p s) [(fld (word p 0) 6 0)] (taken p s) = true) ∧ (fenced (taken p s) (fld (word p 0) 6 0) = true) ∧ (((headOf (taken p s) (fld (word p 0) 6 0)).isSome || armed (taken p s) (fld (word p 0) 6 0)) = false) :=
  ⟨pk [5], offer 0x62 (pk [5]) (setB (hk 5 8) 8 true (setB (hmapK 5) 4 false up)), by decide +kernel⟩
theorem witness_MoltAndFenceCommands_4 : ∃ (p : Pkt) (s : State),
    (runs 0x63 p s = true) ∧ (p.pay.length = 1) ∧ (fld (word p 0) 6 0 ≤ 95) ∧ (mayUse (sender p s) [(fld (word p 0) 6 0)] (taken p s) = true) ∧ (armed (taken p s) (fld (word p 0) 6 0) = false) ∧ (rb (taken p s) (tk ((fld (word p 0) 6 0) / 12) 4) 1 = true) ∧ (opsFull (taken p s) p.q.val = false) :=
  ⟨pk [5], offer 0x63 (pk [5]) (setF (tk 0 4) 1 0 3 up), by decide +kernel⟩
theorem witness_MoltAndSelfTestEvents_1 : ∃ (h : Fin 96) (m : MoltSt) (o n : Nat) (s : State),
    (live s = true) ∧ (moltOf s h.val = some m) ∧ (m.copied = false) ∧ (m.imm = false) ∧ (m.old = some o) ∧ (m.new = some n) ∧ ((chan s n).line = none) :=
  ⟨5, ⟨5, some 5, some 7, false, true, 9, 0, false, false⟩, 5, 7, { up with molts := [⟨5, some 5, some 7, false, true, 9, 0, false, false⟩] }, by decide +kernel⟩
theorem witness_MoltAndSelfTestEvents_2 : ∃ (h : Fin 96) (m : MoltSt) (o n : Nat) (s : State),
    (live s = true) ∧ (moltOf s h.val = some m) ∧ (m.copied = false) ∧ (m.imm = true) ∧ (m.old = some o) ∧ (m.new = some n) ∧ ((chan s n).line = none) :=
  ⟨5, ⟨5, some 5, some 7, true, true, 0, 0, false, false⟩, 5, 7, { up with molts := [⟨5, some 5, some 7, true, true, 0, 0, false, false⟩], ops := [⟨64, 1, false, 0, .molt 5, none, false⟩] }, by decide +kernel⟩
theorem witness_MoltAndSelfTestEvents_3 : ∃ (h : Fin 96) (m : MoltSt) (n : Nat) (s : State),
    (live s = true) ∧ (moltOf s h.val = some m) ∧ (m.new = some n) ∧ ((chan s n).line.isSome = true) :=
  ⟨5, ⟨5, some 5, some 7, true, true, 0, 0, false, false⟩, 7, modChan 7 (fun x => { x with line := some ⟨0, 5, 0, 0, 0, false, true, false, false, 0, 0, 16, false, false, false, 0, none, none⟩ }) { up with molts := [⟨5, some 5, some 7, true, true, 0, 0, false, false⟩], ops := [⟨64, 1, false, 0, .molt 5, none, false⟩] }, by decide +kernel⟩
theorem witness_MoltAndSelfTestEvents_4 : ∃ (h : Fin 96) (m : MoltSt) (s : State),
    (live s = true) ∧ (moltOf s h.val = some m) ∧ (m.deadline ≤ s.tb) :=
  ⟨5, ⟨5, some 5, some 7, true, true, 0, 0, false, false⟩, { up with molts := [⟨5, some 5, some 7, true, true, 0, 0, false, false⟩], ops := [⟨64, 1, false, 0, .molt 5, none, false⟩] }, by decide +kernel⟩
theorem witness_MoltAndSelfTestEvents_5 : ∃ (n : Fin 96) (lo hi : Int) (s : State),
    (live s = true) ∧ ((chan s n.val).line.isSome = true) :=
  ⟨5, 0, 0, modChan 5 (fun x => { x with line := some ⟨0, 5, 0, 0, 0, false, true, false, false, 0, 0, 16, false, false, false, 0, none, none⟩ }) up, by decide +kernel⟩
theorem witness_MoltAndSelfTestEvents_6 : ∃ (n : Fin 96) (lo hi : Int) (o : LongOp) (s : State),
    (live s = true) ∧ ((chan s n.val).line.isSome = false) ∧ (s.ops.find? (fun o => o.kind == .selftest n.val) = some o) ∧ ((decide (32 < lo.natAbs) || decide (32 < hi.natAbs)) = true) ∧ ((chan s n.val).stFail = false) :=
  ⟨5, 33, 0, ⟨64, 1, false, 0, .selftest 5, none, false⟩, { up with ops := [⟨64, 1, false, 0, .selftest 5, none, false⟩] }, by decide +kernel⟩
theorem witness_MoltAndSelfTestEvents_7 : ∃ (n : Fin 96) (lo hi : Int) (o : LongOp) (s : State),
    (live s = true) ∧ ((chan s n.val).line.isSome = false) ∧ (s.ops.find? (fun o => o.kind == .selftest n.val) = some o) ∧ ((decide (32 < lo.natAbs) || decide (32 < hi.natAbs)) = false) ∧ ((chan s n.val).stFail = false) :=
  ⟨5, 32, -32, ⟨64, 1, false, 0, .selftest 5, none, false⟩, { up with ops := [⟨64, 1, false, 0, .selftest 5, none, false⟩] }, by decide +kernel⟩
theorem witness_MoltAndSelfTestEvents_8 : ∃ (n : Fin 96) (lo hi : Int) (o : LongOp) (s : State),
    (live s = true) ∧ ((chan s n.val).line.isSome = false) ∧ (s.ops.find? (fun o => o.kind == .selftest n.val) = some o) ∧ ((decide (32 < lo.natAbs) || decide (32 < hi.natAbs)) = true) ∧ ((chan s n.val).stFail = true) :=
  ⟨5, -33, 0, ⟨64, 1, false, 0, .selftest 5, none, false⟩, modChan 5 (fun x => { x with stFail := true }) { up with ops := [⟨64, 1, false, 0, .selftest 5, none, false⟩] }, by decide +kernel⟩
theorem witness_LoadSessions_1 : ∃ (p : Pkt) (s : State),
    (runs 0x70 p s = true) ∧ (p.pay.length = 7) ∧ ((dW (p.pay.drop 1) 0 != 0x46514254 || fld (dW (p.pay.drop 1) 1) 31 24 != 1 || (regionsOf (dW (p.pay.drop 1) 2)).isEmpty || (dW (p.pay.drop 1) 3).toNat != 164 * (regionsOf (dW (p.pay.drop 1) 2)).length) = false) ∧ (((regionsOf (dW (p.pay.drop 1) 2)).any fun r => regOwner (taken p s) r != sender p s) = false) ∧ ((fld (dW (p.pay.drop 1) 1) 15 0 != 0x7196 || fld (dW (p.pay.drop 1) 1) 23 16 != 0x60) = false) ∧ ((((taken p s).fabAuth && !bit (dW (p.pay.drop 1) 2) 8) || (bit (dW (p.pay.drop 1) 2) 8 && !keySet (taken p s))) = false) ∧ ((regionsOf (dW (p.pay.drop 1) 2)).any (regionHeld (taken p s)) = false) :=
  ⟨pk [0, 0x46514254, 0x01607196, 1, 164, 7, 8], offer 0x70 (pk [0, 0x46514254, 0x01607196, 1, 164, 7, 8]) { up with fabAuth := false }, by decide +kernel⟩
theorem witness_LoadSessions_2 : ∃ (p : Pkt) (x : Session) (s : State),
    (runs 0x71 p s = true) ∧ (p.pay.length = 130) ∧ (sessionOf (taken p s) (fld (word p 0) 2 0) = some x) ∧ ((x.part != sender p s || x.fin.isSome) = false) ∧ ((fld (word p 0) 10 8 != x.chunk || fld (word p 0) 26 16 != x.frame || decide ((dW x.hdr 3).toNat ≤ x.frame)) = false) ∧ (fld (word p 0) 10 8 < 7) :=
  ⟨pk (0 :: List.replicate 129 5), ⟨0, 0, true, [0x46514254, 0x01607196, 1, 164, 7, 8], 0, 0, [], [], false, 10, none⟩, offer 0x71 (pk (0 :: List.replicate 129 5)) { up with sessions := [⟨0, 0, true, [0x46514254, 0x01607196, 1, 164, 7, 8], 0, 0, [], [], false, 10, none⟩] }, by decide +kernel⟩
theorem witness_LoadSessions_3 : ∃ (p : Pkt) (x : Session) (s : State),
    (runs 0x71 p s = true) ∧ (p.pay.length = 130) ∧ (sessionOf (taken p s) (fld (word p 0) 2 0) = some x) ∧ ((x.part != sender p s || x.fin.isSome) = false) ∧ ((fld (word p 0) 10 8 != x.chunk || fld (word p 0) 26 16 != x.frame || decide ((dW x.hdr 3).toNat ≤ x.frame)) = false) ∧ (fld (word p 0) 10 8 = 7) ∧ ((crc32 (x.buf ++ ((p.pay.drop 1).take 128).flatMap wordBytes) == word p 129) = true) :=
  ⟨pk (0x700 :: List.replicate 128 0 ++ [crc32 (List.replicate 512 0)]), ⟨0, 0, true, [0x46514254, 0x01607196, 1, 164, 7, 8], 0, 7, [], [], false, 10, none⟩, offer 0x71 (pk (0x700 :: List.replicate 128 0 ++ [crc32 (List.replicate 512 0)])) { up with sessions := [⟨0, 0, true, [0x46514254, 0x01607196, 1, 164, 7, 8], 0, 7, [], [], false, 10, none⟩] }, by decide +kernel⟩
theorem witness_LoadSessions_4 : ∃ (p : Pkt) (x : Session) (s : State),
    (runs 0x72 p s = true) ∧ (sessionOf (taken p s) (fld (word p 0) 2 0) = some x) ∧ ((x.part != sender p s || x.fin.isSome) = false) ∧ (p.pay.length = (if bit (dW x.hdr 2) 8 then 6 else 2)) ∧ (opsFull (taken p s) p.q.val = false) :=
  ⟨pk [0, 9], ⟨0, 0, true, [0x46514254, 0x01607196, 1, 164, 7, 8], 0, 0, [], [], false, 10, none⟩, offer 0x72 (pk [0, 9]) { up with sessions := [⟨0, 0, true, [0x46514254, 0x01607196, 1, 164, 7, 8], 0, 0, [], [], false, 10, none⟩] }, by decide +kernel⟩
theorem witness_LoadSessions_5 : ∃ (sr : Fin 8) (x : Session) (o : LongOp) (crc : Word) (tag : List Word) (s : State),
    (live s = true) ∧ (sessionOf s sr.val = some x) ∧ (s.ops.find? (fun o => o.kind == .bitEnd sr.val) = some o) ∧ (x.fin = some (crc, tag)) ∧ ((dW x.hdr 3).toNat ≤ x.frame) ∧ (loadOk s x crc tag = true) :=
  ⟨0, ⟨0, 0, true, [0x46514254, 0x01607196, 1, 0, 7, 8], 0, 0, [], [], false, 10, some (crc32 ([0x46514254, 0x01607196, 1, 0, 7, 8].flatMap wordBytes), [])⟩, ⟨64, 1, false, 0, .bitEnd 0, none, false⟩, crc32 ([0x46514254, 0x01607196, 1, 0, 7, 8].flatMap wordBytes), [], { up with sessions := [⟨0, 0, true, [0x46514254, 0x01607196, 1, 0, 7, 8], 0, 0, [], [], false, 10, some (crc32 ([0x46514254, 0x01607196, 1, 0, 7, 8].flatMap wordBytes), [])⟩], ops := [⟨64, 1, false, 0, .bitEnd 0, none, false⟩] }, by decide +kernel⟩
theorem witness_LoadSessions_6 : ∃ (sr : Fin 8) (x : Session) (o : LongOp) (crc : Word) (tag : List Word) (s : State),
    (live s = true) ∧ (sessionOf s sr.val = some x) ∧ (s.ops.find? (fun o => o.kind == .bitEnd sr.val) = some o) ∧ (x.fin = some (crc, tag)) ∧ (x.frame < (dW x.hdr 3).toNat) :=
  ⟨0, ⟨0, 0, true, [0x46514254, 0x01607196, 1, 164, 7, 8], 0, 0, [], [], false, 10, some (5, [])⟩, ⟨64, 1, false, 0, .bitEnd 0, none, false⟩, 5, [], { up with sessions := [⟨0, 0, true, [0x46514254, 0x01607196, 1, 164, 7, 8], 0, 0, [], [], false, 10, some (5, [])⟩], ops := [⟨64, 1, false, 0, .bitEnd 0, none, false⟩] }, by decide +kernel⟩
theorem witness_LoadSessions_7 : ∃ (sr : Fin 8) (x : Session) (o : LongOp) (crc : Word) (tag : List Word) (s : State),
    (live s = true) ∧ (sessionOf s sr.val = some x) ∧ (s.ops.find? (fun o => o.kind == .bitEnd sr.val) = some o) ∧ (x.fin = some (crc, tag)) ∧ ((dW x.hdr 3).toNat ≤ x.frame) ∧ (loadOk s x crc tag = false) :=
  ⟨0, ⟨0, 0, true, [0x46514254, 0x01607196, 1, 0, 7, 8], 0, 0, [], [], false, 10, some (5, [])⟩, ⟨64, 1, false, 0, .bitEnd 0, none, false⟩, 5, [], { up with sessions := [⟨0, 0, true, [0x46514254, 0x01607196, 1, 0, 7, 8], 0, 0, [], [], false, 10, some (5, [])⟩], ops := [⟨64, 1, false, 0, .bitEnd 0, none, false⟩] }, by decide +kernel⟩
theorem witness_LoadSessions_8 : ∃ (x : Session) (buf : List Byte) (c : Word) (r : Nat) (s : State),
    ((crc32 buf == c) = false) ∧ (x.failed = false) ∧ (x.regions.getD (x.frame / 164) 0 = r) :=
  ⟨⟨0, 0, true, [0x46514254, 0x01607196, 1, 164, 7, 8], 0, 0, [], [], false, 10, none⟩, [], 5, 0, up, by decide +kernel⟩
theorem witness_LoadSessions_9 : ∃ (x : Session) (buf : List Byte) (c : Word) (s : State),
    ((crc32 buf == c) = false) ∧ (x.failed = true) :=
  ⟨⟨0, 0, true, [0x46514254, 0x01607196, 1, 164, 7, 8], 0, 0, [], [], true, 10, none⟩, [], 5, up, by decide +kernel⟩
theorem witness_LoadSessions_10 : ∃ (sr : Fin 8) (x : Session) (s : State),
    (live s = true) ∧ (sessionOf s sr.val = some x) ∧ (x.fin = none) ∧ (x.rem = 0) :=
  ⟨0, ⟨0, 0, true, [0x46514254, 0x01607196, 1, 164, 7, 8], 0, 0, [], [], false, 0, none⟩, { up with sessions := [⟨0, 0, true, [0x46514254, 0x01607196, 1, 164, 7, 8], 0, 0, [], [], false, 0, none⟩] }, by decide +kernel⟩
theorem witness_RegionCommands_1 : ∃ (p : Pkt) (s : State),
    (runs 0x74 p s = true) ∧ (p.pay.length = 1) ∧ (fld (word p 0) 10 8 = 0) ∧ (regOwner (taken p s) (fld (word p 0) 2 0) = sender p s) ∧ (regionHeld (taken p s) (fld (word p 0) 2 0) = false) ∧ ((regionState (taken p s) (fld (word p 0) 2 0) == 3 || regionState (taken p s) (fld (word p 0) 2 0) == 4 || regionState (taken p s) (fld (word p 0) 2 0) == 2) = true) :=
  ⟨pk [5], offer 0x74 (pk [5]) (setF (fbk 5 0) 2 0 3 up), by decide +kernel⟩
theorem witness_RegionCommands_2 : ∃ (p : Pkt) (s : State),
    (runs 0x74 p s = true) ∧ (p.pay.length = 1) ∧ (fld (word p 0) 10 8 = 1) ∧ ((regOwner (taken p s) (fld (word p 0) 2 0) != sender p s) = true) :=
  ⟨pk [261], offer 0x74 (pk [261]) (setOwner 0x0B 5 2 up), by decide +kernel⟩
theorem witness_RegionCommands_3 : ∃ (p : Pkt) (s : State),
    (runs 0x74 p s = true) ∧ (p.pay.length = 1) ∧ (fld (word p 0) 10 8 = 2) ∧ ((regOwner (taken p s) (fld (word p 0) 2 0) != sender p s) = true) :=
  ⟨pk [517], offer 0x74 (pk [517]) (setOwner 0x0B 5 2 up), by decide +kernel⟩
theorem witness_RegionCommands_4 : ∃ (p : Pkt) (s : State),
    (runs 0x74 p s = true) ∧ (p.pay.length = 1) ∧ (fld (word p 0) 10 8 = 3) ∧ ((regOwner (taken p s) (fld (word p 0) 2 0) != sender p s) = true) :=
  ⟨pk [773], offer 0x74 (pk [773]) (setOwner 0x0B 5 2 up), by decide +kernel⟩
theorem witness_RegionCommands_5 : ∃ (p : Pkt) (s : State),
    (runs 0x74 p s = true) ∧ (p.pay.length = 1) ∧ (fld (word p 0) 10 8 = 4) ∧ ((regOwner (taken p s) (fld (word p 0) 2 0) != sender p s) = true) :=
  ⟨pk [1029], offer 0x74 (pk [1029]) (setOwner 0x0B 5 2 up), by decide +kernel⟩
theorem witness_RegionCommands_6 : ∃ (p : Pkt) (s : State),
    (runs 0x74 p s = true) ∧ (p.pay.length = 1) ∧ (fld (word p 0) 10 8 = 1) ∧ (regOwner (taken p s) (fld (word p 0) 2 0) = sender p s) ∧ (regionHeld (taken p s) (fld (word p 0) 2 0) = false) ∧ ((regionState (taken p s) (fld (word p 0) 2 0) == 2) = true) :=
  ⟨pk [261], offer 0x74 (pk [261]) (setF (fbk 5 0) 2 0 2 up), by decide +kernel⟩
theorem witness_RegionCommands_7 : ∃ (p : Pkt) (s : State),
    (runs 0x74 p s = true) ∧ (p.pay.length = 1) ∧ (fld (word p 0) 10 8 = 2) ∧ (regOwner (taken p s) (fld (word p 0) 2 0) = sender p s) ∧ (regionHeld (taken p s) (fld (word p 0) 2 0) = false) ∧ (regionState (taken p s) (fld (word p 0) 2 0) = 3) :=
  ⟨pk [0x205], offer 0x74 (pk [0x205]) (setF (fbk 5 0) 2 0 3 up), by decide +kernel⟩
theorem witness_RegionCommands_8 : ∃ (r : Nat) (s : State),
    (r < 8) :=
  ⟨5, up, by decide +kernel⟩
theorem witness_RegionCommands_9 : ∃ (p : Pkt) (s : State),
    (runs 0x74 p s = true) ∧ (p.pay.length = 1) ∧ (fld (word p 0) 10 8 = 3) ∧ (regOwner (taken p s) (fld (word p 0) 2 0) = sender p s) ∧ (regionHeld (taken p s) (fld (word p 0) 2 0) = false) ∧ ((regionState (taken p s) (fld (word p 0) 2 0) == 4) = true) :=
  ⟨pk [773], offer 0x74 (pk [773]) (setF (fbk 5 0) 2 0 4 up), by decide +kernel⟩
theorem witness_RegionCommands_10 : ∃ (p : Pkt) (s : State),
    (runs 0x74 p s = true) ∧ (p.pay.length = 1) ∧ (fld (word p 0) 10 8 = 4) ∧ (regOwner (taken p s) (fld (word p 0) 2 0) = sender p s) ∧ (regionHeld (taken p s) (fld (word p 0) 2 0) = false) ∧ ((regionState (taken p s) (fld (word p 0) 2 0) == 2 || regionState (taken p s) (fld (word p 0) 2 0) == 4 || regionState (taken p s) (fld (word p 0) 2 0) == 3) = true) :=
  ⟨pk [1029], offer 0x74 (pk [1029]) (setF (fbk 5 0) 2 0 2 up), by decide +kernel⟩
theorem witness_RegionCommands_11 : ∃ (r : Fin 8) (w : Waiting) (s : State),
    (live s = true) ∧ (s.clkstop = some (r.val, w)) ∧ (regionState s r.val = 3) :=
  ⟨5, ⟨64, 1, false, 0⟩, setF (fbk 5 0) 2 0 3 { up with clkstop := some (5, ⟨64, 1, false, 0⟩), insWait := [⟨64, 1, false, 0⟩] }, by decide +kernel⟩
theorem witness_RegionCommands_12 : ∃ (r : Fin 8) (w : Waiting) (s : State),
    (live s = true) ∧ (s.clkstop = some (r.val, w)) ∧ (regionState s r.val ≠ 3) :=
  ⟨5, ⟨64, 1, false, 0⟩, setF (fbk 5 0) 2 0 2 { up with clkstop := some (5, ⟨64, 1, false, 0⟩), insWait := [⟨64, 1, false, 0⟩] }, by decide +kernel⟩
theorem witness_RegionCommands_13 : ∃ (r : Fin 8) (s : State),
    (live s = true) ∧ (s.clkstop = none) :=
  ⟨5, up, by decide +kernel⟩
theorem witness_RegionCommands_14 : ∃ (p : Pkt) (s : State),
    (runs 0x73 p s = true) ∧ (p.pay.length = 2) ∧ ((word p 1).toNat % 16 = 0) ∧ (0x30000000 ≤ (word p 1).toNat) ∧ ((word p 1).toNat + imageBytes (bit (word p 0) 8) ≤ 0x31000000) ∧ (regOwner (taken p s) (fld (word p 0) 2 0) = sender p s) ∧ (((List.range (((word p 1).toNat - 0x30000000 + imageBytes (bit (word p 0) 8) - 1) / 4096 + 1 - ((word p 1).toNat - 0x30000000) / 4096)).any fun k => ownerOf (taken p s) 0x0E (((word p 1).toNat - 0x30000000) / 4096 + k) != sender p s) = false) ∧ (2 ≤ regionState (taken p s) (fld (word p 0) 2 0)) ∧ (regionHeld (taken p s) (fld (word p 0) 2 0) = false) ∧ (opsFull (taken p s) p.q.val = false) :=
  ⟨pk [5, 0x30000010], offer 0x73 (pk [5, 0x30000010]) (setF (fbk 5 0) 2 0 4 up), by decide +kernel⟩
theorem witness_RegionCommands_15 : ∃ (r : Fin 8) (o : LongOp) (dest : Nat) (m coh : Bool) (s : State),
    (live s = true) ∧ (readbackOp s r.val = some o) ∧ (o.kind = .readback r.val dest m coh) :=
  ⟨5, ⟨64, 1, false, 0, .readback 5 16 false true, none, false⟩, 16, false, true, { up with ops := [⟨64, 1, false, 0, .readback 5 16 false true, none, false⟩] }, by decide +kernel⟩
theorem witness_LedgerCommands_1 : ∃ (c i t n : Nat) (s : State),
    (t ∈ ledRight c) ∧ (i < 4096) ∧ (balanced c i s) :=
  ⟨7, 64, 4, 9, up, by decide +kernel⟩
theorem witness_LedgerCommands_2 : ∃ (c i t u n : Nat) (s : State),
    (t ∈ ledRight c) ∧ (u ∈ ledRight c) ∧ (t ≠ u) ∧ (n ≤ ledGet s c i u) ∧ (i < 4096) ∧ (balanced c i s) :=
  ⟨7, 64, 1, 4, 1, ledAdd 7 64 4 1 (ledAdd 7 64 0 1 up), by decide +kernel⟩
theorem witness_LedgerCommands_3 : ∃ (p : Pkt) (st : Nat) (pay : List Word) (c i : Nat) (s : State),
    (ledGet s 7 p.q.val 4 < 2 ^ 64 - 1) ∧ (i < 4096) ∧ (balanced c i s) :=
  ⟨pk [], 0, [], 7, 64, up, by decide +kernel⟩
theorem witness_LedgerCommands_4 : ∃ (q : Fin 65) (c i : Nat) (s : State),
    (i < 4096) ∧ (balanced c i s) :=
  ⟨64, 7, 64, up, by decide +kernel⟩
theorem witness_LedgerCommands_5 : ∃ (w : Waiting) (c i : Nat) (s : State),
    (w.q < 65) ∧ (1 ≤ ledGet s 7 w.q 4) ∧ (i < 4096) ∧ (balanced c i s) :=
  ⟨⟨64, 1, false, 0⟩, 7, 64, ledAdd 7 64 4 1 (ledAdd 7 64 0 1 up), by decide +kernel⟩
theorem witness_LedgerCommands_6 : ∃ (q : Fin 65) (st tag : Nat) (n : Bool) (pay : List Word) (c i : Nat) (s : State),
    (1 ≤ ledGet s 7 q.val 4) ∧ (i < 4096) ∧ (balanced c i s) :=
  ⟨64, 0, 1, false, [], 7, 64, ledAdd 7 64 4 1 (ledAdd 7 64 0 1 up), by decide +kernel⟩
theorem witness_LedgerCommands_7 : ∃ (n : Fin 96) (l : Line) (excl : Nat) (c i : Nat) (s : State),
    (excl ≤ l.count) ∧ (i < 4096) ∧ (balanced c i s) :=
  ⟨5, ⟨0, 5, 0, 0, 0, false, true, false, false, 0, 0, 16, false, false, false, 0, none, none⟩, 7, 7, 64, up, by decide +kernel⟩
theorem witness_LedgerCommands_8 : ∃ (n : Fin 96) (c i : Nat) (s : State),
    (i < 4096) ∧ (balanced c i s) :=
  ⟨5, 7, 64, up, by decide +kernel⟩
theorem witness_LedgerCommands_9 : ∃ (n : Fin 96) (c i : Nat) (s : State),
    (i < 4096) ∧ (balanced c i s) :=
  ⟨5, 7, 64, up, by decide +kernel⟩
theorem witness_LedgerCommands_10 : ∃ (p : Entry → Bool) (term c i : Nat) (s : State), (term ∈ [1, 2, 3, 4, 5]) ∧ (∀ e ∈ s.paq, e.owner < 4096) ∧
    (∀ o, ((s.paq.filter p).filter fun e => e.owner == o).length ≤ ledGet s 3 o 6) ∧ (i < 4096) ∧ (balanced c i s) :=
  ⟨fun _ => true, 3, 3, 5, ledAdd 3 3 6 1 (ledAdd 3 3 0 1 { up with paq := [⟨0, 5, 1, 5, 0, 3, false, false, false⟩] }), by decide, by decide +kernel, by
    intro o
    by_cases h : o = 3
    · subst h; decide +kernel
    · refine le_trans (le_of_eq ?_) (Nat.zero_le _)
      have : (3 == o) = false := by simp; omega
      show (([(⟨0, 5, 1, 5, 0, 3, false, false, false⟩ : Entry)].filter fun _ => true).filter fun e => e.owner == o).length = 0
      simp [this], by decide, by decide +kernel⟩
theorem witness_LedgerCommands_11 : ∃ (t : Fin 8) (c i : Nat) (s : State),
    (i < 4096) ∧ (balanced c i s) :=
  ⟨3, 7, 64, up, by decide +kernel⟩
theorem witness_LedgerCommands_12 : ∃ (ts : List (Fin 8)) (c i : Nat) (s : State),
    (i < 4096) ∧ (balanced c i s) :=
  ⟨[3], 7, 64, up, by decide +kernel⟩
theorem witness_LedgerCommands_13 : ∃ (k : Fin 8) (kind : Nat) (a b : Bool) (pay : List Word) (c i : Nat) (s : State),
    (1 ≤ ledGet s 6 k.val 2) ∧ (i < 4096) ∧ (balanced c i s) :=
  ⟨3, 1, true, true, [], 7, 64, ledAdd 6 3 2 1 (ledAdd 6 3 0 1 up), by decide +kernel⟩
theorem witness_LedgerCommands_14 : ∃ (k : Fin 8) (a b : Word) (c i : Nat) (s : State),
    (i < 4096) ∧ (balanced c i s) :=
  ⟨3, 0, 0, 7, 64, up, by decide +kernel⟩
theorem witness_LedgerCommands_15 : ∃ (p : Pkt) (s : State),
    (runs 0x80 p s = true) ∧ (p.pay.length = 0) ∧ (sender p s ≠ 0) :=
  ⟨pk3 [], offer 0x80 (pk3 []) { setF ⟨.pmode, 1, 0⟩ 1 0 1 tenant with links := Vector.replicate 8 { Link.reset with up := true, bme := true, mse := true, perst := true } }, by decide +kernel⟩
theorem witness_LedgerCommands_16 : ∃ (p : Pkt) (s : State),
    (runs 0x80 p s = true) ∧ (p.pay.length = 0) ∧ (sender p s = 0) :=
  ⟨pk [], offer 0x80 (pk []) up, by decide +kernel⟩
theorem witness_LedgerCommands_17 : ∃ (p : Pkt) (insts words : Nat) (x : Snap) (s : State),
    (runs 0x81 p s = true) ∧ (p.pay.length = 2) ∧ (section_ (fld (word p 1) 7 0) = some (insts, words)) ∧ (1 ≤ fld (word p 1) 15 8) ∧ (fld (word p 1) 31 16 + fld (word p 1) 15 8 ≤ insts) ∧ (2 + fld (word p 1) 15 8 * words ≤ 255) ∧ ((sender p s != 0 && [6, 8, 0xA, 0xB].contains (fld (word p 1) 7 0)) = false) ∧ (((taken p s).snaps.find? fun x => x.part == sender p s && BitVec.ofNat 32 x.seq == word p 0) = some x) ∧ (fld (word p 1) 7 0 ≠ 0x0B ∨ prior (taken p s) = true) :=
  ⟨pk [7, 0x50103], 32, 17, ⟨0, 7, 5, 0, [], []⟩, offer 0x81 (pk [7, 0x50103]) { up with snaps := [⟨0, 7, 5, 0, [], []⟩] }, by decide +kernel⟩
theorem witness_FaultCommands_2 : ∃ (e : Entry) (late : Bool) (s : State),
    (actBad e.act0 e.act1 = false) ∧ ((fld e.act0 3 0 = 3 ∧ ownerOf s 0x0B (fld e.act0 14 8) ≠ e.owner) ∨ (fld e.act0 3 0 = 4 ∧ ownerOf s 0x04 (fld e.act0 14 8) ≠ e.owner) ∨ (fld e.act0 3 0 = 5 ∧ ownerOf s 0x07 (fld e.act0 14 8) ≠ e.owner)) :=
  ⟨⟨0, 5, 4, 5, 0, 3, false, false, false⟩, false, up, by decide +kernel⟩
theorem witness_FaultCommands_3 : ∃ (g : Nat) (s : State),
    (sext 64 ((gen s g).nextT - BitVec.ofNat 64 ((axis s (rf s (gk g 0) 2 0)).pos.toNat * 65536)).toNat = 0) ∧ (genMay s g = false) :=
  ⟨3, setOwner 0x07 3 2 up, by decide +kernel⟩
theorem witness_FaultCommands_4 : ∃ (r : Report) (v : Nat) (s : State),
    (v ≤ 4) :=
  ⟨⟨0x102, some 5, 0, 0xFE, 0x10, 3, 0, 0, false, false, none⟩, 2, up, by decide +kernel⟩
theorem witness_FaultCommands_5 : ∃ (ws : List Word) (k : Nat) (s : State),
    (ws.length = 8) ∧ (k < 8) :=
  ⟨[1, 2, 3, 4, 5, 6, 7, 8], 7, up, by decide +kernel⟩
theorem witness_FaultCommands_7 : ∃ (r : Report) (v : Nat) (s : State),
    (raiseSev s r = v) :=
  ⟨⟨0x102, some 5, 0, 0xFE, 0x10, 3, 0, 0, false, false, none⟩, 1, up, by decide +kernel⟩
theorem witness_FaultCommands_9 : ∃ (ws : List Word) (v : Nat) (s : State),
    (s.flt.wrBusy = 0) ∧ (s.flt.fifo.length < 64) :=
  ⟨[1, 2, 3, 4, 5, 6, 7, 8], 1, up, by decide +kernel⟩
theorem witness_FaultCommands_10 : ∃ (ws : List Word) (v : Nat) (s : State),
    (s.flt.wrBusy ≠ 0) ∧ (s.flt.wrWait = none) :=
  ⟨[1], 1, modFlt (fun f => { f with wrBusy := 7 }) up, by decide +kernel⟩
theorem witness_FaultCommands_11 : ∃ (ws : List Word) (v : Nat) (s : State),
    (s.flt.wrBusy ≠ 0) ∧ (s.flt.wrWait.isSome = true) :=
  ⟨[1], 1, modFlt (fun f => { f with wrBusy := 7, wrWait := some ([], 0) }) up, by decide +kernel⟩
theorem witness_FaultCommands_12 : ∃ (ws : List Word) (v : Nat) (s : State),
    (s.flt.wrBusy = 0) ∧ (64 ≤ s.flt.fifo.length) :=
  ⟨[1], 1, modFlt (fun f => { f with fifo := List.replicate 64 [] }) up, by decide +kernel⟩
theorem witness_FaultCommands_15 : ∃ (t c k : Nat) (s : State),
    (t < 8) ∧ (k ∈ [2, 3, 4, 5, 6, 0xD, 0xE]) :=
  ⟨1, 5, 2, up, by decide +kernel⟩
theorem witness_FaultCommands_16 : ∃ (t c k : Nat) (s : State),
    (t < 8) ∧ (k ∈ [7, 8, 9]) :=
  ⟨1, 5, 9, up, by decide +kernel⟩
theorem witness_FaultCommands_17 : ∃ (t k : Nat) (m : Option Nat) (s : State),
    (t < 8) ∧ (k ∈ [0, 1, 0xF]) :=
  ⟨1, 1, none, up, by decide +kernel⟩
theorem witness_FaultCommands_18 : ∃ (e : Nat) (s : State),
    (e < 32) :=
  ⟨31, up, by decide +kernel⟩
theorem witness_FaultCommands_19 : ∃ (n : Nat) (m : Option Nat) (s : State),
    (n < 16) :=
  ⟨15, none, up, by decide +kernel⟩
theorem witness_FaultCommands_20 : ∃ (s : State),
    ((s.por || s.rstn || s.pfail) = true) :=
  ⟨{ up with pfail := true }, by decide +kernel⟩
theorem witness_FaultCommands_21 : ∃ (r : Report) (s : State),
    ((s.por || s.rstn || s.pfail) = false) ∧ (s.rep = [r]) ∧ ((takeReport r { s with rep := [] }).rep = []) :=
  ⟨⟨0x102, some 5, 0, 0xFE, 0x10, 3, 0, 0, false, false, none⟩, { up with rep := [⟨0x102, some 5, 0, 0xFE, 0x10, 3, 0, 0, false, false, none⟩] }, by decide +kernel⟩
theorem witness_FaultCommands_22 : ∃ (p : Pkt) (s : State),
    (runs 0x91 p s = true) ∧ (p.pay.length = 1) ∧ (bit (word p 0) 31 = true) ∧ ((((List.range 512).filter fun i => latched (taken p s) i && ownsLatched (taken p s) (sender p s) i).any fun i => !ownsLatched (taken p s) (sender p s) i) = false) ∧ ((((List.range 512).filter fun i => latched (taken p s) i && ownsLatched (taken p s) (sender p s) i).any fun i => liveMask (taken p s).flt i != 0) = false) :=
  ⟨pk [0xC0000000], offer 0x91 (pk [0xC0000000]) (setB (srk 0x10 4) 1 true up), by decide +kernel⟩
theorem witness_FaultCommands_23 : ∃ (p : Pkt) (s : State),
    (runs 0x90 p s = true) ∧ (p.pay.length = 1) ∧ (fld (word p 0) 1 0 = 0) ∧ (1 ≤ fld (word p 0) 13 8) ∧ (fld (word p 0) 13 8 ≤ 31) ∧ (sender p s = 0) :=
  ⟨pk [0x300], offer 0x90 (pk [0x300]) up, by decide +kernel⟩
theorem witness_FaultCommands_24 : ∃ (p : Pkt) (s : State),
    (runs 0x90 p s = true) ∧ (p.pay.length = 1) ∧ (fld (word p 0) 1 0 = 1) ∧ (sender p s = 0) :=
  ⟨pk [1], offer 0x90 (pk [1]) up, by decide +kernel⟩
theorem witness_FaultCommands_25 : ∃ (p : Pkt) (s : State),
    (runs 0x90 p s = true) ∧ (p.pay.length = 1) ∧ (fld (word p 0) 1 0 = 2) ∧ (1 ≤ fld (word p 0) 13 8) ∧ (fld (word p 0) 24 16 + fld (word p 0) 13 8 ≤ 512) ∧ ((((List.range (fld (word p 0) 13 8)).map (fld (word p 0) 24 16 + ·)).any fun i => !ownsSome (taken p s) (sender p s) i) = false) :=
  ⟨pk [0x1C13F02], offer 0x90 (pk [0x1C13F02]) up, by decide +kernel⟩
theorem witness_FaultCommands_26 : ∃ (p : Pkt) (s : State),
    (runs 0x91 p s = true) ∧ (p.pay.length = 1) ∧ (bit (word p 0) 31 = false) ∧ (1 ≤ fld (word p 0) 25 16) ∧ (fld (word p 0) 8 0 + fld (word p 0) 25 16 ≤ 512) ∧ (((((List.range (fld (word p 0) 25 16)).map (fld (word p 0) 8 0 + ·)).filter (latched (taken p s))).any fun i => !ownsLatched (taken p s) (sender p s) i) = false) ∧ (((((List.range (fld (word p 0) 25 16)).map (fld (word p 0) 8 0 + ·)).filter (latched (taken p s))).any fun i => liveMask (taken p s).flt i != 0) = false) :=
  ⟨pk [0x40020010], offer 0x91 (pk [0x40020010]) (setB (srk 0x10 4) 1 true up), by decide +kernel⟩
theorem witness_FaultCommands_27 : ∃ (p : Pkt) (s : State),
    (runs 0x93 p s = true) ∧ (p.pay.length = 2) ∧ (1 ≤ fld (word p 0) 25 16) ∧ (fld (word p 0) 8 0 + fld (word p 0) 25 16 ≤ 512) ∧ (fld (word p 1) 2 0 ≤ 4) ∧ (sender p s = 0) ∧ ((((List.range (fld (word p 0) 25 16)).map (fld (word p 0) 8 0 + ·)).filter srcUsed).isEmpty = false) ∧ (rb (taken p s) (flk 0) 8 = false) :=
  ⟨pk [0x20010, 4], offer 0x93 (pk [0x20010, 4]) up, by decide +kernel⟩
theorem witness_FaultCommands_28 : ∃ (p : Pkt) (s : State),
    (runs 0x92 p s = true) ∧ (p.pay.length = 1) ∧ (fld (word p 0) 25 24 = 0) ∧ (sender p s ≠ 0) ∧ ((decide (0x010 ≤ (fld (word p 0) 8 0)) && decide ((fld (word p 0) 8 0) ≤ 0x017)) = false) ∧ ((!srcUsed (fld (word p 0) 8 0) || (match srcMembers (fld (word p 0) 8 0) with | some n => decide (n ≤ fld (word p 0) 20 16) | none => fld (word p 0) 20 16 != 0)) = false) :=
  ⟨pk3 [0x50102], offer 0x92 (pk3 [0x50102]) tenantUp, by decide +kernel⟩
theorem witness_FaultCommands_29 : ∃ (p : Pkt) (s : State),
    (runs 0x92 p s = true) ∧ (p.pay.length = 1) ∧ (fld (word p 0) 25 24 = 1) ∧ (sender p s ≠ 0) ∧ ((decide (0x010 ≤ (fld (word p 0) 8 0)) && decide ((fld (word p 0) 8 0) ≤ 0x017)) = false) ∧ ((!srcUsed (fld (word p 0) 8 0) || (match srcMembers (fld (word p 0) 8 0) with | some n => decide (n ≤ fld (word p 0) 20 16) | none => fld (word p 0) 20 16 != 0)) = false) :=
  ⟨pk3 [0x1050102], offer 0x92 (pk3 [0x1050102]) tenantUp, by decide +kernel⟩
theorem witness_FaultCommands_30 : ∃ (p : Pkt) (s : State),
    (runs 0x92 p s = true) ∧ (p.pay.length = 1) ∧ (fld (word p 0) 25 24 = 2) ∧ (sender p s ≠ 0) ∧ ((decide (0x010 ≤ (fld (word p 0) 8 0)) && decide ((fld (word p 0) 8 0) ≤ 0x017)) = false) ∧ ((!srcUsed (fld (word p 0) 8 0) || (match srcMembers (fld (word p 0) 8 0) with | some n => decide (n ≤ fld (word p 0) 20 16) | none => fld (word p 0) 20 16 != 0)) = false) :=
  ⟨pk3 [0x2050102], offer 0x92 (pk3 [0x2050102]) tenantUp, by decide +kernel⟩
theorem witness_FaultCommands_31 : ∃ (p : Pkt) (s : State),
    (runs 0x92 p s = true) ∧ (p.pay.length = 1) ∧ (fld (word p 0) 25 24 = 3) ∧ (sender p s ≠ 0) ∧ ((decide (0x010 ≤ (fld (word p 0) 8 0)) && decide ((fld (word p 0) 8 0) ≤ 0x017)) = false) ∧ ((!srcUsed (fld (word p 0) 8 0) || (match srcMembers (fld (word p 0) 8 0) with | some n => decide (n ≤ fld (word p 0) 20 16) | none => fld (word p 0) 20 16 != 0)) = false) :=
  ⟨pk3 [0x3050102], offer 0x92 (pk3 [0x3050102]) tenantUp, by decide +kernel⟩
theorem witness_FaultCommands_32 : ∃ (p : Pkt) (s : State),
    (runs 0x90 p s = true) ∧ (p.pay.length = 1) ∧ (fld (word p 0) 1 0 = 1) ∧ (sender p s ≠ 0) :=
  ⟨pk3 [1], offer 0x90 (pk3 [1]) tenantUp, by decide +kernel⟩
theorem witness_FaultCommands_33 : ∃ (p : Pkt) (s : State),
    (runs 0x93 p s = true) ∧ (p.pay.length = 2) ∧ ((fld (word p 0) 25 16 = 0 || decide (512 < fld (word p 0) 8 0 + fld (word p 0) 25 16)) = false) ∧ (¬ 4 < fld (word p 1) 2 0) ∧ ((((List.range (fld (word p 0) 25 16)).map (fld (word p 0) 8 0 + ·)).filter srcUsed).isEmpty = false) ∧ (sender p s ≠ 0) :=
  ⟨pk3 [0x20010, 4], offer 0x93 (pk3 [0x20010, 4]) tenantUp, by decide +kernel⟩
theorem witness_FaultCommands_34 : ∃ (p : Pkt) (s : State),
    (runs 0x92 p s = true) ∧ (p.pay.length = 1) ∧ (fld (word p 0) 25 24 = 0) ∧ (sender p s = 0) ∧ ((decide (0x010 ≤ (fld (word p 0) 8 0)) && decide ((fld (word p 0) 8 0) ≤ 0x017)) = false) ∧ ((!srcUsed (fld (word p 0) 8 0) || (match srcMembers (fld (word p 0) 8 0) with | some n => decide (n ≤ fld (word p 0) 20 16) | none => fld (word p 0) 20 16 != 0)) = false) :=
  ⟨pk [0x50102], offer 0x92 (pk [0x50102]) up, by decide +kernel⟩
theorem witness_FaultCommands_35 : ∃ (p : Pkt) (s : State),
    (runs 0x92 p s = true) ∧ (p.pay.length = 1) ∧ (fld (word p 0) 25 24 = 1) ∧ (sender p s = 0) ∧ ((decide (0x010 ≤ (fld (word p 0) 8 0)) && decide ((fld (word p 0) 8 0) ≤ 0x017)) = false) ∧ ((!srcUsed (fld (word p 0) 8 0) || (match srcMembers (fld (word p 0) 8 0) with | some n => decide (n ≤ fld (word p 0) 20 16) | none => fld (word p 0) 20 16 != 0)) = false) ∧ (liveMask (taken p s).flt (fld (word p 0) 8 0) &&& memBit (memOf (fld (word p 0) 8 0) (fld (word p 0) 20 16)) = 0) :=
  ⟨pk [0x1050102], offer 0x92 (pk [0x1050102]) up, by decide +kernel⟩
theorem witness_FaultCommands_36 : ∃ (p : Pkt) (s : State),
    (runs 0x92 p s = true) ∧ (p.pay.length = 1) ∧ (fld (word p 0) 25 24 = 2) ∧ (sender p s = 0) ∧ ((decide (0x010 ≤ (fld (word p 0) 8 0)) && decide ((fld (word p 0) 8 0) ≤ 0x017)) = false) ∧ ((!srcUsed (fld (word p 0) 8 0) || (match srcMembers (fld (word p 0) 8 0) with | some n => decide (n ≤ fld (word p 0) 20 16) | none => fld (word p 0) 20 16 != 0)) = false) ∧ ((nget 0 (taken p s).flt.bw (fld (word p 0) 8 0) ||| nget 0 (taken p s).flt.bwInj (fld (word p 0) 8 0)) &&& memBit (memOf (fld (word p 0) 8 0) (fld (word p 0) 20 16)) = 0) :=
  ⟨pk [0x2050102], offer 0x92 (pk [0x2050102]) up, by decide +kernel⟩
theorem witness_FaultCommands_37 : ∃ (p : Pkt) (s : State),
    (runs 0x92 p s = true) ∧ (p.pay.length = 1) ∧ (fld (word p 0) 25 24 = 3) ∧ (sender p s = 0) ∧ ((decide (0x010 ≤ (fld (word p 0) 8 0)) && decide ((fld (word p 0) 8 0) ≤ 0x017)) = false) ∧ ((!srcUsed (fld (word p 0) 8 0) || (match srcMembers (fld (word p 0) 8 0) with | some n => decide (n ≤ fld (word p 0) 20 16) | none => fld (word p 0) 20 16 != 0)) = false) :=
  ⟨pk [0x3050102], offer 0x92 (pk [0x3050102]) up, by decide +kernel⟩
theorem witness_NvmCommands_1 : ∃ (p : Pkt) (s : State),
    (runs 0xA0 p s = true) ∧ (p.pay.length = 2) ∧ ((fld (word p 0) 17 0) % 4 = 0) ∧ (1 ≤ fld (word p 1) 7 0) ∧ (fld (word p 1) 7 0 ≤ 254) ∧ ((!nvmOneArea (fld (word p 0) 17 0) (fld (word p 1) 7 0) || nvmArea ((fld (word p 0) 17 0) / 256) == some 3) = false) ∧ (sender p s = 0) :=
  ⟨pk [0x4000, 2], offer 0xA0 (pk [0x4000, 2]) up, by decide +kernel⟩
theorem witness_NvmCommands_2 : ∃ (p : Pkt) (s : State),
    (runs 0xA1 p s = true) ∧ (2 ≤ p.pay.length) ∧ (p.pay.length ≤ 66) ∧ ((fld (word p 0) 17 0) % 4 = 0) ∧ (1 ≤ fld (word p 1) 6 0) ∧ (fld (word p 1) 6 0 ≤ 64) ∧ (p.pay.length = 2 + fld (word p 1) 6 0) ∧ ((!nvmOneArea (fld (word p 0) 17 0) (fld (word p 1) 6 0) || (fld (word p 0) 17 0) / 256 != ((fld (word p 0) 17 0) + 4 * fld (word p 1) 6 0 - 1) / 256) = false) ∧ ((sender p s != 0 && nvmArea ((fld (word p 0) 17 0) / 256) != some 2) = false) ∧ ((nvmBusy (taken p s) || opsFull (taken p s) p.q.val) = false) ∧ (nvmRefusal (taken p s) (nvmArea ((fld (word p 0) 17 0) / 256)) (fld (word p 0) 17 0) (fld (word p 1) 6 0) = none) ∧ (nvmRangeBad (taken p s) (nvmArea ((fld (word p 0) 17 0) / 256)) (fld (word p 0) 17 0) (fld (word p 1) 6 0) = false) :=
  ⟨pk [0x20000, 1, 7], offer 0xA1 (pk [0x20000, 1, 7]) up, by decide +kernel⟩
theorem witness_NvmCommands_3 : ∃ (ok : Bool) (o : LongOp) (a : Nat) (ws : List Word) (s : State),
    (live s = true) ∧ (nvmOp s = some o) ∧ (o.kind = .nvmWrite a ws) ∧ (ok = true) ∧ (a / 256 ≠ 65) ∧ (a / 256 ≠ 66) :=
  ⟨true, ⟨64, 1, false, 0, .nvmWrite 0x20000 [7], none, false⟩, 0x20000, [7], { up with ops := [⟨64, 1, false, 0, .nvmWrite 0x20000 [7], none, false⟩] }, by decide +kernel⟩
theorem witness_NvmCommands_4 : ∃ (ok : Bool) (o : LongOp) (a : Nat) (ws : List Word) (s : State),
    (live s = true) ∧ (nvmOp s = some o) ∧ (o.kind = .nvmWrite a ws) ∧ (ok = true) ∧ (a / 256 = 65) :=
  ⟨true, ⟨64, 1, false, 0, .nvmWrite 0x4100 [7], none, false⟩, 0x4100, [7], { up with ops := [⟨64, 1, false, 0, .nvmWrite 0x4100 [7], none, false⟩] }, by decide +kernel⟩
theorem witness_NvmCommands_5 : ∃ (ok : Bool) (o : LongOp) (a : Nat) (ws : List Word) (s : State),
    (live s = true) ∧ (nvmOp s = some o) ∧ (o.kind = .nvmWrite a ws) ∧ (ok = true) ∧ (a / 256 = 66) :=
  ⟨true, ⟨64, 1, false, 0, .nvmWrite 0x4200 [7], none, false⟩, 0x4200, [7], { up with ops := [⟨64, 1, false, 0, .nvmWrite 0x4200 [7], none, false⟩] }, by decide +kernel⟩
theorem witness_NvmCommands_6 : ∃ (ok : Bool) (o : LongOp) (a : Nat) (ws : List Word) (s : State),
    (live s = true) ∧ (nvmOp s = some o) ∧ (o.kind = .nvmWrite a ws) ∧ (ok = false) :=
  ⟨false, ⟨64, 1, false, 0, .nvmWrite 0x20000 [7], none, false⟩, 0x20000, [7], { up with ops := [⟨64, 1, false, 0, .nvmWrite 0x20000 [7], none, false⟩] }, by decide +kernel⟩
theorem witness_NvmCommands_7 : ∃ (p : Pkt) (s : State),
    (runs 0xA0 p s = true) ∧ (p.pay.length = 2) ∧ (¬ (fld (word p 0) 17 0) % 4 ≠ 0) ∧ ((fld (word p 1) 7 0 = 0 || fld (word p 1) 7 0 == 255) = false) ∧ ((!nvmOneArea (fld (word p 0) 17 0) (fld (word p 1) 7 0) || nvmArea ((fld (word p 0) 17 0) / 256) == some 3) = false) ∧ (sender p s ≠ 0) :=
  ⟨pk3 [0x4000, 2], offer 0xA0 (pk3 [0x4000, 2]) tenantUp, by decide +kernel⟩
theorem witness_NvmCommands_8 : ∃ (p : Pkt) (s : State),
    (runs 0xA2 p s = true) ∧ (p.pay.length = 1) ∧ (fld (word p 0) 2 0 ≠ 0) ∧ (sender p s ≠ 0) :=
  ⟨pk3 [1], offer 0xA2 (pk3 [1]) tenantUp, by decide +kernel⟩
theorem witness_NvmCommands_9 : ∃ (p : Pkt) (s : State),
    (runs 0xA2 p s = true) ∧ (p.pay.length = 1) ∧ (fld (word p 0) 2 0 ≠ 0) ∧ (sender p s = 0) ∧ ((nvmBusy (taken p s) || opsFull (taken p s) p.q.val) = false) :=
  ⟨pk [7], offer 0xA2 (pk [7]) up, by decide +kernel⟩
theorem witness_NvmCommands_10 : ∃ (o : LongOp) (m : Nat) (s : State),
    (live s = true) ∧ (lockOp s = some o) ∧ (o.kind = .nvmLock m) :=
  ⟨⟨64, 1, false, 0, .nvmLock 5, none, false⟩, 5, { up with ops := [⟨64, 1, false, 0, .nvmLock 5, none, false⟩] }, by decide +kernel⟩
theorem witness_SupervisoryCommands_1 : ∃ (p : Pkt) (s : State),
    (runs 0xB0 p s = true) ∧ (p.pay.length = 1) ∧ (1 ≤ fld (word p 0) 13 8) ∧ (fld (word p 0) 13 8 ≤ 32) ∧ (fld (word p 0) 6 0 + fld (word p 0) 13 8 ≤ 128) ∧ (((List.range (fld (word p 0) 13 8)).any fun i => ownerOf (taken p s) 0x09 ((fld (word p 0) 6 0) + i) != sender p s) = false) ∧ ((bit (word p 0) 17 == false && (List.range (fld (word p 0) 13 8)).any fun i => busy (taken p s) 0x09 ((fld (word p 0) 6 0) + i)) = false) :=
  ⟨pk [0x260], offer 0xB0 (pk [0x260]) up, by decide +kernel⟩
theorem witness_SupervisoryCommands_2 : ∃ (p : Pkt) (s : State),
    (runs 0xB1 p s = true) ∧ (p.pay.length = 1) ∧ (bit (word p 0) 8 = false) ∧ (ownerOf (taken p s) 0x09 (fld (word p 0) 6 0) = sender p s) ∧ (supOdd (taken p s) (fld (word p 0) 6 0) = false) ∧ (busy (taken p s) 0x09 (fld (word p 0) 6 0) = false) ∧ (standby (taken p s) = false) :=
  ⟨pk [9], offer 0xB1 (pk [9]) up, by decide +kernel⟩
theorem witness_SupervisoryCommands_3 : ∃ (p : Pkt) (s : State),
    (runs 0xB1 p s = true) ∧ (p.pay.length = 1) ∧ (bit (word p 0) 8 = true) ∧ (ownerOf (taken p s) 0x09 (fld (word p 0) 6 0) = sender p s) ∧ (supOdd (taken p s) (fld (word p 0) 6 0) = false) ∧ ((decide (64 ≤ (fld (word p 0) 6 0)) || supDiff (taken p s) (fld (word p 0) 6 0) || decide (fld (word p 0) 25 16 < 16) || decide (1000 < fld (word p 0) 25 16)) = false) ∧ (busy (taken p s) 0x09 (fld (word p 0) 6 0) = false) ∧ (standby (taken p s) = false) :=
  ⟨pk [0x3E80109], offer 0xB1 (pk [0x3E80109]) up, by decide +kernel⟩
theorem witness_FireflyCommands_1 : ∃ (p : Pkt) (s : State),
    (runs 0xC0 p s = true) ∧ (p.pay.length = 1 + ((fld (word p 0) 24 16) + 1) / 2) ∧ ((fld (word p 0) 6 0) ≤ 95) ∧ ((fld (word p 0) 24 16) ≤ 256) ∧ ((fld (word p 0) 24 16) ≠ 0 ∨ bit (word p 0) 8 = true) ∧ (ownerOf (taken p s) 0x04 (fld (word p 0) 6 0) = sender p s) ∧ (busy (taken p s) 0x04 (fld (word p 0) 6 0) = false) ∧ ((fld (word p 0) 24 16) ≤ 256 - (if bit (word p 0) 8 then 0 else (ffP (taken p s) (fld (word p 0) 6 0)).q.length)) :=
  ⟨pk [0x20105, 0x40010002], offer 0xC0 (pk [0x20105, 0x40010002]) up, by decide +kernel⟩
theorem witness_FireflyCommands_2 : ∃ (p : Pkt) (s : State),
    (runs 0xC1 p s = true) ∧ (p.pay.length = 4) ∧ (((mask96 (word p 1) (word p 2) (word p 3)).any fun n => ownerOf (taken p s) 0x04 n != sender p s) = false) ∧ ((!(bitsOf (word p 0) 8).isEmpty && sender p s != 0) = false) ∧ (((bitsOf (word p 0) 8).isEmpty && (mask96 (word p 1) (word p 2) (word p 3)).isEmpty) = false) ∧ (((mask96 (word p 1) (word p 2) (word p 3)).any (busy (taken p s) 0x04)) = false) ∧ (((mask96 (word p 1) (word p 2) (word p 3)).any (rawOf (taken p s))) = false) ∧ (((bitsOf (word p 0) 8).any fun t => (tile (taken p s) t).trip) = false) :=
  ⟨pk [5, 0x20, 0, 0], offer 0xC1 (pk [5, 0x20, 0, 0]) up, by decide +kernel⟩
theorem witness_SwarmCommands_1 : ∃ (p : Pkt) (s : State),
    (runs 0xD0 p s = true) ∧ (p.pay.length = 1) ∧ (fld (word p 0) 1 0 = 0) ∧ (holds (taken p s) 16 (sender p s) = true) ∧ (swHeld (taken p s) = false) ∧ (opsFull (taken p s) p.q.val = false) :=
  ⟨pk [0], offer 0xD0 (pk [0]) { up with leases := [⟨16, 0, 9⟩] }, by decide +kernel⟩
theorem witness_SwarmCommands_2 : ∃ (p : Pkt) (s : State),
    (runs 0xD0 p s = true) ∧ (p.pay.length = 1) ∧ (fld (word p 0) 1 0 = 1) ∧ (holds (taken p s) 16 (sender p s) = true) ∧ (swHeld (taken p s) = false) ∧ (opsFull (taken p s) p.q.val = false) ∧ (swState (taken p s) = 0) ∧ (rb (taken p s) (swk 0) 3 = false) :=
  ⟨pk [1], offer 0xD0 (pk [1]) { up with leases := [⟨16, 0, 9⟩] }, by decide +kernel⟩
theorem witness_SwarmCommands_3 : ∃ (p : Pkt) (s : State),
    (runs 0xD0 p s = true) ∧ (p.pay.length = 1) ∧ (fld (word p 0) 1 0 = 2) ∧ (holds (taken p s) 16 (sender p s) = true) ∧ (swHeld (taken p s) = false) ∧ (opsFull (taken p s) p.q.val = false) ∧ (swState (taken p s) = 0) ∧ (rb (taken p s) (swk 0) 3 = true) ∧ (exportArmed (taken p s) = false) :=
  ⟨pk [2], offer 0xD0 (pk [2]) (setB (swk 0) 3 true { up with leases := [⟨16, 0, 9⟩] }), by decide +kernel⟩
theorem witness_SwarmCommands_4 : ∃ (p : Pkt) (s : State),
    (runs 0xD0 p s = true) ∧ (p.pay.length = 1) ∧ (fld (word p 0) 1 0 = 2) ∧ (holds (taken p s) 16 (sender p s) = true) ∧ (swHeld (taken p s) = false) ∧ (opsFull (taken p s) p.q.val = false) ∧ (swState (taken p s) = 0) ∧ (rb (taken p s) (swk 0) 3 = true) ∧ (exportArmed (taken p s) = true) :=
  ⟨pk [2], offer 0xD0 (pk [2]) (setB (gk 3 0x10) 0 true (setF (gk 3 0) 5 4 3 (wr (swk 0x10) 0xFFFFFFFF (setB (swk 0) 3 true { up with leases := [⟨16, 0, 9⟩] })))), by decide +kernel⟩
theorem witness_SwarmCommands_5 : ∃ (consecutive : Bool) (hops : List (BitVec 16 × BitVec 16)) (newTb : BitVec 64) (o : LongOp) (s : State),
    (live s = true) ∧ (rb s (swk 0) 3 = true) ∧ (s.ops.find? (fun o => match o.kind with | .train => true | _ => false) = some o) ∧ ((!consecutive || hops.length != swN s) = true) :=
  ⟨false, [], 9, ⟨64, 1, false, 0, .train, none, false⟩, setB (swk 0) 3 true { up with ops := [⟨64, 1, false, 0, .train, none, false⟩] }, by decide +kernel⟩
theorem witness_SwarmCommands_6 : ∃ (consecutive : Bool) (hops : List (BitVec 16 × BitVec 16)) (newTb : BitVec 64) (o : LongOp) (s : State),
    (live s = true) ∧ (rb s (swk 0) 3 = true) ∧ (s.ops.find? (fun o => match o.kind with | .train => true | _ => false) = some o) ∧ ((!consecutive || hops.length != swN s) = false) :=
  ⟨true, [(5, 6)], 9, ⟨64, 1, false, 0, .train, none, false⟩, setB (swk 0) 3 true (setF (swk 0) 6 4 0 { up with ops := [⟨64, 1, false, 0, .train, none, false⟩] }), by decide +kernel⟩
theorem witness_SwarmCommands_7 : ∃ (consecutive : Bool) (hops : List (BitVec 16 × BitVec 16)) (newTb : BitVec 64) (s : State),
    (live s = true) ∧ (rb s (swk 0) 3 = false) ∧ (swState s = 1) ∧ (consecutive = true) :=
  ⟨true, [], 9, setF (swk 0x20) 2 0 1 up, by decide +kernel⟩
theorem witness_SwarmCommands_8 : ∃ (p : Pkt) (s : State),
    (runs 0xD1 p s = true) ∧ (p.pay.length = 1) ∧ (1 ≤ fld (word p 0) 13 0) ∧ (fld (word p 0) 13 0 ≤ 10000) ∧ (holds (taken p s) 16 (sender p s) = true) ∧ (swHeld (taken p s) = false) ∧ (opsFull (taken p s) p.q.val = false) ∧ ((rb (taken p s) (swk 0) 3 || swState (taken p s) != 5) = false) :=
  ⟨pk [10000], offer 0xD1 (pk [10000]) (setF (swk 0x20) 2 0 5 { up with leases := [⟨16, 0, 9⟩] }), by decide +kernel⟩
theorem witness_SwarmCommands_9 : ∃ (q : Fin 65) (tag : BitVec 8) (o : LongOp) (d : Nat) (s : State),
    (live s = true) ∧ (opOf s q.val tag.toNat = some o) ∧ (o.kind = .resync d) ∧ (d ≤ s.tb) :=
  ⟨64, 1, ⟨64, 1, false, 0, .resync 0, none, false⟩, 0, { up with ops := [⟨64, 1, false, 0, .resync 0, none, false⟩] }, by decide +kernel⟩
theorem witness_DmaCommands_1 : ∃ (p : Pkt) (s : State),
    (runs 0xE0 p s = true) ∧ (p.pay.length = 1) ∧ (fld (word p 0) 10 8 = 1) ∧ ((dmaOwner (taken p s) (fld (word p 0) 5 0) != sender p s) = true) :=
  ⟨pk [261], offer 0xE0 (pk [261]) (setOwner 0x0C 5 2 up), by decide +kernel⟩
theorem witness_DmaCommands_2 : ∃ (p : Pkt) (s : State),
    (runs 0xE0 p s = true) ∧ (p.pay.length = 1) ∧ (fld (word p 0) 10 8 = 2) ∧ ((dmaOwner (taken p s) (fld (word p 0) 5 0) != sender p s) = true) :=
  ⟨pk [517], offer 0xE0 (pk [517]) (setOwner 0x0C 5 2 up), by decide +kernel⟩
theorem witness_DmaCommands_3 : ∃ (p : Pkt) (s : State),
    (runs 0xE0 p s = true) ∧ (p.pay.length = 1) ∧ (fld (word p 0) 10 8 = 3) ∧ ((dmaOwner (taken p s) (fld (word p 0) 5 0) != sender p s) = true) :=
  ⟨pk [773], offer 0xE0 (pk [773]) (setOwner 0x0C 5 2 up), by decide +kernel⟩
theorem witness_DmaCommands_4 : ∃ (p : Pkt) (s : State),
    (runs 0xE0 p s = true) ∧ (p.pay.length = 1) ∧ (fld (word p 0) 10 8 = 4) ∧ ((dmaOwner (taken p s) (fld (word p 0) 5 0) != sender p s) = true) :=
  ⟨pk [1029], offer 0xE0 (pk [1029]) (setOwner 0x0C 5 2 up), by decide +kernel⟩
theorem witness_DmaCommands_5 : ∃ (p : Pkt) (s : State),
    (runs 0xE0 p s = true) ∧ (p.pay.length = 1) ∧ (fld (word p 0) 10 8 = 5) ∧ ((dmaOwner (taken p s) (fld (word p 0) 5 0) != sender p s) = true) :=
  ⟨pk [1285], offer 0xE0 (pk [1285]) (setOwner 0x0C 5 2 up), by decide +kernel⟩
theorem witness_DmaCommands_6 : ∃ (p : Pkt) (s : State),
    (runs 0xE0 p s = true) ∧ (p.pay.length = 1) ∧ (fld (word p 0) 10 8 = 0) ∧ (dmaOwner (taken p s) (fld (word p 0) 5 0) = sender p s) ∧ (busy (taken p s) 0x0C (fld (word p 0) 5 0) = false) :=
  ⟨pk [5], offer 0xE0 (pk [5]) (setDmaState 5 1 up), by decide +kernel⟩
theorem witness_DmaCommands_7 : ∃ (p : Pkt) (s : State),
    (runs 0xE0 p s = true) ∧ (p.pay.length = 1) ∧ (fld (word p 0) 10 8 = 1) ∧ (dmaOwner (taken p s) (fld (word p 0) 5 0) = sender p s) ∧ (busy (taken p s) 0x0C (fld (word p 0) 5 0) = false) ∧ (1 ≤ dmaState (taken p s) (fld (word p 0) 5 0)) ∧ (dmaState (taken p s) (fld (word p 0) 5 0) ≤ 4) :=
  ⟨pk [261], offer 0xE0 (pk [261]) (setDmaState 5 2 up), by decide +kernel⟩
theorem witness_DmaCommands_8 : ∃ (p : Pkt) (s : State),
    (runs 0xE0 p s = true) ∧ (p.pay.length = 1) ∧ (fld (word p 0) 10 8 = 2) ∧ (dmaOwner (taken p s) (fld (word p 0) 5 0) = sender p s) ∧ (busy (taken p s) 0x0C (fld (word p 0) 5 0) = false) ∧ (dmaState (taken p s) (fld (word p 0) 5 0) = 3 ∨ dmaState (taken p s) (fld (word p 0) 5 0) = 4) :=
  ⟨pk [517], offer 0xE0 (pk [517]) (setDmaState 5 4 up), by decide +kernel⟩
theorem witness_DmaCommands_9 : ∃ (p : Pkt) (s : State),
    (runs 0xE0 p s = true) ∧ (p.pay.length = 1) ∧ (fld (word p 0) 10 8 = 3) ∧ (dmaOwner (taken p s) (fld (word p 0) 5 0) = sender p s) ∧ (busy (taken p s) 0x0C (fld (word p 0) 5 0) = false) ∧ (2 ≤ dmaState (taken p s) (fld (word p 0) 5 0)) ∧ (dmaState (taken p s) (fld (word p 0) 5 0) ≤ 4) :=
  ⟨pk [773], offer 0xE0 (pk [773]) (setDmaState 5 2 up), by decide +kernel⟩
theorem witness_DmaCommands_10 : ∃ (p : Pkt) (s : State),
    (runs 0xE0 p s = true) ∧ (p.pay.length = 1) ∧ (fld (word p 0) 10 8 = 4) ∧ (dmaOwner (taken p s) (fld (word p 0) 5 0) = sender p s) ∧ (busy (taken p s) 0x0C (fld (word p 0) 5 0) = false) ∧ (dmaState (taken p s) (fld (word p 0) 5 0) = 0) ∧ (¬ ((rd (taken p s) (dmk (fld (word p 0) 5 0) 8)).toNat % 32 ≠ 0 ∨ (rb (taken p s) (dmk (fld (word p 0) 5 0) 4) 3 = true ∧
    (roleOf (taken p s) (dmaPort (taken p s) (fld (word p 0) 5 0)) ≠ 1 ∨ !((List.range 8).any fun j => bound (taken p s) (8 * dmaPort (taken p s) (fld (word p 0) 5 0) + j) && partOf (taken p s) (8 * dmaPort (taken p s) (fld (word p 0) 5 0) + j) == sender p s))))) :=
  ⟨pk [1029], offer 0xE0 (pk [1029]) (setDmaState 5 0 up), by decide +kernel⟩
theorem witness_DmaCommands_11 : ∃ (p : Pkt) (s : State),
    (runs 0xE0 p s = true) ∧ (p.pay.length = 1) ∧ (fld (word p 0) 10 8 = 5) ∧ (dmaOwner (taken p s) (fld (word p 0) 5 0) = sender p s) ∧ (busy (taken p s) 0x0C (fld (word p 0) 5 0) = false) ∧ (dmaState (taken p s) (fld (word p 0) 5 0) = 1 ∨ dmaState (taken p s) (fld (word p 0) 5 0) = 4 ∨ dmaState (taken p s) (fld (word p 0) 5 0) = 5) :=
  ⟨pk [1285], offer 0xE0 (pk [1285]) (setDmaState 5 5 up), by decide +kernel⟩
theorem witness_LinesStartAndEnd_1 : ∃ (orx : Bool) (ln : Nat) (a : ZoneAcc) (x : Nat × OutW × Bool),
    ((x.2.2 || (orx && x.2.1.orr)) = true) :=
  ⟨true, 7, (zoneNew 3 0 5 0), (4, ⟨9, true, false, false⟩, false), by decide +kernel⟩
theorem witness_LinesStartAndEnd_2 : ∃ (orx : Bool) (ln : Nat) (a : ZoneAcc) (x : Nat × OutW × Bool),
    ((x.2.2 || (orx && x.2.1.orr)) = false) :=
  ⟨true, 7, (zoneNew 3 0 5 0), (4, ⟨9, false, false, false⟩, false), by decide +kernel⟩
theorem witness_LinesStartAndEnd_4 : ∃ (z : Nat) (l : Line) (fine fast : List (OutW × Bool)) (a : ZoneAcc) (s : State),
    (zoneAcc s z = some a) ∧ (ownerOf s 0x08 z = ownerOf s 0x03 l.head) ∧ (l.num ∈ a.prog) :=
  ⟨3, { (⟨0, 5, 0, 0, 0, false, true, false, false, 0, 0, 16, false, false, false, 0, none, none⟩ : Line) with num := 2 }, [], [], { (zoneNew 3 0 5 0) with prog := [2] }, { up with zones := [{ (zoneNew 3 0 5 0) with prog := [2] }] }, by decide +kernel⟩
theorem witness_LinesStartAndEnd_5 : ∃ (z : Nat) (l : Line) (fine fast : List (OutW × Bool)) (a : ZoneAcc) (s : State),
    (zoneAcc s z = some a) ∧ (ownerOf s 0x08 z ≠ ownerOf s 0x03 l.head) :=
  ⟨3, (⟨0, 5, 0, 0, 0, false, true, false, false, 0, 0, 16, false, false, false, 0, none, none⟩ : Line), [], [], (zoneNew 3 0 5 0), setOwner 0x08 3 2 { up with zones := [(zoneNew 3 0 5 0)] }, by decide +kernel⟩
theorem witness_LinesStartAndEnd_6 : ∃ (a : ZoneAcc) (s : State),
    (ownerOf s 0x0E (rf s (zk a.z 0x10) 11 0) = ownerOf s 0x08 a.z) :=
  ⟨(zoneNew 3 0 5 0), up, by decide +kernel⟩
theorem witness_LinesStartAndEnd_7 : ∃ (a : ZoneAcc) (s : State),
    (ownerOf s 0x0E (rf s (zk a.z 0x10) 11 0) ≠ ownerOf s 0x08 a.z) :=
  ⟨(zoneNew 3 0 5 0), setOwner 0x08 3 2 up, by decide +kernel⟩
theorem witness_LinesStartAndEnd_9 : ∃ (z h num ep : Nat) (s : State),
    (zonesOf s h = [z]) ∧ (zoneAcc s z = none) :=
  ⟨3, 5, 7, 0, setF (zk 3 4) 14 8 5 (setF (zk 3 0xC) 15 0 4 (setB (zk 3 0) 0 true { up with zones := [] })), by decide +kernel⟩
theorem witness_LinesStartAndEnd_10 : ∃ (z h num ep : Nat) (a : ZoneAcc) (s : State),
    (zonesOf s h = [z]) ∧ (zoneAcc s z = some a) ∧ (a.j < num / max 1 (rf s (zk z 0xC) 15 0)) :=
  ⟨3, 5, 7, 0, (zoneNew 3 0 5 0), setF (zk 3 4) 14 8 5 (setF (zk 3 0xC) 15 0 4 (setB (zk 3 0) 0 true { up with zones := [(zoneNew 3 0 5 0)] })), by decide +kernel⟩
theorem witness_LinesStartAndEnd_11 : ∃ (z h num ep : Nat) (a : ZoneAcc) (s : State),
    (zonesOf s h = [z]) ∧ (zoneAcc s z = some a) ∧ (num / max 1 (rf s (zk z 0xC) 15 0) ≤ a.j) :=
  ⟨3, 5, 7, 0, { (zoneNew 3 0 5 0) with j := 1 }, setF (zk 3 4) 14 8 5 (setF (zk 3 0xC) 15 0 4 (setB (zk 3 0) 0 true { up with zones := [{ (zoneNew 3 0 5 0) with j := 1 }] })), by decide +kernel⟩
theorem witness_LinesStartAndEnd_12 : ∃ (t : Fin 8) (left : List Nat) (k : Token) (ks : List Token) (s : State),
    (live s = true) ∧ (rb s (tk t.val 4) 0 = true) ∧ ((tile s t.val).toks = k :: ks) :=
  ⟨3, [], ⟨0, 5, 0, false⟩, [], setB (tk 3 4) 0 true (modTile 3 (fun x => { x with toks := [⟨0, 5, 0, false⟩] }) up), by decide +kernel⟩
theorem witness_LinesStartAndEnd_13 : ∃ (t : Fin 8) (left : List Nat) (s : State),
    (live s = true) ∧ (rb s (tk t.val 4) 0 = false ∨ (tile s t.val).toks = []) :=
  ⟨3, [], up, by decide +kernel⟩
theorem witness_LinesStartAndEnd_14 : ∃ (n : Fin 96) (px : List Pixel) (l : Line) (s : State),
    (live s = true) ∧ ((chan s n.val).line = some l) ∧ ((l.refused || l.fenced || l.count == 0 || decide (l.first + l.count ≤ px.length)) = true) :=
  ⟨5, [], (⟨0, 5, 0, 0, 0, false, true, false, false, 0, 0, 16, false, false, false, 0, none, none⟩ : Line), modChan 5 (fun x => { x with line := some ((⟨0, 5, 0, 0, 0, false, true, false, false, 0, 0, 16, false, false, false, 0, none, none⟩ : Line)) }) up, by decide +kernel⟩
theorem witness_LinesStartAndEnd_15 : ∃ (n : Fin 96) (px : List Pixel) (s : State),
    (live s = true) ∧ ((chan s n.val).line = none) :=
  ⟨5, [], up, by decide +kernel⟩
theorem witness_LinesStartAndEnd_16 : ∃ (n : Fin 96) (px : List Pixel) (l : Line) (s : State),
    (live s = true) ∧ ((chan s n.val).line = some l) ∧ ((l.refused || l.fenced || l.count == 0 || decide (l.first + l.count ≤ px.length)) = false) :=
  ⟨5, [], { (⟨0, 5, 0, 0, 0, false, true, false, false, 0, 0, 16, false, false, false, 0, none, none⟩ : Line) with refused := false }, modChan 5 (fun x => { x with line := some { (⟨0, 5, 0, 0, 0, false, true, false, false, 0, 0, 16, false, false, false, 0, none, none⟩ : Line) with refused := false } }) up, by decide +kernel⟩
theorem witness_LinesStartAndEnd_17 : ∃ (n : Fin 96) (k : RKey) (s : State),
    ((ck n.val 4 :: vidStaged n.val).contains k = true) :=
  ⟨5, vk 5 4, up, by decide +kernel⟩
theorem witness_LinesStartAndEnd_18 : ∃ (n : Fin 96) (k : RKey) (s : State),
    ((ck n.val 4 :: vidStaged n.val).contains k = false) :=
  ⟨5, vk 6 4, up, by decide +kernel⟩
theorem witness_LinesStartAndEnd_19 : ∃ (n : Fin 96) (num : Nat) (k : RKey) (s : State),
    ((filStaged n.val).contains k = true) ∧ ((chan s n.val).held.contains k = false ∨ rb s (fk n.val 4) 0 = false ∨ syncDue s n.val num = true) :=
  ⟨5, 9, fk 5 8, up, by decide +kernel⟩
theorem witness_LinesStartAndEnd_20 : ∃ (n : Fin 96) (num : Nat) (k : RKey) (s : State),
    ((filStaged n.val).contains k = true) ∧ ((chan s n.val).held.contains k = true) ∧ (rb s (fk n.val 4) 0 = true) ∧ (syncDue s n.val num = false) :=
  ⟨5, 9, fk 5 8, setB (fk 5 4) 0 true (modChan 5 (fun c => { c with held := [fk 5 8] }) up), by decide +kernel⟩
theorem witness_LinesStartAndEnd_21 : ∃ (n : Fin 96) (num : Nat) (k : RKey) (s : State),
    ((filStaged n.val).contains k = false) :=
  ⟨5, 9, fk 6 8, up, by decide +kernel⟩
theorem witness_EventsReachTheirCollector_1 : ∃ (n : Fin 96) (r : EvRec) (q : List QItem) (s : State),
    (live s = true) ∧ ((chan s n.val).evq = .ev r :: q) ∧ (((chan (modChan n.val (fun c => { c with evq := q }) s) n.val).burst.isNone && collRoom (modChan n.val (fun c => { c with evq := q }) s) n.val) = true) :=
  ⟨5, ⟨⟨0, 5, 0, 0, 0, false, 9, 9, 0, 0⟩, 1, true, 3, 2, 7, true, false, true, false, false, false, false, false⟩, [], setF (tlk 5 0x100) 12 0 9 (modChan 5 (fun x => { x with evq := [.ev ⟨⟨0, 5, 0, 0, 0, false, 9, 9, 0, 0⟩, 1, true, 3, 2, 7, true, false, true, false, false, false, false, false⟩] }) up), by decide +kernel⟩
theorem witness_EventsReachTheirCollector_2 : ∃ (n : Fin 96) (r : EvRec) (q : List QItem) (s : State),
    (live s = true) ∧ ((chan s n.val).evq = .ev r :: q) ∧ (((chan (modChan n.val (fun c => { c with evq := q }) s) n.val).burst.isNone && collRoom (modChan n.val (fun c => { c with evq := q }) s) n.val) = false) :=
  ⟨5, ⟨⟨0, 5, 0, 0, 0, false, 9, 9, 0, 0⟩, 1, true, 3, 2, 7, true, false, true, false, false, false, false, false⟩, [], setF (tlk 5 0x100) 12 0 0 (modChan 5 (fun x => { x with evq := [.ev ⟨⟨0, 5, 0, 0, 0, false, 9, 9, 0, 0⟩, 1, true, 3, 2, 7, true, false, true, false, false, false, false, false⟩] }) up), by decide +kernel⟩
theorem witness_EventsReachTheirCollector_3 : ∃ (n : Fin 96) (t : LineTag) (q : List QItem) (s : State),
    (live s = true) ∧ ((chan s n.val).evq = .mark t :: q) ∧ ((chan s n.val).burst = none) :=
  ⟨5, ⟨0, 5, 0, 0, 0, false, 9, 9, 0, 0⟩, [], modChan 5 (fun x => { x with evq := [.mark ⟨0, 5, 0, 0, 0, false, 9, 9, 0, 0⟩], burst := none }) up, by decide +kernel⟩
theorem witness_EventsReachTheirCollector_4 : ∃ (n : Fin 96) (t : LineTag) (q : List QItem) (b : Burst) (s : State),
    (live s = true) ∧ ((chan s n.val).evq = .mark t :: q) ∧ ((chan s n.val).burst = some b) ∧ (collRoom (incR (thk n.val 0x28) s) n.val = true) :=
  ⟨5, ⟨0, 5, 0, 0, 0, false, 9, 9, 0, 0⟩, [], ⟨⟨⟨0, 5, 0, 0, 0, false, 9, 9, 0, 0⟩, 1, true, 3, 2, 7, true, false, true, false, false, false, false, false⟩, 9, 4⟩, setF (tlk 5 0x100) 12 0 9 (modChan 5 (fun x => { x with evq := [.mark ⟨0, 5, 0, 0, 0, false, 9, 9, 0, 0⟩], burst := some ⟨⟨⟨0, 5, 0, 0, 0, false, 9, 9, 0, 0⟩, 1, true, 3, 2, 7, true, false, true, false, false, false, false, false⟩, 9, 4⟩ }) up), by decide +kernel⟩
theorem witness_EventsReachTheirCollector_5 : ∃ (n : Fin 96) (t : LineTag) (q : List QItem) (b : Burst) (s : State),
    (live s = true) ∧ ((chan s n.val).evq = .mark t :: q) ∧ ((chan s n.val).burst = some b) ∧ (collRoom (incR (thk n.val 0x28) s) n.val = false) :=
  ⟨5, ⟨0, 5, 0, 0, 0, false, 9, 9, 0, 0⟩, [], ⟨⟨⟨0, 5, 0, 0, 0, false, 9, 9, 0, 0⟩, 1, true, 3, 2, 7, true, false, true, false, false, false, false, false⟩, 9, 4⟩, setF (tlk 5 0x100) 12 0 0 (modChan 5 (fun x => { x with evq := [.mark ⟨0, 5, 0, 0, 0, false, 9, 9, 0, 0⟩], burst := some ⟨⟨⟨0, 5, 0, 0, 0, false, 9, 9, 0, 0⟩, 1, true, 3, 2, 7, true, false, true, false, false, false, false, false⟩, 9, 4⟩ }) up), by decide +kernel⟩
theorem witness_RecordsLeaveTheStitcher_1 : ∃ (t n : Nat) (r : EvRec) (xs : List (Nat × QItem)) (s : State),
    (live s = true) ∧ (insFull s = false) ∧ (s.ruleQ = []) ∧ (((List.range 8).map fun i => (s.stRr + i) % 8).find? (fun t => !(coll s t).isEmpty) = some t) ∧ (coll s t = (n, .ev r) :: xs) :=
  ⟨0, 5, ⟨⟨0, 5, 0, 0, 0, false, 9, 9, 0, 0⟩, 1, true, 3, 2, 7, true, false, true, false, false, false, false, false⟩, [], setColl 0 [(5, .ev ⟨⟨0, 5, 0, 0, 0, false, 9, 9, 0, 0⟩, 1, true, 3, 2, 7, true, false, true, false, false, false, false, false⟩)] up, by decide +kernel⟩
theorem witness_RecordsLeaveTheStitcher_2 : ∃ (t n : Nat) (m : LineTag) (xs : List (Nat × QItem)) (s : State),
    (live s = true) ∧ (insFull s = false) ∧ (s.ruleQ = []) ∧ (((List.range 8).map fun i => (s.stRr + i) % 8).find? (fun t => !(coll s t).isEmpty) = some t) ∧ (coll s t = (n, .mark m) :: xs) :=
  ⟨0, 5, ⟨0, 5, 0, 0, 0, false, 9, 9, 0, 0⟩, [], setColl 0 [(5, .mark ⟨0, 5, 0, 0, 0, false, 9, 9, 0, 0⟩)] up, by decide +kernel⟩
theorem witness_RecordsLeaveTheStitcher_3 : ∃ (s : State),
    (live s = true) ∧ ((!insFull s && s.ruleQ.isEmpty) = false) :=
  ⟨{ up with insBuf := List.replicate 1024 ⟨0, 5, 1, 5, 0, false, 0, none⟩ }, by decide +kernel⟩
theorem witness_RecordsLeaveTheStitcher_4 : ∃ (h : Fin 96) (s : State),
    (live s = true) :=
  ⟨5, up, by decide +kernel⟩
theorem witness_InsertsMeetTheQueue_1 : ∃ (i : Insert) (rest : List Insert) (s : State),
    (live s = true) ∧ (s.insBuf = i :: rest) ∧ (rf { s with insBuf := rest } ⟨.part, 0, 0x200 + 4 * i.owner⟩ 17 0 ≤ pendingOf { s with insBuf := rest } i.owner) :=
  ⟨⟨2, 7, 1, 5, 0, true, 3, none⟩, [], setF ⟨.part, 0, 0x20C⟩ 17 0 0 { up with insBuf := [⟨2, 7, 1, 5, 0, true, 3, none⟩] }, by decide +kernel⟩
theorem witness_InsertsMeetTheQueue_2 : ∃ (i : Insert) (rest : List Insert) (s : State),
    live s = true ∧ s.insBuf = i :: rest ∧
    pendingOf { s with insBuf := rest } i.owner < rf { s with insBuf := rest } ⟨.part, 0, 0x200 + 4 * i.owner⟩ 17 0 ∧ 131072 ≤ s.paq.length :=
  ⟨⟨2, 7, 1, 5, 0, true, 3, none⟩, [], { setF ⟨.part, 0, 0x20C⟩ 17 0 9 up with insBuf := [⟨2, 7, 1, 5, 0, true, 3, none⟩], paq := List.replicate 131072 ⟨0, 5, 1, 5, 0, 4, false, false, false⟩ },
    by decide +kernel, rfl, by
      show ((List.replicate 131072 (⟨0, 5, 1, 5, 0, 4, false, false, false⟩ : Entry)).filter fun e => e.owner == 3).length < _
      rw [List.filter_replicate]; decide +kernel, by rw [List.length_replicate]⟩
theorem witness_InsertsMeetTheQueue_3 : ∃ (i : Insert) (rest : List Insert) (s : State),
    (live s = true) ∧ (s.insBuf = i :: rest) ∧ (pendingOf { s with insBuf := rest } i.owner < rf { s with insBuf := rest } ⟨.part, 0, 0x200 + 4 * i.owner⟩ 17 0) ∧ (s.paq.length < 131072) ∧ (ahead { s with insBuf := rest } i.axis i.key ≤ 0) ∧ (i.execLate = true) :=
  ⟨⟨2, 7, 1, 5, 0, true, 3, none⟩, [], setF ⟨.part, 0, 0x20C⟩ 17 0 9 { { up with insBuf := [⟨2, 7, 1, 5, 0, true, 3, none⟩] } with obs := Vector.replicate 8 9 }, by decide +kernel⟩
theorem witness_InsertsMeetTheQueue_4 : ∃ (i : Insert) (rest : List Insert) (s : State),
    (live s = true) ∧ (s.insBuf = i :: rest) ∧ (pendingOf { s with insBuf := rest } i.owner < rf { s with insBuf := rest } ⟨.part, 0, 0x200 + 4 * i.owner⟩ 17 0) ∧ (s.paq.length < 131072) ∧ (ahead { s with insBuf := rest } i.axis i.key ≤ 0) ∧ (i.execLate = false) :=
  ⟨⟨2, 7, 1, 5, 0, false, 3, none⟩, [], setF ⟨.part, 0, 0x20C⟩ 17 0 9 { { up with insBuf := [⟨2, 7, 1, 5, 0, false, 3, none⟩] } with obs := Vector.replicate 8 9 }, by decide +kernel⟩
theorem witness_InsertsMeetTheQueue_5 : ∃ (i : Insert) (rest : List Insert) (s : State),
    (live s = true) ∧ (s.insBuf = i :: rest) ∧ (pendingOf { s with insBuf := rest } i.owner < rf { s with insBuf := rest } ⟨.part, 0, 0x200 + 4 * i.owner⟩ 17 0) ∧ (s.paq.length < 131072) ∧ (0 < ahead { s with insBuf := rest } i.axis i.key) :=
  ⟨⟨2, 7, 1, 5, 0, true, 3, none⟩, [], setF ⟨.part, 0, 0x20C⟩ 17 0 9 { up with insBuf := [⟨2, 7, 1, 5, 0, true, 3, none⟩] }, by decide +kernel⟩
theorem witness_InsertsMeetTheQueue_6 : ∃ (a : Fin 8) (s : State),
    (live s = true) ∧ (0 < sdiff (axis s a.val).pos (obsPos s a.val)) ∧ (s.paused = false) :=
  ⟨3, modAxis 3 (fun x => { x with pos := 5 }) up, by decide +kernel⟩
theorem witness_InsertsMeetTheQueue_7 : ∃ (a : Fin 8) (s : State),
    (live s = true) ∧ (sdiff (axis s a.val).pos (obsPos s a.val) ≤ 0 ∨ s.paused = true) :=
  ⟨3, up, by decide +kernel⟩
theorem witness_InsertsMeetTheQueue_8 : ∃ (pin : Fin 256) (s : State),
    (live s = true) ∧ ((nget 0 s.markers (markerOf s pin.val) != 0 && decide (nget 0 s.markers (markerOf s pin.val) ≤ s.tb)) = true) :=
  ⟨5, { up with markers := [(5, 3)], tb := 9 }, by decide +kernel⟩
theorem witness_InsertsMeetTheQueue_9 : ∃ (pin : Fin 256) (s : State),
    (live s = true) ∧ ((nget 0 s.markers (markerOf s pin.val) != 0 && decide (nget 0 s.markers (markerOf s pin.val) ≤ s.tb)) = false) :=
  ⟨5, up, by decide +kernel⟩
theorem witness_FireflyPortEvents_1 : ∃ (n : Fin 96) (s : State),
    (live s = true) ∧ (ffClock s (n.val / 12) = true) ∧ (rb s (ffk n.val 0) 0 = true) ∧ ((ffP s n.val).dark = none) ∧ ((ffP s n.val).enable = false) ∧ (rb s (ffk n.val 0xC) 0 = true) :=
  ⟨5, setB (ffk 5 0xC) 0 true (setB (ffk 5 0) 0 true (setB (tk 0 4) 0 true (setB (tk 0 0) 16 true (modFf 5 (fun f => { f with enable := false, dark := none, q := [7] }) up)))), by decide +kernel⟩
theorem witness_FireflyPortEvents_2 : ∃ (n : Fin 96) (s : State),
    (live s = true) ∧ (ffClock s (n.val / 12) = true) ∧ (rb s (ffk n.val 0) 0 = false) :=
  ⟨5, setB (tk 0 4) 0 true (setB (tk 0 0) 16 true up), by decide +kernel⟩
theorem witness_FireflyPortEvents_3 : ∃ (n : Fin 96) (s : State),
    (live s = true) ∧ (ffClock s (n.val / 12) = false) :=
  ⟨5, up, by decide +kernel⟩
theorem witness_FireflyPortEvents_4 : ∃ (n : Fin 96) (s : State),
    (live s = true) :=
  ⟨5, up, by decide +kernel⟩
theorem witness_FireflyPortEvents_5 : ∃ (n : Fin 96) (s : State),
    (live s = true) :=
  ⟨5, up, by decide +kernel⟩
theorem witness_FireflyPortEvents_6 : ∃ (n : Fin 96) (s : State),
    (live s = true) :=
  ⟨5, up, by decide +kernel⟩
theorem witness_FireflyPortEvents_7 : ∃ (n : Fin 96) (s : State),
    (live s = true) ∧ ((ffP s n.val).cur = true) :=
  ⟨5, modFf 5 (fun f => { f with cur := true }) up, by decide +kernel⟩
theorem witness_FireflyPortEvents_8 : ∃ (n : Fin 96) (s : State),
    (live s = true) ∧ ((ffP s n.val).cur = false) :=
  ⟨5, up, by decide +kernel⟩
theorem witness_FireflyPortEvents_9 : ∃ (n : Fin 96) (s : State),
    (live s = true) :=
  ⟨5, up, by decide +kernel⟩
theorem witness_FireflyPortEvents_10 : ∃ (n : Fin 96) (k : Fin 4) (s : State),
    (live s = true) ∧ ((ffP s n.val).pulses.contains (k.val, false) = true) ∧ (ffRank s n.val ≠ 5) :=
  ⟨5, 2, modFf 5 (fun f => { f with pulses := [(2, false)] }) up, by decide +kernel⟩
theorem witness_FireflyPortEvents_11 : ∃ (n : Fin 96) (k : Fin 4) (s : State),
    (live s = true) :=
  ⟨5, 2, up, by decide +kernel⟩
theorem witness_TripsLatch_1 : ∃ (n : Fin 96) (level : Int) (s : State),
    (live s = true) ∧ (rb s (cpk n.val 0) 0 = true) ∧ (rb s (cpk n.val 0) 1 = true) ∧ (rb s (cpk n.val 0) 2 = false) ∧ (rawOf s n.val = false) ∧ (500 * (rf s (cpk n.val 4) 25 16 : Int) < level) ∧ (rb s (cpk n.val 0) 7 = false) ∧ (rb s (tk (n.val / 12) 0x310) 4 = false) ∧ (rb s (cpk n.val 8) 1 = false) :=
  ⟨5, 600000, wr (cpk 5 0) 3 up, by decide +kernel⟩
theorem witness_TripsLatch_2 : ∃ (n : Fin 96) (level : Int) (s : State),
    (live s = true) ∧ (rb s (cpk n.val 0) 0 = true) ∧ (rb s (cpk n.val 0) 1 = true) ∧ (rb s (cpk n.val 0) 2 = false) ∧ (rawOf s n.val = false) ∧ (500 * (rf s (cpk n.val 4) 25 16 : Int) < level) ∧ (rb s (cpk n.val 8) 1 = true) :=
  ⟨5, 600000, wr (cpk 5 8) 2 (wr (cpk 5 0) 3 up), by decide +kernel⟩
theorem witness_TripsLatch_3 : ∃ (n : Fin 96) (level : Int) (s : State),
    (live s = true) ∧ (rb s (cpk n.val 0) 0 = false) :=
  ⟨5, 600000, up, by decide +kernel⟩
theorem witness_TripsLatch_4 : ∃ (t : Fin 8) (s : State),
    (live s = true) ∧ ((tile s t.val).trip = false) :=
  ⟨3, up, by decide +kernel⟩
theorem witness_TripsLatch_5 : ∃ (t : Fin 8) (s : State),
    (live s = true) ∧ (pinPowered s (.tripN t.val) = true) ∧ ((tile s t.val).trip = true) ∧ (rb (setB (tk t.val 0x30C) 0 false (modTile t.val (fun x => { x with trip := false }) s)) (tk t.val 0x30C) 1 = true) :=
  ⟨3, wr (tk 3 0x30C) 2 (modTile 3 (fun x => { x with trip := true }) up), by decide +kernel⟩
theorem witness_TripsLatch_6 : ∃ (t : Fin 8) (s : State),
    (live s = true) ∧ (pinPowered s (.tripN t.val) = true) ∧ ((tile s t.val).trip = true) ∧ (rb (setB (tk t.val 0x30C) 0 false (modTile t.val (fun x => { x with trip := false }) s)) (tk t.val 0x30C) 1 = false) :=
  ⟨3, modTile 3 (fun x => { x with trip := true }) up, by decide +kernel⟩
theorem witness_ConversionsAndRequests_1 : ∃ (codes : List Int) (k : Nat) (s : State),
    (live s = true) ∧ (s.sup.urg = none) ∧ (s.sup.slot = some k) ∧ (supMay (slotTaken codes k s) = true) ∧ (k + 1 < (slotTaken codes k s).sup.len) ∧ ((slotTaken codes k s).sup.ending = false) :=
  ⟨[1, 2, 3, 4, 5, 6, 7, 8], 0, setB ⟨.supv, 0, 0⟩ 8 true { up with step1 := true, sup := { up.sup with slot := some 0, len := 4, urg := none } }, by decide +kernel⟩
theorem witness_ConversionsAndRequests_2 : ∃ (codes : List Int) (u : List SupReq) (s : State),
    (live s = true) ∧ (s.sup.urg = some u) :=
  ⟨[1], [], { up with sup := { up.sup with urg := some [] } }, by decide +kernel⟩
theorem witness_ConversionsAndRequests_3 : ∃ (codes : List Int) (s : State),
    (live s = true) ∧ (s.sup.urg = none) ∧ (s.sup.slot = none) :=
  ⟨[1], up, by decide +kernel⟩
theorem witness_ConversionsAndRequests_4 : ∃ (r : Fin 8) (k : Fin 16) (merged : BitVec 12) (s : State),
    (live s = true) ∧ (regionState s r.val = 3 ∨ regionState s r.val = 4) ∧ (fld (rd s (fbk r.val (0x40 + 4 * k.val))) 1 0 = 2) ∧ (ownerOf s 0x0C (fld (rd s (fbk r.val (0x40 + 4 * k.val))) 13 8) = regOwner s r.val) :=
  ⟨3, 2, 1, wr (fbk 3 0x48) 0x502 (setF (fbk 3 0) 2 0 3 up), by decide +kernel⟩
theorem witness_ConversionsAndRequests_5 : ∃ (r : Fin 8) (k : Fin 16) (merged : BitVec 12) (s : State),
    (live s = true) ∧ (regionState s r.val ≠ 3) ∧ (regionState s r.val ≠ 4) ∧ ((fabOf s r.val).req.getLsbD k.val = false) :=
  ⟨3, 2, 1, up, by decide +kernel⟩
theorem witness_ConversionsAndRequests_6 : ∃ (r : Fin 8) (s : State),
    (live s = true) ∧ (rb s (fbk r.val 0xC) 16 = true) :=
  ⟨3, setB (fbk 3 0xC) 16 true up, by decide +kernel⟩
theorem witness_PinsAndClocks_1 : ∃ (h : Fin 96) (s : State),
    (s.rails.getLsbD (h.val / 12) = false ∨ s.por = true) :=
  ⟨3, { up with rails := 0 }, by decide +kernel⟩
theorem witness_PinsAndClocks_2 : ∃ (h : Fin 96) (n : Nat) (s : State),
    (s.rails.getLsbD (h.val / 12) = true) ∧ (s.por = false) ∧ (s.step1 = true) ∧ (chanOf s h.val = some n) ∧ (rb s (vk n 0) 0 = false ∨ rb s (vk n 0) 5 = false ∨ rb s (tk (h.val / 12) 4) 0 = false) :=
  ⟨3, 3, { up with step1 := true }, by decide +kernel⟩
theorem witness_PinsAndClocks_3 : ∃ (h : Fin 96) (n : Nat) (s : State),
    (s.rails.getLsbD (h.val / 12) = true) ∧ (s.por = false) ∧ (s.step1 = true) ∧ (chanOf s h.val = some n) ∧ (rb s (vk n 0) 0 = false ∨ rb s (vk n 0) 4 = false ∨ rb s (tk (n / 12) 4) 0 = false) :=
  ⟨3, 3, { up with step1 := true }, by decide +kernel⟩
theorem witness_PinsAndClocks_4 : ∃ (k : Fin 8) (level : Bool) (s : State),
    (live s = true) ∧ (s.rails.getLsbD (16 + irqPin s k.val / 32) = true) ∧ (standby s = false) ∧ (rb s (iqk k.val 0) (if level then 16 else 17) = true) :=
  ⟨3, true, setB (iqk 3 0) 16 true up, by decide +kernel⟩
theorem witness_PinsAndClocks_5 : ∃ (k : Fin 8) (level : Bool) (s : State),
    (live s = true) ∧ (s.rails.getLsbD (16 + irqPin s k.val / 32) = true) ∧ (rb s (iqk k.val 0) (if level then 16 else 17) = false) :=
  ⟨3, true, up, by decide +kernel⟩
theorem witness_PinsAndClocks_6 : ∃ (k : Fin 8) (level : Bool) (s : State),
    (live s = true) ∧ (s.rails.getLsbD (16 + irqPin s k.val / 32) = false) :=
  ⟨3, true, { up with rails := 0 }, by decide +kernel⟩
theorem witness_PinsAndClocks_7 : ∃ (s : State),
    (live s = true) ∧ (rb s tbpK 0 = true) ∧ (s.tbpLast / 2 ^ rf s tbpK 12 8 < s.tb / 2 ^ rf s tbpK 12 8) :=
  ⟨setF tbpK 12 8 10 (setB tbpK 0 true { up with tb := 5000 }), by decide +kernel⟩
theorem witness_PinsAndClocks_8 : ∃ (e : Nat) (s : State),
    (live s = true) ∧ (s.tbpEnd = some e) ∧ (e ≤ s.tb) :=
  ⟨7, { up with tb := 9, tbpEnd := some 7 }, by decide +kernel⟩
theorem witness_PinsAndClocks_9 : ∃ (t : Fin 8) (s : State),
    (live s = true) ∧ (standby s = false) ∧ ((rb s (tk t.val 0) 16 && !rb s (tk t.val 4) 0) = true) :=
  ⟨3, setB (tk 3 0) 16 true up, by decide +kernel⟩
theorem witness_PinsAndClocks_10 : ∃ (t : Fin 8) (s : State),
    (live s = true) ∧ (standby s = true) :=
  ⟨3, setF pwrK 9 8 2 up, by decide +kernel⟩
theorem witness_PinsAndClocks_11 : ∃ (t : Fin 8) (t0 : Nat) (s : State),
    (live s = true) ∧ ((tile s t.val).pllStart = some t0) ∧ (rb s (tk t.val 0) 16 = true) ∧ (rb s (tk t.val 4) 0 = false) ∧ (t0 + 200000 ≤ s.tb) :=
  ⟨3, 5, setB (tk 3 0) 16 true (modTile 3 (fun x => { x with pllStart := some 5 }) { up with tb := 300000 }), by decide +kernel⟩
theorem witness_PinsAndClocks_12 : ∃ (t : Fin 8) (s : State),
    (live s = true) ∧ (rb s (tk t.val 0) 16 = true) ∧ (rb s (tk t.val 4) 0 = true) :=
  ⟨3, setB (tk 3 4) 0 true (setB (tk 3 0) 16 true up), by decide +kernel⟩
theorem witness_PinsAndClocks_13 : ∃ (t : Fin 8) (s : State),
    (live s = true) ∧ ((rb s (tk t.val 0) 16 && rb s (tk t.val 4) 0) = true) :=
  ⟨3, setB (tk 3 4) 0 true (setB (tk 3 0) 16 true up), by decide +kernel⟩
theorem witness_PinsAndClocks_14 : ∃ (t : Fin 8) (ratio : BitVec 16) (s : State),
    (live s = true) ∧ (s.step1 = true) ∧ (rf s (tk t.val 0x14) 15 0 ≤ ratio.toNat) :=
  ⟨3, 0x1400, { up with step1 := true }, by decide +kernel⟩
theorem witness_PinsAndClocks_15 : ∃ (t : Fin 8) (ratio : BitVec 16) (s : State),
    (live s = true) ∧ (s.step1 = true) ∧ (ratio.toNat < rf s (tk t.val 0x14) 15 0) :=
  ⟨3, 0x1234, { wr (tk 3 0x14) 0x1266 up with step1 := true }, by decide +kernel⟩
theorem witness_PinsAndClocks_16 : ∃ (t : Fin 8) (ratio : BitVec 16) (s : State),
    (live s = true) ∧ (s.step1 = false) :=
  ⟨3, 0x1234, { up with step1 := false }, by decide +kernel⟩
theorem witness_DescriptorsAreRead_1 : ∃ (c : Fin 64) (host : HostBytes) (s : State),
    (live s = true) ∧ (fetches c.val s = true) ∧ (mayFetch c.val s = true) ∧ (bit (dW (descWords c.val host s) 0) 0 = true) ∧ (badFormat (descWords c.val host s) = false) ∧ (bit (dW (descWords c.val host s) 0) 1 = false) :=
  ⟨3, [], (putMemW 0 [1, 0x1000, 0, 0x2000, 0, 0, 0, 16] (modDma 3 (fun _ => { dmaEmpty with fetch := true }) (wr (dmk 3 0x10) 0x30000000 (setDmaState 3 2 up)))), by decide +kernel⟩
theorem witness_DescriptorsAreRead_2 : ∃ (c : Fin 64) (host : HostBytes) (s : State),
    (live s = true) ∧ (fetches c.val s = true) ∧ (mayFetch c.val s = true) ∧ (bit (dW (descWords c.val host s) 0) 0 = true) ∧ (badFormat (descWords c.val host s) = false) ∧ (bit (dW (descWords c.val host s) 0) 1 = true) :=
  ⟨3, [], (putMemW 0 [3, 0x1000, 0, 0, 0, 0, 0, 0] (modDma 3 (fun _ => { dmaEmpty with fetch := true }) (wr (dmk 3 0x10) 0x30000000 (setDmaState 3 2 up)))), by decide +kernel⟩
theorem witness_DescriptorsAreRead_3 : ∃ (c : Fin 64) (host : HostBytes) (s : State),
    (live s = true) ∧ (fetches c.val s = true) ∧ (mayFetch c.val s = true) ∧ (bit (dW (descWords c.val host s) 0) 0 = true) ∧ (badFormat (descWords c.val host s) = true) :=
  ⟨3, [], (putMemW 0 [0xD, 0x1000, 0, 0, 0, 0, 0, 0] (modDma 3 (fun _ => { dmaEmpty with fetch := true }) (wr (dmk 3 0x10) 0x30000000 (setDmaState 3 2 up)))), by decide +kernel⟩
theorem witness_DescriptorsAreRead_4 : ∃ (c : Fin 64) (host : HostBytes) (s : State),
    (live s = true) ∧ (fetches c.val s = true) ∧ (mayFetch c.val s = true) ∧ (bit (dW (descWords c.val host s) 0) 0 = false) ∧ (rb s (dmk c.val 0) 1 = false) :=
  ⟨3, [], (modDma 3 (fun _ => { dmaEmpty with fetch := true }) (wr (dmk 3 0x10) 0x30000000 (setDmaState 3 2 up))), by decide +kernel⟩
theorem witness_DescriptorsAreRead_5 : ∃ (c : Fin 64) (host : HostBytes) (s : State),
    (live s = true) ∧ (fetches c.val s = true) ∧ (mayFetch c.val s = true) ∧ (bit (dW (descWords c.val host s) 0) 0 = false) ∧ (rb s (dmk c.val 0) 1 = true) :=
  ⟨3, [], setB (dmk 3 0) 1 true (modDma 3 (fun _ => { dmaEmpty with fetch := true }) (wr (dmk 3 0x10) 0x30000000 (setDmaState 3 2 up))), by decide +kernel⟩
theorem witness_DescriptorsAreRead_6 : ∃ (c : Fin 64) (host : HostBytes) (s : State),
    (live s = true) ∧ (fetches c.val s = true) ∧ (mayFetch c.val s = false) :=
  ⟨3, [], (modDma 3 (fun _ => { dmaEmpty with fetch := true, sp := true }) (wr (dmk 3 0x10) 0x30000000 (setDmaState 3 2 up))), by decide +kernel⟩
theorem witness_DescriptorsAreRead_7 : ∃ (c : Fin 64) (host : HostBytes) (s : State),
    (live s = true) ∧ (fetches c.val s = false) :=
  ⟨3, [], up, by decide +kernel⟩
theorem witness_DescriptorsMoveAndReturn_1 : ∃ (c : Fin 64) (host : HostBytes) (s : State),
    (live s = true) ∧ (onMover s c.val = true) ∧ (dmaState s c.val = 2) ∧ ((dch s c.val).stop = none) :=
  ⟨3, [], { setDmaState 3 2 up with movers := vset up.movers 0 (some 3) }, by decide +kernel⟩
theorem witness_DescriptorsMoveAndReturn_2 : ∃ (c : Fin 64) (d : List Word) (s : State),
    (live s = true) ∧ ((dch s c.val).desc = some d) ∧ ((dch s c.val).done = true) ∧ ((dch s c.val).stop = none) ∧ (mayReturn c.val s = true) ∧ (bit (dW d 0) 1 = false) ∧ (bit (dW d 0) 7 = false) :=
  ⟨3, [1], (modDma 3 (fun _ => { dmaEmpty with desc := some [1], done := true, at_ := 0x30000000 }) (wr (dmk 3 0x10) 0x30000000 (setDmaState 3 2 up))), by decide +kernel⟩
theorem witness_DescriptorsMoveAndReturn_3 : ∃ (c : Fin 64) (d : List Word) (s : State),
    (live s = true) ∧ ((dch s c.val).desc = some d) ∧ ((dch s c.val).done = true) ∧ ((dch s c.val).stop = none) ∧ (mayReturn c.val s = true) ∧ (bit (dW d 0) 1 = true) :=
  ⟨3, [3], (modDma 3 (fun _ => { dmaEmpty with desc := some [3], done := true, at_ := 0x30000000 }) (wr (dmk 3 0x10) 0x30000000 (setDmaState 3 2 up))), by decide +kernel⟩
theorem witness_DescriptorsMoveAndReturn_4 : ∃ (c : Fin 64) (d : List Word) (s : State),
    (live s = true) ∧ ((dch s c.val).desc = some d) ∧ ((dch s c.val).done = true) ∧ ((dch s c.val).stop = none) ∧ (mayReturn c.val s = false) :=
  ⟨3, [3], (modDma 3 (fun _ => { dmaEmpty with desc := some [3], done := true, atHost := true }) (wr (dmk 3 0x10) 0x30000000 (setDmaState 3 2 up))), by decide +kernel⟩
theorem witness_DescriptorsMoveAndReturn_5 : ∃ (c : Fin 64) (s : State),
    (live s = true) ∧ ((dch s c.val).desc = none) :=
  ⟨3, up, by decide +kernel⟩
theorem witness_DescriptorsMoveAndReturn_6 : ∃ (c : Fin 64) (s : State),
    (live s = true) ∧ (onMover s c.val = true) ∧ (readsHost c.val s = true) ∧ ((dch s c.val).stop = none) ∧ (dmaState s c.val = 2 ∨ dmaState s c.val = 3) :=
  ⟨3, setDmaState 3 3 (modDma 3 (fun _ => { dmaEmpty with desc := some [0x10] }) ({ up with movers := vset up.movers 0 (some 3) })), by decide +kernel⟩
theorem witness_DescriptorsMoveAndReturn_7 : ∃ (c : Fin 64) (s : State),
    (live s = true) ∧ (((dch s c.val).fetch && (dch s c.val).sp) = true) ∧ ((dch s c.val).stop = none) ∧ (dmaState s c.val = 2) :=
  ⟨3, (modDma 3 (fun _ => { dmaEmpty with fetch := true, sp := true }) (wr (dmk 3 0x10) 0x30000000 (setDmaState 3 2 up))), by decide +kernel⟩
theorem witness_DescriptorsMoveAndReturn_8 : ∃ (c : Fin 64) (s : State),
    (live s = true) ∧ ((onMover s c.val && readsHost c.val s) = false) ∧ (((dch s c.val).fetch && (dch s c.val).sp) = false) :=
  ⟨3, up, by decide +kernel⟩
theorem witness_DescriptorsMoveAndReturn_9 : ∃ (e : DrainEnd) (s : State),
    (live s = true) ∧ (dmaState s e.c.val = 3) ∧ ((dch s e.c.val).desc = none) ∧ (dmaPaused s e.c.val = true) :=
  ⟨⟨3, []⟩, setDmaState 3 3 (setB (dmk 3 0) 0 true up), by decide +kernel⟩
theorem witness_DescriptorsMoveAndReturn_10 : ∃ (e : DrainEnd) (d : List Word) (s : State),
    (live s = true) ∧ (dmaState s e.c.val = 3) ∧ ((dch s e.c.val).desc = some d) ∧ (onMover s e.c.val = true) ∧ ((dch s e.c.val).done = false) ∧ ((dch s e.c.val).stop = none) :=
  ⟨⟨3, []⟩, [0x10], setDmaState 3 3 (modDma 3 (fun _ => { dmaEmpty with desc := some [0x10] }) ({ up with movers := vset up.movers 0 (some 3) })), by decide +kernel⟩
theorem witness_DescriptorsMoveAndReturn_11 : ∃ (e : DrainEnd) (d : List Word) (s : State),
    (live s = true) ∧ (dmaState s e.c.val = 3) ∧ ((dch s e.c.val).desc = some d) ∧ ((onMover s e.c.val && !(dch s e.c.val).done && (dch s e.c.val).stop.isNone) = false) :=
  ⟨⟨3, []⟩, [0x10], setDmaState 3 3 (modDma 3 (fun _ => { dmaEmpty with desc := some [0x10] }) (up)), by decide +kernel⟩
theorem witness_DescriptorsMoveAndReturn_12 : ∃ (e : DrainEnd) (s : State),
    (live s = true) ∧ (dmaState s e.c.val ≠ 3) :=
  ⟨⟨3, []⟩, up, by decide +kernel⟩
theorem witness_DescriptorsMoveAndReturn_13 : ∃ (c : Fin 64) (k : Nat) (s : State),
    (live s = true) ∧ ((dch s c.val).stop = some k) :=
  ⟨3, 5, (modDma 3 (fun _ => { dmaEmpty with stop := some 5 }) (wr (dmk 3 0x10) 0x30000000 (setDmaState 3 2 up))), by decide +kernel⟩
theorem witness_DescriptorsMoveAndReturn_14 : ∃ (c : Fin 64) (s : State),
    (live s = true) ∧ ((dch s c.val).stop = none) :=
  ⟨3, up, by decide +kernel⟩
theorem witness_StreamPortsSend_1 : ∃ (k : Fin 8) (kind : Nat) (ws : List Word) (r : List (Nat × List Word)) (s : State),
    (live s = true) ∧ (strmOn s k.val = true) ∧ (rb s (stk k.val 4) 0 = true) ∧ (ledGet s 6 k.val 2 ≠ 0) ∧ ((strm s k.val).spent < 65535) ∧ ((strm s k.val).recs = (kind, ws) :: r) :=
  ⟨1, 2, [7, 8], [], modStrm 1 (fun x => { x with recs := [(2, [7, 8])] }) (ledAdd 6 1 2 5 (setB (stk 1 4) 0 true (setB (stk 1 0) 0 true (setF ⟨.pmode, 1, 0⟩ 1 0 2 up)))), by decide +kernel⟩
theorem witness_StreamPortsSend_2 : ∃ (k : Fin 8) (b : LBlock) (ws : List Word) (s : State),
    (live s = true) ∧ (strmOn s k.val = true) ∧ (rb s (stk k.val 4) 0 = true) ∧ (ledGet s 6 k.val 2 ≠ 0) ∧ ((strm s k.val).spent < 65535) ∧ ((strm s k.val).recs = []) ∧ (((strm s k.val).lbs.find? (fun b => b.sent != 0)).orElse (fun _ => lbReady [] (strm s k.val).lbs) = some b) ∧ (b.words = some ws) ∧ (b.sent + 128 < ws.length) :=
  ⟨1, { id := 0, head := 3, num := 7, fast := false, size := 800, ormap := false, sent := 0, words := some (List.replicate 200 0) }, List.replicate 200 0, modStrm 1 (fun x => { x with lbs := [{ id := 0, head := 3, num := 7, fast := false, size := 800, ormap := false, sent := 0, words := some (List.replicate 200 0) }] }) (ledAdd 6 1 2 5 (setB (stk 1 4) 0 true (setB (stk 1 0) 0 true (setF ⟨.pmode, 1, 0⟩ 1 0 2 up)))), by decide +kernel⟩
theorem witness_StreamPortsSend_3 : ∃ (k : Fin 8) (b : LBlock) (ws : List Word) (s : State),
    (live s = true) ∧ (strmOn s k.val = true) ∧ (rb s (stk k.val 4) 0 = true) ∧ (ledGet s 6 k.val 2 ≠ 0) ∧ ((strm s k.val).spent < 65535) ∧ ((strm s k.val).recs = []) ∧ (((strm s k.val).lbs.find? (fun b => b.sent != 0)).orElse (fun _ => lbReady [] (strm s k.val).lbs) = some b) ∧ (b.words = some ws) ∧ (ws.length ≤ b.sent + 128) :=
  ⟨1, { id := 0, head := 3, num := 7, fast := false, size := 800, ormap := false, sent := 128, words := some (List.replicate 200 0) }, List.replicate 200 0, modStrm 1 (fun x => { x with lbs := [{ id := 0, head := 3, num := 7, fast := false, size := 800, ormap := false, sent := 128, words := some (List.replicate 200 0) }] }) (ledAdd 6 1 2 5 (setB (stk 1 4) 0 true (setB (stk 1 0) 0 true (setF ⟨.pmode, 1, 0⟩ 1 0 2 up)))), by decide +kernel⟩
theorem witness_StreamPortsSend_4 : ∃ (k : Fin 8) (s : State),
    (live s = true) ∧ ((strmOn s k.val && rb s (stk k.val 4) 0 && decide (ledGet s 6 k.val 2 ≠ 0) && decide ((strm s k.val).spent < 65535)) = false) :=
  ⟨1, up, by decide +kernel⟩
theorem witness_StreamPortsSend_5 : ∃ (k : Fin 8) (w0 w1 : Word) (s : State),
    (live s = true) ∧ (roleOf s k.val = 2) ∧ (crc16 (wordBytes w0) = w1.extractLsb' 0 16) ∧ ((strm s k.val).lost = false) :=
  ⟨1, 9, BitVec.ofNat 32 (crc16 (wordBytes 9)).toNat, modStrm 1 (fun x => { x with lost := false }) (setF ⟨.pmode, 1, 0⟩ 1 0 2 up), by decide +kernel⟩
theorem witness_StreamPortsSend_6 : ∃ (k : Fin 8) (w0 w1 : Word) (s : State),
    (live s = true) ∧ (roleOf s k.val = 2) ∧ (crc16 (wordBytes w0) = w1.extractLsb' 0 16) ∧ ((strm s k.val).lost = true) :=
  ⟨1, 9, BitVec.ofNat 32 (crc16 (wordBytes 9)).toNat, modStrm 1 (fun x => { x with lost := true }) (setF ⟨.pmode, 1, 0⟩ 1 0 2 up), by decide +kernel⟩
theorem witness_StreamPortsSend_7 : ∃ (k : Fin 8) (w0 w1 : Word) (s : State),
    (live s = true) ∧ (roleOf s k.val = 2) ∧ (crc16 (wordBytes w0) ≠ w1.extractLsb' 0 16) :=
  ⟨1, 9, ~~~(BitVec.ofNat 32 (crc16 (wordBytes 9)).toNat), setF ⟨.pmode, 1, 0⟩ 1 0 2 up, by decide +kernel⟩
theorem witness_StreamPortsSend_8 : ∃ (k : Fin 8) (s : State),
    (live s = true) ∧ (roleOf s k.val = 2) :=
  ⟨1, setF ⟨.pmode, 1, 0⟩ 1 0 2 up, by decide +kernel⟩
theorem witness_StreamPortsSend_9 : ∃ (k : Fin 8) (s : State),
    (live s = true) ∧ (roleOf s k.val ≠ 2) :=
  ⟨1, up, by decide +kernel⟩
theorem witness_OutsideCausesAndSupplies_1 : ∃ (src : Fin 512) (mem : BitVec 5) (s : State),
    ((srcUsed src.val && memValid src.val mem.toNat) = true) ∧ (nget 0 s.flt.bw src.val &&& memBit (memOf src.val mem.toNat) = 0) ∧ (s.por = false) :=
  ⟨0x109, 2, up, by decide +kernel⟩
theorem witness_OutsideCausesAndSupplies_2 : ∃ (src : Fin 512) (mem : BitVec 5) (s : State),
    ((srcUsed src.val && memValid src.val mem.toNat) = true) ∧ (nget 0 s.flt.bw src.val &&& memBit (memOf src.val mem.toNat) = 0) ∧ (s.por = true) :=
  ⟨0x109, 2, { up with por := true }, by decide +kernel⟩
theorem witness_OutsideCausesAndSupplies_3 : ∃ (src : Fin 512) (mem : BitVec 5) (s : State),
    ((srcUsed src.val && memValid src.val mem.toNat) = true) ∧ (nget 0 s.flt.bw src.val &&& memBit (memOf src.val mem.toNat) ≠ 0) :=
  ⟨0x109, 2, modFlt (fun f => { f with bw := addBit f.bw 0x109 (memBit (memOf 0x109 2)) }) up, by decide +kernel⟩
theorem witness_OutsideCausesAndSupplies_4 : ∃ (src : Fin 512) (mem : BitVec 5) (s : State),
    ((srcUsed src.val && memValid src.val mem.toNat) = true) :=
  ⟨0x109, 2, up, by decide +kernel⟩
theorem witness_OutsideCausesAndSupplies_5 : ∃ (src : Fin 512) (mem : BitVec 5) (unit : BitVec 8) (lasting : Bool) (s : State),
    (live s = true) ∧ (src.val = 0x030) :=
  ⟨0x030, 0, 3, true, up, by decide +kernel⟩
theorem witness_OutsideCausesAndSupplies_6 : ∃ (t : Fin 8) (mem : BitVec 5) (unit : BitVec 8) (lasting : Bool) (s : State),
    (live s = true) ∧ (mem.toNat < 12) :=
  ⟨3, 2, 0, false, up, by decide +kernel⟩
theorem witness_OutsideCausesAndSupplies_7 : ∃ (t : Fin 8) (temp : BitVec 16) (s : State), s.por = false ∧ tjMax < sext 16 temp.toNat := ⟨3, 0x7FFF, up, by decide, by unfold tjMax; cases Config.grade <;> decide⟩
theorem witness_OutsideCausesAndSupplies_8 : ∃ (t : Fin 8) (temp : BitVec 16) (s : State),
    (s.por = true) :=
  ⟨3, 0x7FFF, { up with por := true }, by decide +kernel⟩
theorem witness_OutsideCausesAndSupplies_9 : ∃ (t : Fin 8) (temp : BitVec 16) (s : State), s.por = false ∧ sext 16 temp.toNat ≤ tjMax := ⟨3, 0, up, by decide, by unfold tjMax; cases Config.grade <;> decide⟩
theorem witness_OutsideCausesAndSupplies_11 : ∃ (s : State),
    (s.por = false) :=
  ⟨up, by decide +kernel⟩
theorem witness_OutsideCausesAndSupplies_12 : ∃ (s : State),
    (s.por = true) :=
  ⟨{ up with por := true }, by decide +kernel⟩
theorem witness_OutsideCausesAndSupplies_14 : ∃ (s : State),
    (s.por = false) :=
  ⟨up, by decide +kernel⟩
theorem witness_OutsideCausesAndSupplies_15 : ∃ (s : State),
    (s.por = true) :=
  ⟨{ up with por := true }, by decide +kernel⟩
theorem witness_OutsideCausesAndSupplies_17 : ∃ (s : State),
    (s.por = false) :=
  ⟨up, by decide +kernel⟩
theorem witness_OutsideCausesAndSupplies_18 : ∃ (s : State),
    (s.por = true) :=
  ⟨{ up with por := true }, by decide +kernel⟩
theorem witness_OutsideCausesAndSupplies_20 : ∃ (rail : Fin 25) (s : State),
    (8 ≤ rail.val) ∧ (rail.val < 16) ∧ (live s = true) :=
  ⟨9, { up with rails := 0 }, by decide +kernel⟩
theorem witness_OutsideCausesAndSupplies_21 : ∃ (rail : Fin 25) (s : State),
    (rail.val < 8 ∨ 16 ≤ rail.val ∨ live s = false) :=
  ⟨3, { up with rails := 0 }, by decide +kernel⟩
theorem witness_OutsideCausesAndSupplies_22 : ∃ (rail : Fin 25) (s : State),
    (8 ≤ rail.val) ∧ (rail.val < 16) :=
  ⟨9, up, by decide +kernel⟩
theorem witness_OutsideCausesAndSupplies_23 : ∃ (rail : Fin 25) (s : State),
    (rail.val < 8 ∨ (16 ≤ rail.val ∧ rail.val < 24)) :=
  ⟨3, up, by decide +kernel⟩
theorem witness_OutsideCausesAndSupplies_24 : ∃ (rail : Fin 25) (s : State),
    (rail.val = 24) :=
  ⟨24, up, by decide +kernel⟩
theorem witness_OutsideCausesAndSupplies_25 : ∃ (e : Nat) (s : State),
    (live s = true) ∧ ((encP s e).a = false) ∧ ((encP s e).b = false) ∧ ((encP s e).z = false) :=
  ⟨5, up, by decide +kernel⟩
theorem witness_ResetsAndPowerFail_2 : ∃ (s : State),
    (s.por = true) ∧ (s.rstn = false) :=
  ⟨{ up with por := true }, by decide +kernel⟩
theorem witness_ResetsAndPowerFail_3 : ∃ (s : State),
    (s.por = false ∨ s.rstn = true) :=
  ⟨{ up with por := true, rstn := true }, by decide +kernel⟩
theorem witness_ResetsAndPowerFail_4 : ∃ (s : State),
    (s.por = false) ∧ (s.pfail = false) ∧ (s.rstn = false) :=
  ⟨up, by decide +kernel⟩
theorem witness_ResetsAndPowerFail_5 : ∃ (s : State),
    ((s.por || s.pfail || s.rstn) = true) :=
  ⟨{ up with por := true }, by decide +kernel⟩
theorem witness_ResetsAndPowerFail_6 : ∃ (s : State),
    (pinPowered s .resetN = true) ∧ (s.rstn = true) ∧ (s.por = false) ∧ (s.pfail = false) :=
  ⟨{ up with rstn := true }, by decide +kernel⟩
theorem witness_ResetsAndPowerFail_7 : ∃ (s : State),
    (pinPowered s .resetN = true) ∧ (s.rstn = true) ∧ ((s.por || s.pfail) = true) :=
  ⟨{ up with rstn := true, por := true }, by decide +kernel⟩
theorem witness_ResetsAndPowerFail_8 : ∃ (s : State),
    (pinPowered s .resetN = false) :=
  ⟨{ up with rails := 0 }, by decide +kernel⟩
theorem witness_ResetsAndPowerFail_9 : ∃ (pin mon : Bool) (s : State),
    (s.pfail = false) ∧ (s.por = false) ∧ ((pin || mon) = true) :=
  ⟨true, false, up, by decide +kernel⟩
theorem witness_ResetsAndPowerFail_10 : ∃ (pin mon : Bool) (s : State),
    ((s.pfail || s.por) = true) :=
  ⟨true, false, { up with pfail := true }, by decide +kernel⟩
theorem witness_BootSteps_1 : ∃ (s : State),
    (live s = true) ∧ (s.step1 = false) :=
  ⟨State.reset, by decide +kernel⟩
theorem witness_BootSteps_2 : ∃ (s : State),
    (live s = true) ∧ (s.step1 = true) :=
  ⟨{ State.reset with step1 := true }, by decide +kernel⟩
theorem witness_BootSteps_3 : ∃ (failed transient : List (Fin 512 × BitVec 5 × BitVec 8)) (s : State),
    (live s = true) ∧ (s.step1 = true) ∧ (s.step2 = false) ∧ (failed = []) ∧ (transient = []) ∧ (s.flt.bw = []) :=
  ⟨[], [], { State.reset with step1 := true }, by decide +kernel⟩
theorem witness_BootSteps_4 : ∃ (failed transient : List (Fin 512 × BitVec 5 × BitVec 8)) (s : State),
    (live s = true) ∧ (s.step1 = true) ∧ (s.step2 = false) ∧ (failed ≠ []) ∧ (s.flt.bw = []) :=
  ⟨[(0x030, 0, 3)], [], { State.reset with step1 := true }, by decide +kernel⟩
theorem witness_BootSteps_5 : ∃ (s : State),
    (live s = true) ∧ (s.step1 = true) ∧ (s.step2 = false) ∧ (s.flt.bw ≠ []) :=
  ⟨modFlt (fun f => { f with bw := [(0x109, 4)] }) { State.reset with step1 := true }, by decide +kernel⟩
theorem witness_BootSteps_6 : ∃ (failed transient : List (Fin 512 × BitVec 5 × BitVec 8)) (s : State),
    (live s = true) ∧ (s.step1 = false ∨ s.step2 = true) :=
  ⟨[], [], State.reset, by decide +kernel⟩
theorem witness_BootSteps_7 : ∃ (sr : Fin 8) (e : Nat) (es : List Nat) (f : FlashStream) (s : State),
    (live s = true) ∧ (s.step1 = true) ∧ (s.rails.getLsbD 16 = true) ∧ (s.bootFabs = e :: es) ∧ ((bitsOf (bmW s (11 + 2 * e)) 8).headD sr.val = sr.val) :=
  ⟨3, 0, [], ⟨[], [], 0, []⟩, { State.reset with step1 := true, bootFabs := [0], nvm := [(0x402C, 0x08), (0x402D, 0), (0x402E, 0), (0x402F, 0)] }, by decide +kernel⟩
theorem witness_BootSteps_8 : ∃ (sr : Fin 8) (e : Nat) (es : List Nat) (f : FlashStream) (s : State),
    (live s = true) ∧ (s.step1 = true) ∧ (s.rails.getLsbD 16 = true) ∧ (s.bootFabs = e :: es) ∧ (bitsOf (bmW s (11 + 2 * e)) 8 = [sr.val]) ∧ ((dW f.hdr 0 != 0x46514254 || dW f.hdr 1 != 0x01607196 || regionsOf (dW f.hdr 2) != [sr.val] || (dW f.hdr 3).toNat != 164) = false) ∧ (((s.fabAuth && !bit (dW f.hdr 2) 8) || (bit (dW f.hdr 2) 8 && !keySet s)) = true) :=
  ⟨3, 0, [], ⟨[0x46514254, 0x01607196, 0x108, 164, 0, 0], [], 0, []⟩, { State.reset with step1 := true, bootFabs := [0], nvm := [(0x402C, 0x08), (0x402D, 0), (0x402E, 0), (0x402F, 0)] }, by decide +kernel⟩
theorem witness_BootSteps_9 : ∃ (sr : Fin 8) (e : Nat) (es : List Nat) (f : FlashStream) (s : State),
    (live s = true) ∧ (s.step1 = true) ∧ (s.rails.getLsbD 16 = false) ∧ (s.bootFabs = e :: es) ∧ ((bitsOf (bmW s (11 + 2 * e)) 8).headD sr.val = sr.val) :=
  ⟨3, 0, [], ⟨[], [], 0, []⟩, { State.reset with step1 := true, bootFabs := [0], nvm := [(0x402C, 0x08), (0x402D, 0), (0x402E, 0), (0x402F, 0)], rails := 0 }, by decide +kernel⟩
theorem witness_BootSteps_10 : ∃ (sr : Fin 8) (f : FlashStream) (s : State),
    (live s = true) ∧ (s.bootFabs = []) :=
  ⟨3, ⟨[], [], 0, []⟩, up, by decide +kernel⟩
theorem witness_BootSteps_11 : ∃ (s : State),
    (live s = true) ∧ (s.step1 = true) ∧ (s.step2 = true) ∧ (s.bootFabs = []) ∧ (s.bootTiles = []) ∧ (isReady s = false) :=
  ⟨{ State.reset with step1 := true, step2 := true }, by decide +kernel⟩
theorem witness_BootSteps_12 : ∃ (s : State),
    (live s = true) ∧ ((s.step1 && s.step2 && s.bootFabs.isEmpty && s.bootTiles.isEmpty) = false) :=
  ⟨State.reset, by decide +kernel⟩
theorem witness_IllegalTransitions_1 : ∃ (e : Fin 32) (a b : Bool) (s : State),
    (live s = true) ∧ (pinPowered s (.encAP e.val) = true) ∧ (noEdgePins e.val s = true) ∧ ((((encP s e.val).a != a) && ((encP s e.val).b != b)) = true) ∧ (1 ≤ rf s (ek e.val 0) 2 0) ∧ (rf s (ek e.val 0) 2 0 ≤ 3) ∧ (unfiltered e.val s = true) :=
  ⟨5, true, true, setF (ek 5 0) 2 0 3 up, by decide +kernel⟩
theorem witness_EmptyQueueTicks_1 : ∃ (s : State),
    (s.pending = []) ∧ (s.por = false) ∧ (s.pfail = false) :=
  ⟨up, by decide +kernel⟩
theorem witness_EmptyQueueTicks_2 : ∃ (s : State),
    (s.pending = []) ∧ (s.por = false) ∧ (s.pfail = true) :=
  ⟨{ up with pfail := true }, by decide +kernel⟩
theorem witness_EmptyQueueTicks_3 : ∃ (s : State),
    (s.pending = []) ∧ (s.por = true) :=
  ⟨{ up with por := true }, by decide +kernel⟩
theorem witness_ResetState_1 : ∃ (c i j t a : Nat) (p : Fin 32) (k : RKey),
    (a < 8) :=
  ⟨2, 5, 0, 1, 7, 3, rstatK, by decide +kernel⟩
theorem witness_StepKeepsSound_1 : ∃ s t : State, step s = .next t ∧ s.Sound := ⟨State.reset, _, rfl, rfl, fun x h => nomatch (show x ∈ ([] : List Lease) from h)⟩
theorem witness_DeadDeviceDoesNothing_1 : ∃ (c : Instr) (s : State),
    (live s = false) ∧ (ofTheBoard c = false) :=
  ⟨.encoderEdge 3 true true, { up with rstn := true }, by decide +kernel⟩
theorem witness_SettledStatesStay_1 : ∃ s : State, s.Settled := ⟨State.reset, rfl, (fun o h => nomatch (show o ∈ ([] : List LongOp) from h)), (fun x h => nomatch (show x ∈ ([] : List Lease) from h)), (by intro k hk; interval_cases k <;> rfl), nofun⟩
theorem witness_RegisterWritesFrame_1 : ∃ (q : Fin 65) (k : RKey) (v : Word) (m : BitVec 4) (s : State),
    (writable q.val k v m s = true) ∧ (locate k.addr = .reg k) ∧ (k.addr < 2 ^ 32) ∧ (noAction k = true) :=
  ⟨64, ⟨.head, 5, 4⟩, 0, 0xF, up, by decide +kernel⟩
theorem witness_RegisterWritesFrame_2 : ∃ (p : Nat) (n : Fin 96) (k : RKey) (v m : Word) (s : State),
    ((k.blk == .fil && k.off != 4 || k.blk == .thr) = true) ∧ (k.i = n.val) ∧ ((filStaged n.val).contains k = true) ∧ ((fieldsOf k.blk k.off).isNone = false) :=
  ⟨0, 5, fk 5 8, 1, 0xFFFFFFFF, up, by decide +kernel⟩
theorem witness_RegisterWritesFrame_3 : ∃ (n : Fin 96) (k : RKey) (s : State),
    (rb s (fk n.val 4) 0 = false) :=
  ⟨5, fk 5 8, up, by decide +kernel⟩
theorem witness_RegisterWritesFrame_4 : ∃ (n : Fin 96) (k : RKey) (s : State),
    (rb s (fk n.val 4) 0 = true) ∧ ((chan s n.val).held.contains k = false) :=
  ⟨5, fk 5 8, setB (fk 5 4) 0 true up, by decide +kernel⟩
theorem witness_RegisterWritesFrame_5 : ∃ (n : Fin 96) (k : RKey) (s : State),
    (rb s (fk n.val 4) 0 = true) ∧ ((chan s n.val).held.contains k = true) :=
  ⟨5, fk 5 8, setB (fk 5 4) 0 true (modChan 5 (fun c => { c with held := [fk 5 8] }) up), by decide +kernel⟩
theorem witness_RegisterWritesFrame_6 : ∃ (p : Nat) (n : Fin 96) (v m : Word) (s : State),
    ((bit (mergeReg (fk n.val 4) (rd s (fk n.val 4)) v m) 0 && !rb s (fk n.val 4) 0) = false) :=
  ⟨0, 5, 0, 0xFFFFFFFF, up, by decide +kernel⟩
theorem witness_RegisterWritesFrame_7 : ∃ (p : Nat) (n : Fin 96) (v m : Word) (s : State),
    ((bit (mergeReg (fk n.val 4) (rd s (fk n.val 4)) v m) 0 && !rb s (fk n.val 4) 0) = true) :=
  ⟨0, 5, 1, 0xFFFFFFFF, up, by decide +kernel⟩
theorem witness_MemoryHoldsWhatIsWritten_1 : ∃ (s : State) (off i : Nat) (bs : List Byte),
    (i < bs.length) :=
  ⟨up, 5, 1, [1, 2], by decide +kernel⟩
theorem witness_MemoryHoldsWhatIsWritten_2 : ∃ (s : State) (off x : Nat) (bs : List Byte),
    (x < off ∨ off + bs.length ≤ x) :=
  ⟨up, 5, 1, [1, 2], by decide +kernel⟩
theorem witness_MemoryHoldsWhatIsWritten_3 : ∃ (s : State) (off : Nat) (bs : List Byte),
    (Memory.wf memDflt s.mem = true) :=
  ⟨up, 5, [1, 2], by decide +kernel⟩
theorem witness_MemoryHoldsWhatIsWritten_4 : ∃ (s : State) (off : Nat) (ws : List Word),
    (Memory.wf nvmDflt s.nvm = true) :=
  ⟨up, 5, [1, 2], by decide +kernel⟩
theorem witness_MemoryHoldsWhatIsWritten_6 : ∃ (s : State) (off i : Nat) (w : Word),
    (i < 4) :=
  ⟨up, 8, 3, 0x11223344, by decide +kernel⟩
theorem witness_MemoryHoldsWhatIsWritten_7 : ∃ (s : State) (off x : Nat) (w : Word),
    (x < off ∨ off + 4 ≤ x) :=
  ⟨up, 8, 12, 0x11223344, by decide +kernel⟩
theorem witness_MemoryHoldsWhatIsWritten_8 : ∃ (s : State) (off i : Nat) (w : Word),
    (i < 4) :=
  ⟨up, 8, 3, 0x11223344, by decide +kernel⟩
theorem witness_MemoryHoldsWhatIsWritten_10 : ∃ (s : State) (off x : Nat) (ws : List Word),
    (x < off ∨ off + 4 * ws.length ≤ x) :=
  ⟨up, 8, 16, [1, 2], by decide +kernel⟩
theorem witness_MemoryHoldsWhatIsWritten_12 : ∃ (s : State) (k : RKey) (v : Word),
    (k.i < 2 ^ 24 ∧ k.off < 2 ^ 24) ∧ (Regs.wf s.regs = true) ∧ (Regs.wf s.act = true) :=
  ⟨up, fk 5 8, 7, by decide +kernel⟩
theorem witness_MemoryHoldsWhatIsWritten_13 : ∃ (s : State) (c i t n : Nat),
    (spWf id (fun _ => 0) s.led = true) :=
  ⟨up, 7, 64, 0, 1, by decide +kernel⟩
theorem witness_FlaggedOutputsLead_1 : ∃ (c : PathCfg) (vs raw : List Mk) (i : Nat) (o : OutW),
    ((fineLine c vs raw)[i]? = some o) :=
  ⟨⟨0, 1, 0, true, 0, 0, [1], 1, false, false⟩, [(5, false)], [(40000, false)], 0, ⟨32767, true, false, false⟩, by decide +kernel⟩
theorem witness_FlaggedOutputsLead_2 : ∃ (c : PathCfg) (raw : List Mk) (i : Nat) (o : OutW),
    ((fastLine c raw)[i]? = some o) :=
  ⟨⟨3, 2, 0, true, 0, 0, [1], 1, false, false⟩, [(-40000, false)], 0, ⟨-32768, true, false, true⟩, by decide +kernel⟩
theorem witness_FlaggedOutputsLead_3 : ∃ (c : PathCfg) (vs raw : List Mk) (i j : Nat) (o u : OutW),
    (i ≤ j) ∧ ((fineLine c vs raw)[i]? = some o) ∧ ((fineLine c vs raw)[j]? = some u) ∧ ((u.settle || u.edge) = true) :=
  ⟨⟨3, 1, 0, false, 0, 0, [1], 1, false, false⟩, [(5, false), (6, false)], [(1, false), (2, false)], 0, 1, ⟨1, false, true, false⟩, ⟨2, false, true, false⟩, by decide +kernel⟩
theorem witness_FlaggedOutputsLead_4 : ∃ (c : PathCfg) (raw : List Mk) (i j : Nat) (o u : OutW),
    (i ≤ j) ∧ ((fastLine c raw)[i]? = some o) ∧ ((fastLine c raw)[j]? = some u) ∧ ((u.settle || u.edge) = true) :=
  ⟨⟨3, 1, 0, false, 0, 0, [1], 1, false, false⟩, [(1, false), (2, false)], 0, 1, ⟨1, false, true, false⟩, ⟨2, false, true, false⟩, by decide +kernel⟩

end Sys2Proof.Tests
end

section
/-! PROOFS. Register commands and register rows (R22, R47, R54–R58, R66–R81, R235, R250), the memories (R9, R48, R429) and the
state at power-on reset (R24, R46, R88, R104, R419, R420). -/

namespace Sys2Proof.Machine

/-! ## Rows of register commands (R66, R72, R79, R93) -/

/-- A packet that the processor takes, of the row and the length that the opcode asks for: what its body answers is
replied. -/
theorem hostRow_replies {opc st : Nat} {sel lenOk body} {p : Pkt} {s t : State} {pay : List Word} (h : runs opc p s = true)
    (hs : sel p.pay = true) (hl : lenOk p.pay p.pay.length = true) (hb : body (cmdOf opc p s) (taken p s) = ⟨t, st, pay, false⟩) :
    hostRow opc sel lenOk body noAfter p s = replied p st pay t := by
  simp only [runs, Bool.and_eq_true, Option.isNone_iff_eq_none] at h
  obtain ⟨⟨ho, hbd⟩, htag⟩ := h
  rw [hostRow_runs ho hs hbd hl htag hb]
  rfl
theorem plainRow_replies {opc st len : Nat} {body} {p : Pkt} {s t : State} {pay : List Word} (h : runs opc p s = true)
    (hl : p.pay.length = len) (hb : body (cmdOf opc p s) (taken p s) = ⟨t, st, pay, false⟩) :
    plainRow opc len body p s = replied p st pay t :=
  hostRow_replies h rfl (by simp [lenIs, hl]) hb
/-- The report of a DENIED register access names the port of the packet's queue and the word refused. -/
theorem cmdReport_denied (opc acc wrd : Nat) (addr : Word) (p : Pkt) (s : State) :
    cmdReport (cmdOf opc p s) (deniedSrc (cmdOf opc p s).port) acc wrd addr = deniedReport opc acc wrd addr p s := by
  simp only [cmdReport, if_true]
  rfl

section Reads
variable {c : Cmd} {s : State} (h1 : 1 ≤ fld (pw c 1) 7 0) (h2 : fld (pw c 1) 7 0 ≤ 254)
  (hb : ((List.range (fld (pw c 1) 7 0)).map fun i => (pw c 0).toNat + 4 * i).any badAddr = false)
include h1 h2 hb

theorem bodyRegRead_ok (hm : ((List.range (fld (pw c 1) 7 0)).map fun i => (pw c 0).toNat + 4 * i).find?
    (fun x => !mayRead s ⟨c.part, c.q, 0⟩ (locate x)) = none) :
    bodyRegRead c s = Ans.ok (readWords ⟨c.part, c.q, 0⟩ (fld (pw c 1) 7 0) (pw c 0).toNat s).2
      (readWords ⟨c.part, c.q, 0⟩ (fld (pw c 1) 7 0) (pw c 0).toNat s).1 := by
  have hn : ¬ (fld (pw c 1) 7 0 = 0 ∨ 254 < fld (pw c 1) 7 0) := by omega
  simp only [bodyRegRead, hn, hb, hm, if_false, Bool.false_eq_true]
theorem bodyRegRead_denied {x : Nat} (hm : ((List.range (fld (pw c 1) 7 0)).map fun i => (pw c 0).toNat + 4 * i).find?
    (fun x => !mayRead s ⟨c.part, c.q, 0⟩ (locate x)) = some x) :
    bodyRegRead c s = Ans.fail (report (cmdReport c (deniedSrc c.port) 0 0 (BitVec.ofNat 32 x)) s) 0x03 0 0 [] := by
  have hn : ¬ (fld (pw c 1) 7 0 = 0 ∨ 254 < fld (pw c 1) 7 0) := by omega
  simp only [bodyRegRead, hn, hb, hm, if_false, Bool.false_eq_true]
theorem bodyRegPeek_ok (hp : c.part = 0) :
    bodyRegPeek c s = Ans.ok (readWords ⟨0, c.q, 1⟩ (fld (pw c 1) 7 0) (pw c 0).toNat s).2
      (readWords ⟨0, c.q, 1⟩ (fld (pw c 1) 7 0) (pw c 0).toNat s).1 := by
  have hn : ¬ (fld (pw c 1) 7 0 = 0 ∨ 254 < fld (pw c 1) 7 0) := by omega
  simp only [bodyRegPeek, hn, hb, hp, ne_eq, not_true, if_false, Bool.false_eq_true]
theorem bodyRegPeek_denied (hp : c.part ≠ 0) :
    bodyRegPeek c s = Ans.fail (report (cmdReport c (deniedSrc c.port) 0 0 (pw c 0)) s) 0x03 0 0 [] := by
  have hn : ¬ (fld (pw c 1) 7 0 = 0 ∨ 254 < fld (pw c 1) 7 0) := by omega
  simp only [bodyRegPeek, hn, hb, hp, ne_eq, not_false_iff, if_false, if_true, Bool.false_eq_true]

end Reads

/-- A register write that no check refuses is applied, word by word. -/
theorem writeRegs_done {part : Nat} {os : List WOp} {s : State} (h : writeRefusal part os s = false) :
    writeRegs part os s = .done (os.foldl (fun t o => applyWord part o t) s) := by
  simp only [writeRefusal, Bool.or_eq_false_iff, Option.isSome_eq_false_iff, Option.isNone_iff_eq_none] at h
  obtain ⟨⟨⟨⟨hparam, hdenied⟩, hheld⟩, hlock⟩, hlate⟩ := h
  simp only [writeRegs, hparam, hdenied, hheld, hlock, hlate]
/-- A register write whose values are sound is DENIED at the first word that is not the sender's. -/
theorem writeRegs_denied {part : Nat} {os : List WOp} {o : WOp} {s : State} (hc : checkParams os s = none)
    (hd : deniedAt part os s = some o) : writeRegs part os s = .denied o.a := by
  simp only [writeRegs, hc, hd]
/-- A write answered DENIED reports the word refused and leaves the state it was judged in. -/
theorem wAnswer_denied (opc a : Nat) (p : Pkt) (s t : State) (reply : List Word) : wAnswer (cmdOf opc p s) t reply (.denied a) =
    Ans.fail (report (deniedReport opc 1 0 (BitVec.ofNat 32 a) p s) t) 0x03 0 0 [] := by
  rw [wAnswer, cmdReport_denied]
/-- REG_WRITE writes the words of its packet. -/
theorem bodyRegWrite_packet (p : Pkt) (s : State) : bodyRegWrite (cmdOf 0x11 p s) (taken p s) =
    wAnswer (cmdOf 0x11 p s) (taken p s) [] (writeRegs (sender p s) (writeWords p) (taken p s)) := rfl
/-- REG_MODIFY writes its one word, made from the old value, and answers the old value. -/
theorem bodyRegModify_packet {p : Pkt} {s : State} (hb : badAddr (word p 0).toNat = false) :
    bodyRegModify (cmdOf 0x12 p s) (taken p s) = wAnswer (cmdOf 0x12 p s) (taken p s)
      [(readWord ⟨sender p s, p.q.val, 1⟩ (word p 0).toNat (taken p s)).1]
      (writeRegs (sender p s) [modifyWord p s] (readWord ⟨sender p s, p.q.val, 1⟩ (word p 0).toNat (taken p s)).2) := by
  have hb' : ¬ badAddr (pw (cmdOf 0x12 p s) 0).toNat = true := Bool.not_eq_true _ ▸ hb
  rw [bodyRegModify, if_neg hb']
  rfl

/-- Settles O2: each body answers as its case says, and the row of a packet that runs replies it. -/
theorem registerCommandsAct : Obligations.RegisterCommandsAct := by
  unfold Obligations.RegisterCommandsAct
  refine ⟨?read, ?peek, ?write, ?modify, ?readDenied, ?peekDenied, ?writeDenied, ?modifyDenied⟩
  case read =>
    intro p s hr hl h1 h2 hb hm
    have hbody := bodyRegRead_ok (c := cmdOf 0x10 p s) (s := taken p s) h1 h2 hb hm
    exact congrArg Host.Outcome.next (plainRow_replies hr hl hbody)
  case peek =>
    intro p s hr hl h1 h2 hb hp
    have hbody := bodyRegPeek_ok (c := cmdOf 0x13 p s) (s := taken p s) h1 h2 hb hp
    exact congrArg Host.Outcome.next (plainRow_replies hr hl hbody)
  case write =>
    intro p s hr hl hw
    have hbody := bodyRegWrite_packet p s
    rw [writeRegs_done hw] at hbody
    exact congrArg Host.Outcome.next (hostRow_replies hr rfl (decide_eq_true hl) hbody)
  case modify =>
    intro p s hr hl hb hw
    have hbody := bodyRegModify_packet (s := s) hb
    rw [writeRegs_done hw] at hbody
    exact congrArg Host.Outcome.next (plainRow_replies hr hl hbody)
  case readDenied =>
    intro p s x hr hl h1 h2 hb hm
    have hbody := bodyRegRead_denied (c := cmdOf 0x10 p s) (s := taken p s) h1 h2 hb hm
    rw [cmdReport_denied] at hbody
    exact congrArg Host.Outcome.next (plainRow_replies hr hl hbody)
  case peekDenied =>
    intro p s hr hl h1 h2 hb hp
    have hbody := bodyRegPeek_denied (c := cmdOf 0x13 p s) (s := taken p s) h1 h2 hb hp
    rw [cmdReport_denied] at hbody
    exact congrArg Host.Outcome.next (plainRow_replies hr hl hbody)
  case writeDenied =>
    intro p s o hr hl hc hd
    have hbody := bodyRegWrite_packet p s
    rw [writeRegs_denied hc hd, wAnswer_denied] at hbody
    exact congrArg Host.Outcome.next (hostRow_replies hr rfl (decide_eq_true hl) hbody)
  case modifyDenied =>
    intro p s o hr hl hb hc hd
    have hbody := bodyRegModify_packet (s := s) hb
    rw [writeRegs_denied hc hd, wAnswer_denied] at hbody
    exact congrArg Host.Outcome.next (plainRow_replies hr hl hbody)

/-! ## Register rows over the bus (R75, R79, R81) -/

/-- What a register write that passes its checks has met: a serving processor, a bound queue, and no refusal. -/
theorem writable_iff {q : Nat} {k : RKey} {v : Word} {m : BitVec 4} {s : State} : writable q k v m s = true ↔
    serving s = true ∧ bound s q = true ∧ writeRefusal (partOf s q) [oneWord k v m] s = false := by
  have hf : ∀ f : WOp → Bool, ([oneWord k v m].find? f).isSome = f (oneWord k v m) := fun f => by
    cases h : f (oneWord k v m) <;> simp [List.find?, h]
  simp only [writable, writeRefusal, hf, Bool.and_eq_true, Bool.or_eq_false_iff, Bool.not_eq_true', Option.isSome_eq_false_iff]
  tauto
/-- A mask of byte enables is read back from the payload word that carries it. -/
theorem maskWord_fld (m : BitVec 4) : BitVec.ofNat 4 (fld (BitVec.ofNat 32 m.toNat) 3 0) = m := by
  have h : m.toNat < 16 := m.isLt
  apply BitVec.eq_of_toNat_eq
  simp only [fld, BitVec.toNat_ofNat, Nat.shiftRight_zero]
  omega
/-- A register row whose write passes every check applies the one word, and OK is logged. -/
theorem busWrite_ok {q : Nat} {k : RKey} {v : Word} {m : BitVec 4} {s : State} (h : writable q k v m s = true)
    (hl : locate k.addr = .reg k) (ha : k.addr < 2 ^ 32) :
    busWrite q k.addr v m s = wrote q (applyReg (partOf s q) k v (byteMask m) s) := by
  obtain ⟨hs, hb, hw⟩ := writable_iff.mp h
  have hx : (BitVec.ofNat 32 k.addr).toNat = k.addr := by rw [BitVec.toNat_ofNat]; exact Nat.mod_eq_of_lt ha
  have happly : applyWord (partOf s q) (oneWord k v m) s = applyReg (partOf s q) k v (byteMask m) s := by
    simp only [applyWord, oneWord, hl]
  have hbody : bodyRegWrite ⟨q, partOf s q, portOf q, 0x11, 0, false, [BitVec.ofNat 32 k.addr, BitVec.ofNat 32 m.toNat, v]⟩ s =
      Ans.ok (applyReg (partOf s q) k v (byteMask m) s) [] := by
    simp only [bodyRegWrite, pw, List.getD_cons_zero, List.getD_cons_succ, List.drop_succ_cons, List.drop_zero, List.mapIdx_cons,
      List.mapIdx_nil, maskWord_fld, hx, Nat.mul_zero, Nat.add_zero]
    change wAnswer _ s [] (writeRegs (partOf s q) [oneWord k v m] s) = _
    rw [writeRegs_done hw, List.foldl_cons, List.foldl_nil, happly]
    rfl
  simp only [busWrite, hs, hb, Bool.not_true, Bool.or_self, Bool.false_eq_true, if_false, hbody]
  rfl
theorem targetWrite_ici {q : Fin 65} {k : RKey} {v : Word} {m : BitVec 4} {s : State} (h : writable q.val k v m s = true)
    (hl : locate k.addr = .reg k) (ha : k.addr < 2 ^ 32) :
    targetWrite (.ici q (BitVec.ofNat 32 k.addr)) v m s = wrote q.val (applyReg (partOf s q.val) k v (byteMask m) s) := by
  have hx : (BitVec.ofNat 32 k.addr).toNat = k.addr := by rw [BitVec.toNat_ofNat]; exact Nat.mod_eq_of_lt ha
  rw [targetWrite, hx, busWrite_ok h hl ha]

/-! ## Bits that a write leaves (R22) -/

theorem bit_and (a b : Word) (i : Nat) : bit (a &&& b) i = (bit a i && bit b i) := BitVec.getLsbD_and
theorem bit_not {a : Word} {i : Nat} (h : i < 32) : bit (~~~a) i = !bit a i := by simp [bit, h]
theorem bit_past {a : Word} {i : Nat} (h : 32 ≤ i) : bit a i = false := BitVec.getLsbD_of_ge a i h
theorem bit_blend {old new mask : Word} {i : Nat} : bit (blend old new mask) i = if bit mask i then bit new i else bit old i := by
  by_cases hi : i < 32
  · have hb : bit (blend old new mask) i = ((bit old i && !bit mask i) || (bit new i && bit mask i)) := by
      simp only [bit, blend, BitVec.getLsbD_or, BitVec.getLsbD_and, BitVec.getLsbD_not, hi, decide_true, Bool.true_and]
    rw [hb]
    cases bit mask i <;> simp
  · simp only [bit_past (Nat.le_of_not_lt hi), ite_self]

/-- A written-one-to-clear bit of a register clears where an enabled byte writes a one. -/
theorem mergeReg_w1c {k : RKey} {old v m : Word} {i : Nat} (h : bit (accMask [.w1c] k) i = true) (hi : i < 32) :
    bit (mergeReg k old v m) i = (bit (blend old v (m &&& accMask [.rw, .rwl, .wos] k)) i && !(bit v i && bit m i)) := by
  simp only [mergeReg, bit_and, bit_not hi, h, Bool.and_true]
/-- A bit of no writable field keeps its value. -/
theorem mergeReg_kept {k : RKey} {old v m : Word} {i : Nat} (h1 : bit (accMask [.rw, .rwl, .wos] k) i = false)
    (h2 : bit (accMask [.w1c] k) i = false) : bit (mergeReg k old v m) i = bit old i := by
  by_cases hi : i < 32
  · simp only [mergeReg, bit_and, bit_not hi, bit_blend, h1, h2, Bool.and_false, Bool.not_false, Bool.and_true, Bool.false_eq_true, if_false]
  · rw [bit_past (Nat.le_of_not_lt hi), bit_past (Nat.le_of_not_lt hi)]

/-! ## BAR0 and configuration space (R54, R55, R58, R80) -/

section Bar0
variable {k off : Nat} {v : Word} {be : BitVec 4} {s : State}

theorem bar0Write_ring (h : off < 0x8000) : bar0Write k off v be s = ringWriteW (8 * k + off / 0x1000) (off % 0x1000 / 4) v be s := by
  rw [bar0Write, if_pos h]
theorem bar0Write_port (h1 : 0x8000 ≤ off) (h2 : off < 0x8010) : bar0Write k off v be s =
    wr (bpk k (off % 16 / 4 * 4)) (mergeReg (bpk k (off % 16 / 4 * 4)) (rd s (bpk k (off % 16 / 4 * 4))) v (byteMask be)) s := by
  rw [bar0Write, if_neg (by omega), if_pos h2]
/-- A register of a queue's control block but DOORBELL and QCTL. -/
theorem bar0Write_queue (h1 : 0x8100 ≤ off) (h2 : off < 0x8300) (h3 : off % 0x40 / 4 * 4 ≠ 0x18) (h4 : off % 0x40 / 4 * 4 ≠ 4) :
    bar0Write k off v be s = if (fieldsOf .qcb (off % 0x40 / 4 * 4)).isSome then
      wr (qk (8 * k + (off - 0x8100) / 0x40) (off % 0x40 / 4 * 4)) (mergeReg (qk (8 * k + (off - 0x8100) / 0x40) (off % 0x40 / 4 * 4))
        (rd s (qk (8 * k + (off - 0x8100) / 0x40) (off % 0x40 / 4 * 4))) v (byteMask be)) s else s := by
  rw [bar0Write, if_neg (by omega), if_neg (by omega), if_pos ⟨h1, h2⟩]
  simp only [h3, h4, if_false]
theorem bar0Write_msix (h1 : 0x9000 ≤ off) (h2 : off < 0x9100) : bar0Write k off v be s =
    signalPending k (wr (bpk k (off / 4 * 4)) (mergeReg (bpk k (off / 4 * 4)) (rd s (bpk k (off / 4 * 4))) v (byteMask be)) s) := by
  rw [bar0Write, if_neg (by omega), if_neg (by omega), if_neg (by omega), if_pos ⟨h1, h2⟩]
/-- Offsets that hold no register ignore a write. -/
theorem bar0Write_undefined (h1 : 0x8010 ≤ off) (h2 : off < 0x8100 ∨ (0x8300 ≤ off ∧ off < 0x9000) ∨ 0x9100 ≤ off) :
    bar0Write k off v be s = s := by
  rw [bar0Write, if_neg (by omega), if_neg (by omega), if_neg (by omega), if_neg (by omega)]

end Bar0

theorem exec_bar0Write {port : Fin 8} {off : BitVec 16} {v : Word} {m : BitVec 4} {s : State} (h : hostOn s port.val = true) :
    exec (.registerWrite (.bar0 port off) v m) s = .next (finish (bar0Write port.val off.toNat v m s)) :=
  congrArg Host.Outcome.next (if_pos h)
theorem exec_cfgWrite {port : Fin 8} {r : CfgReg} {v : Word} {m : BitVec 4} {s : State} (h : live s = true) :
    exec (.registerWrite (.cfg port r) v m) s = .next (finish (cfgWrite port.val r v m s)) :=
  congrArg Host.Outcome.next (if_pos h)

theorem cfgRead_notReady {k : Nat} (r : CfgReg) {s : State} (h : cfgReady s k = false) : cfgRead s k r = none := by
  simp only [cfgRead, h, Bool.not_false, if_true]
/-- A port whose configuration space does not answer takes nothing. -/
theorem cfgWrite_notReady {k : Nat} {r : CfgReg} {v : Word} {m : BitVec 4} {s : State} (h : cfgReady s k = false) :
    cfgWrite k r v m s = s := by
  simp only [cfgWrite, cfgRead_notReady r h]
/-- Neither does a port without a link. -/
theorem cfgWrite_noLink {k : Nat} {r : CfgReg} {v : Word} {m : BitVec 4} {s : State} (h : (link s k).up = false) :
    cfgWrite k r v m s = s := by
  unfold cfgWrite
  cases cfgRead s k r with
  | none => rfl
  | some old => simp only [h, Bool.not_false, if_true]
/-- The power state takes D0 and D3hot; a write of another one changes nothing. -/
theorem cfgWrite_power {k : Nat} {v old : Word} {m : BitVec 4} {s : State} (hr : cfgRead s k .powerControl = some old)
    (hu : (link s k).up = true) : cfgWrite k .powerControl v m s =
      if fld (blend old v (byteMask m)) 1 0 = 0 then signalPending k (modLink k (fun l => { l with d3 := false }) s)
      else if fld (blend old v (byteMask m)) 1 0 = 3 then modLink k (fun l => { l with d3 := true }) s
      else s := by
  simp only [cfgWrite, hr, hu, Bool.not_true, Bool.false_eq_true, if_false]
/-- The registers of the configuration space that a host may only read. -/
theorem cfgWrite_readOnly {k : Nat} {r : CfgReg} {v : Word} {m : BitVec 4} {s : State}
    (h : [CfgReg.ident, .classCode, .deviceCap, .linkCap, .linkCap2, .powerCap, .msixTable, .msixPba, .aer].contains r = true) :
    cfgWrite k r v m s = s := by
  unfold cfgWrite
  cases cfgRead s k r with
  | none => rfl
  | some old =>
    dsimp only
    split
    · rfl
    · revert h; cases r <;> simp

/-- Settles O9: the bus rows by `busWrite_ok`, the stored bits by those of `mergeReg`, BAR0 by its regions, and
configuration space by its registers. -/
theorem registerWriteStores : Obligations.RegisterWriteStores := by
  unfold Obligations.RegisterWriteStores
  refine ⟨?bus, ?w1c, ?port, ?bitW1c, ?bitKept, ?ring, ?queue, ?queueUndefined, ?msix, ?undefined, ?portOff, ?command, ?bar0Lo, ?bar0Hi,
    ?bar2Lo, ?bar2Hi, ?deviceControl, ?otherPower, ?msixControl, ?power0, ?power3, ?readOnly, ?noAnswer⟩
  case bus => exact fun q k v m s h hl ha => congrArg Host.Outcome.next (targetWrite_ici h hl ha)
  case w1c => exact fun q k v s h hl ha => congrArg Host.Outcome.next (targetWrite_ici h hl ha)
  case port => intro port off v m s h h1 h2; rw [exec_bar0Write h, bar0Write_port h1 h2]
  case bitW1c => exact fun k old v m i h hi => mergeReg_w1c h hi
  case bitKept => exact fun k old v m i h1 h2 => mergeReg_kept h1 h2
  case ring => intro port off v m s h h1 _; rw [exec_bar0Write h, bar0Write_ring h1]; rfl
  case queue => intro port off v m s h h1 h2 h3 h4 hf; rw [exec_bar0Write h, bar0Write_queue h1 h2 h3 h4, if_pos hf]
  case queueUndefined =>
    intro port off v m s h h1 h2 h3 h4 hf
    rw [exec_bar0Write h, bar0Write_queue h1 h2 h3 h4, if_neg (Bool.eq_false_iff.mp hf)]
  case msix => intro port off v m s h h1 h2; rw [exec_bar0Write h, bar0Write_msix h1 h2]
  case undefined => intro port off v m s h h1 h2; rw [exec_bar0Write h, bar0Write_undefined h1 h2]
  case portOff => exact fun port off v m s h => congrArg Host.Outcome.next (if_neg (Bool.eq_false_iff.mp h))
  case command | bar0Lo | bar0Hi | bar2Lo | bar2Hi | deviceControl | msixControl =>
    intro port v old m s hl hu hr
    simp only [exec_cfgWrite hl, cfgWrite, hr, hu, Bool.not_true, Bool.false_eq_true, if_false]
  case otherPower => intro port v old m s hl hu hr h0 h3; rw [exec_cfgWrite hl, cfgWrite_power hr hu, if_neg h0, if_neg h3]
  case power0 => intro port v old m s hl hu hr h0; rw [exec_cfgWrite hl, cfgWrite_power hr hu, if_pos h0]
  case power3 => intro port v old m s hl hu hr h3; rw [exec_cfgWrite hl, cfgWrite_power hr hu, if_neg (by rw [h3]; decide), if_pos h3]
  case readOnly => intro port r v m s hl hr; rw [exec_cfgWrite hl, cfgWrite_readOnly hr]
  case noAnswer =>
    intro port r v m s hl h
    rw [exec_cfgWrite hl]
    rcases h with hready | hup
    · rw [cfgWrite_notReady hready]
    · rw [cfgWrite_noLink hup]


/-! ## Writes that only store, and staged registers (R22, R180, R235) -/

/-- A register without an action of its own stores what its field table leaves, and nothing else happens. -/
theorem applyReg_plain {p : Nat} {k : RKey} {v m : Word} {s : State} (h : noAction k = true) :
    applyReg p k v m s = wr k (mergeReg k (rd s k) v m) s := by
  obtain ⟨b, i, o⟩ := k
  simp only [noAction, Bool.and_eq_true, Bool.not_eq_true', Bool.and_eq_false_iff, beq_eq_false_iff_ne, decide_eq_false_iff_not] at h
  obtain ⟨⟨⟨hf, hblk⟩, hnet⟩, hoff⟩ := h
  have hsome : ¬ (fieldsOf b o).isNone = true := by simpa [Option.isSome_iff_ne_none] using hf
  unfold applyReg
  dsimp only
  rw [if_neg hsome]
  split
  -- FAB registers outside the nets, and every register that no earlier pattern names
  case h_29 => rw [if_neg (by simp only [ne_eq, not_true, false_or] at hnet; omega)]
  case h_31 => rfl
  -- the registers with an action, which `noAction` shuts out
  all_goals simp at hblk hoff
/-- A write of a staged register of the filter chain or its thresholds stages it, then stores it. -/
theorem applyReg_staged {p : Nat} {k : RKey} {v m : Word} {s : State} (hb : (k.blk == .fil && k.off != 4 || k.blk == .thr) = true)
    (hs : (filStaged k.i).contains k = true) (hf : (fieldsOf k.blk k.off).isNone = false) :
    applyReg p k v m s = wr k (mergeReg k (rd s k) v m) (stageHold k.i k s) := by
  obtain ⟨b, i, o⟩ := k
  unfold applyReg
  rw [if_neg (Bool.eq_false_iff.mp hf)]
  simp only [Bool.or_eq_true, Bool.and_eq_true, beq_iff_eq, bne_iff_ne] at hb
  rcases hb with ⟨rfl, ho⟩ | rfl
  · -- of the patterns only FIL's are left, and `ho` shuts out HOLD
    split <;> simp_all [fk]
  · exact congrArg (wr _ _) (if_pos hs)
/-- A write of HOLD goes to `setHold`. -/
theorem applyReg_hold (p n : Nat) (v m : Word) (s : State) :
    applyReg p (fk n 4) v m s = setHold n (mergeReg (fk n 4) (rd s (fk n 4)) v m) s := by
  unfold applyReg
  rw [if_neg (by simp only [fk]; decide)]
  rfl

/-- Settles O58: `applyReg_plain` gives the frame of a plain write; staging is `stageHold` and `setHold`, by HOLD as it
stands and as it is written. -/
theorem registerWritesFrame : Obligations.RegisterWritesFrame := by
  unfold Obligations.RegisterWritesFrame
  refine ⟨?plain, ?staged, ?now, ?waits, ?again, ?holdKept, ?holdSet⟩
  case plain =>
    intro q k v m s hw hl ha hn
    refine ⟨emit (.status q.val 0) (wr k (mergeReg k (rd s k) v (byteMask m)) s), ?_, rd_wr_same .., fun k' hk => rd_wr_ne s _ hk, rfl⟩
    exact congrArg Host.Outcome.next ((targetWrite_ici hw hl ha).trans (by rw [applyReg_plain hn]; rfl))
  case staged =>
    intro p n k v m s hb hi hs hf
    rw [← hi] at hs ⊢
    refine ⟨applyReg_staged hb hs hf, fun x => ?_⟩
    rw [applyReg_staged hb hs hf]
    exact act_stageHold
  case now => exact fun n k s h => stageHold_now h
  case waits => exact fun n k s h g => stageHold_wait h g
  case again => exact fun n k s h g => stageHold_again h g
  case holdKept => intro p n v m s h; rw [applyReg_hold, setHold, h]; rfl
  case holdSet => intro p n v m s h; rw [applyReg_hold, setHold, h]; rfl

/-! ## Reads with an effect (R22, R47, R145, R250) -/

/-- A register outside DEV with a field that a read returns to the present value (RC), and which its address names. -/
def isPeakReg (k : RKey) : Bool :=
  decide (k.addr < 2 ^ 32) && decide (k.addr % 4 = 0) && decide (locate k.addr = .reg k) && accMask [.rc] k != 0 &&
    decide (k.blk ≠ .dev) && (fieldsOf k.blk k.off).isSome
theorem isPeakReg_tileFill (t : Fin 8) : isPeakReg (tk t.val 0x140) = true := by revert t; decide
theorem isPeakReg_tileSpeed (t : Fin 8) : isPeakReg (tk t.val 0x10) = true := by revert t; decide
theorem isPeakReg_paqFill : isPeakReg (pqk 0xC) = true := by decide
theorem isPeakReg_insertFill : isPeakReg (pqk 0x10) = true := by decide
theorem isPeakReg_streamFill (k : Fin 8) : isPeakReg (stk k.val 0x20) = true := by revert k; decide
theorem isPeakReg_fireflyFill (n : Fin 96) : isPeakReg (ffk n.val 0x10) = true := by revert n; decide
theorem isPeakReg_mover (m : Fin 4) : isPeakReg ⟨.mover, m.val, 0⟩ = true := by revert m; decide

/-- A read of a register that neither latches nor selects: what it shows, and its peak returned to the present value. -/
theorem readReg_peak {w : Who} {k : RKey} {s : State} (hw : w.mode = 0) (hk : isPeakReg k = true) (hl : ∀ t, latchValue t k = none) :
    readReg w k s = ((viewRaw w k s).1 &&& readMask k, peakRead k (viewRaw w k s).2) := by
  simp only [isPeakReg, Bool.and_eq_true, decide_eq_true_eq] at hk
  obtain ⟨⟨_, hdev⟩, hf⟩ := hk
  have hv : view w k s = ((viewRaw w k s).1 &&& readMask k, (viewRaw w k s).2) := by
    have hn : ¬ (fieldsOf k.blk k.off).isNone = true := by simpa [Option.isSome_iff_ne_none] using hf
    rw [view, if_neg hn]
  simp only [readReg, hv, hw, latchRead, hl, selectRead, hdev, false_and, if_true, if_false, zero_ne_one]
/-- The row of such a read, from the word `x` that the register shows, the state `t` in which it was looked at, and the
state `u` with the peak returned. -/
theorem exec_peakRead {q : Fin 65} {k : RKey} {s t u : State} {x : Word} (hs : serving s = true) (hb : bound s q.val = true)
    (hm : mayRead s ⟨partOf s q.val, q.val, 0⟩ (.reg k) = true) (hk : isPeakReg k = true) (hl : ∀ t, latchValue t k = none)
    (hx : viewRaw ⟨partOf s q.val, q.val, 0⟩ k s = (x, t)) (hu : peakRead k t = u) :
    exec (.peakRead q (BitVec.ofNat 32 k.addr)) s = .next (finish (emit (.data [x &&& readMask k]) u)) := by
  have hr := readReg_peak (w := ⟨partOf s q.val, q.val, 0⟩) (s := s) rfl hk hl
  simp only [isPeakReg, Bool.and_eq_true, decide_eq_true_eq, bne_iff_ne] at hk
  obtain ⟨⟨⟨⟨⟨ha, h4⟩, hloc⟩, hrc⟩, _⟩, _⟩ := hk
  have hw : (BitVec.ofNat 32 k.addr).toNat = k.addr := by rw [BitVec.toNat_ofNat]; exact Nat.mod_eq_of_lt ha
  have hbad : badAddr k.addr = false := by simp [badAddr, h4, hloc]
  refine congrArg Host.Outcome.next ?_
  rw [hw, peakRowRead, hloc]
  dsimp only
  rw [if_pos hrc, busRead_ok hs hb ha hbad (by rwa [hloc]), readWord, hloc]
  dsimp only
  rw [hr, hx, hu]

theorem locate_dev {x : Nat} (h : x < 0x10000) : locate x = .reg ⟨.dev, 0, x⟩ := by
  rw [locate, if_pos (by omega), Nat.div_eq_of_lt h, Nat.mod_eq_of_lt h]; rfl
/-- A device register but RSTCUT is any partition's to read (R86). -/
theorem mayRead_dev (s : State) (w : Who) {x : Nat} (h : x ≠ 0x108) : mayRead s w (.reg ⟨.dev, 0, x⟩) = true := by
  have ht : tenantReads s w.part ⟨.dev, 0, x⟩ = true := Bool.or_eq_true _ _ ▸ Or.inr (bne_iff_ne.mpr h)
  rw [mayRead, ht, Bool.or_true]
/-- A row that reads a latching _LO register. -/
theorem busRead_latch {q a : Nat} {k : RKey} {x : Word × Word} {s : State} (hs : serving s = true) (hb : bound s q = true) (ha : a < 2 ^ 32)
    (h4 : a % 4 = 0) (hloc : locate a = .reg k) (hx : latchValue s k = some x) (hf : (fieldsOf k.blk k.off).isSome = true)
    (hm : mayRead s ⟨partOf s q, q, 0⟩ (.reg k) = true) :
    busRead q a s = finish (emit (.data [x.1 &&& readMask k]) (setLatch ⟨partOf s q, q, 0⟩ k x.2 s)) := by
  have hbad : badAddr a = false := by simp [badAddr, h4, hloc]
  rw [busRead_ok hs hb ha hbad (by rwa [hloc]), readWord, hloc]
  dsimp only
  rw [readReg_latch hx hf]

theorem RRow.has_iff {r : RRow} {off : Nat} :
    r.has off = true ↔ r.off ≤ off ∧ (off - r.off) % r.stride = 0 ∧ (off - r.off) / r.stride < r.n := by
  simp [RRow.has, and_assoc]
/-- The response descriptors hold registers at every word. -/
theorem fieldsOf_rdesc {x : Nat} (h1 : 0x4000 ≤ x) (h2 : x < 0x8000) (h4 : x % 4 = 0) : (fieldsOf .dev x).isSome = true := by
  rw [fieldsOf, Option.isSome_map, List.find?_isSome]
  refine ⟨rn 0x4000 4 4096 [fd .rc 31 0 0], by simp [rows, rowsDev], ?_⟩
  exact RRow.has_iff.mpr ⟨h1, show (x - 0x4000) % 4 = 0 by omega, show (x - 0x4000) / 4 < 4096 by omega⟩
/-- Word 0 of descriptor `i` reads as the ROM gives it, and its read selects response `i` for the reader. -/
theorem readReg_rdesc {w : Who} {i : Nat} {s : State} (hw : w.mode = 0) (hi : i < 512) : readReg w ⟨.dev, 0, 0x4000 + 32 * i⟩ s =
    (romDesc i 0 &&& readMask ⟨.dev, 0, 0x4000 + 32 * i⟩, { s with sel := nput 0 s.sel w.id i }) := by
  have hf : ¬ (fieldsOf .dev (0x4000 + 32 * i)).isNone = true := by
    simpa [Option.isSome_iff_ne_none] using fieldsOf_rdesc (x := 0x4000 + 32 * i) (by omega) (by omega) (by omega)
  have hl : latchValue s ⟨.dev, 0, 0x4000 + 32 * i⟩ = none := by
    unfold latchValue; dsimp only; split <;> simp_all; omega
  have hh : latchLo ⟨.dev, 0, 0x4000 + 32 * i⟩ = none := by
    unfold latchLo; dsimp only; split <;> simp_all; omega
  have hp : viewPure w ⟨.dev, 0, 0x4000 + 32 * i⟩ s = romDesc i 0 := by
    unfold viewPure
    rw [hl, hh]
    dsimp only
    rw [if_neg (by omega), if_pos (by omega)]
    congr 1 <;> omega
  have hv : view w ⟨.dev, 0, 0x4000 + 32 * i⟩ s = (romDesc i 0 &&& readMask ⟨.dev, 0, 0x4000 + 32 * i⟩, s) := by
    rw [view, if_neg hf, show viewRaw w ⟨.dev, 0, 0x4000 + 32 * i⟩ s = (viewPure w ⟨.dev, 0, 0x4000 + 32 * i⟩ s, s) from rfl, hp]
  have hs : selectRead w ⟨.dev, 0, 0x4000 + 32 * i⟩ s = { s with sel := nput 0 s.sel w.id i } := by
    rw [selectRead, if_pos ⟨rfl, by dsimp only; omega, by dsimp only; omega, by dsimp only; omega⟩]
    dsimp only
    rw [Nat.add_sub_cancel_left, Nat.mul_div_cancel_left _ (by omega)]
  have hk : peakRead ⟨.dev, 0, 0x4000 + 32 * i⟩ s = s := rfl
  simp only [readReg, hv, hw, zero_ne_one, if_false, if_true, hk, latchRead, hl, hs]

/-- An idle mover shows its peak as it stands. -/
theorem viewRaw_moverIdle {w : Who} {m : Nat} {s : State} (h : vget s.movers m = none) :
    viewRaw w ⟨.mover, m, 0⟩ s = (setFld (rd s ⟨.mover, m, 0⟩) 6 0 0, s) := by
  simp only [viewRaw, viewPure, latchValue, latchLo, h, Option.isSome_none, Bool.false_eq_true, if_false]
/-- The peak of a busy mover is open upwards (log entry 121). -/
theorem viewRaw_moverBusy {w : Who} {m c : Nat} {s : State} (h : vget s.movers m = some c) : viewRaw w ⟨.mover, m, 0⟩ s =
    (setFld (setFld (rd s ⟨.mover, m, 0⟩) 6 0 (64 + c)) 25 16 (max (fld (setFld (rd s ⟨.mover, m, 0⟩) 6 0 (64 + c)) 25 16)
      ((takeFree s).1.toNat % 513)), (takeFree s).2) := by
  simp only [viewRaw, viewPure, latchValue, latchLo, h, Option.isSome_some, if_true]
theorem peakRead_moverIdle {m : Nat} {s : State} (h : vget s.movers m = none) :
    peakRead ⟨.mover, m, 0⟩ s = setF ⟨.mover, m, 0⟩ 25 16 0 s := by
  simp only [peakRead, h, Option.isSome_none, Bool.false_eq_true, if_false]
theorem peakRead_moverBusy {m c : Nat} {s : State} (h : vget s.movers m = some c) :
    peakRead ⟨.mover, m, 0⟩ s = setF ⟨.mover, m, 0⟩ 25 16 ((takeFree s).1.toNat % 513) (takeFree s).2 := by
  simp only [peakRead, h, Option.isSome_some, if_true]

/-- Settles O10: latching reads by `busRead_latch`, reads with a peak by `exec_peakRead`, descriptors by `readReg_rdesc`. -/
theorem registerReadsReturn : Obligations.RegisterReadsReturn := by
  unfold Obligations.RegisterReadsReturn
  refine ⟨?timeBase, ?latched, ?descriptor, ?tileFill, ?tileSpeed, ?paqFill, ?insertFill, ?streamFill, ?fireflyFill, ?moverIdle, ?moverBusy⟩
  case timeBase =>
    intro q s hs hb
    have hmask : lo32 s.tb &&& readMask ⟨.dev, 0, 0x10⟩ = lo32 s.tb := by
      have : readMask ⟨.dev, 0, 0x10⟩ = BitVec.allOnes 32 := by decide
      rw [this, BitVec.and_allOnes]
    have hr := busRead_latch (k := ⟨.dev, 0, 0x10⟩) hs hb (by decide) (by decide) (locate_dev (by decide)) rfl (by decide)
      (mayRead_dev s _ (by decide))
    rw [hmask] at hr
    exact congrArg Host.Outcome.next hr
  case latched =>
    intro q addr k x s hs hb h4 hloc hx hf hm
    refine congrArg Host.Outcome.next ?_
    rw [latchRowRead, hloc]
    dsimp only
    rw [hx, if_pos Option.isSome_some, busRead_latch hs hb addr.isLt h4 hloc hx hf hm]
  case descriptor =>
    intro q i s hs hb
    have hi := i.isLt
    have hloc : locate (0x4000 + 32 * i.val) = .reg ⟨.dev, 0, 0x4000 + 32 * i.val⟩ := locate_dev (by omega)
    have hbad : badAddr (0x4000 + 32 * i.val) = false := by
      have : (0x4000 + 32 * i.val) % 4 = 0 := by omega
      simp [badAddr, this, hloc]
    refine congrArg Host.Outcome.next ?_
    rw [busRead_ok hs hb (by omega) hbad (by rw [hloc]; exact mayRead_dev s _ (by omega)), readWord, hloc]
    dsimp only
    rw [readReg_rdesc rfl hi]
  case tileFill => exact fun q t s hs hb hm => exec_peakRead hs hb hm (isPeakReg_tileFill t) (fun _ => rfl) rfl rfl
  case tileSpeed => exact fun q t s hs hb hm => exec_peakRead hs hb hm (isPeakReg_tileSpeed t) (fun _ => rfl) rfl rfl
  case paqFill => exact fun q s hs hb hm => exec_peakRead hs hb hm isPeakReg_paqFill (fun _ => rfl) rfl rfl
  case insertFill => exact fun q s hs hb hm => exec_peakRead hs hb hm isPeakReg_insertFill (fun _ => rfl) rfl rfl
  case streamFill => exact fun q k s hs hb hm => exec_peakRead hs hb hm (isPeakReg_streamFill k) (fun _ => rfl) rfl rfl
  case fireflyFill => exact fun q n s hs hb hm => exec_peakRead hs hb hm (isPeakReg_fireflyFill n) (fun _ => rfl) rfl rfl
  case moverIdle =>
    exact fun q m s hs hb hm h => exec_peakRead hs hb hm (isPeakReg_mover m) (fun _ => rfl) (viewRaw_moverIdle h) (peakRead_moverIdle h)
  case moverBusy =>
    exact fun q m c s hs hb hm h => exec_peakRead hs hb hm (isPeakReg_mover m) (fun _ => rfl) (viewRaw_moverBusy h)
      (peakRead_moverBusy (s := (takeFree s).2) h)

/-! ## Memories and canonical forms (R9, R48, R429) -/

theorem wordBytes_length (w : Word) : (wordBytes w).length = 4 := rfl
/-- Byte `i` of a word is its bits [8i+7:8i]. -/
theorem wordBytes_get {w : Word} {i : Nat} (h : i < (wordBytes w).length) : (wordBytes w)[i] = (w >>> (8 * i)).setWidth 8 := by
  have h4 : i < 4 := h
  interval_cases i <;> rfl
theorem flatMap_wordBytes_length (ws : List Word) : (ws.flatMap wordBytes).length = 4 * ws.length := by
  induction ws with
  | nil => rfl
  | cons w ws ih => simp only [List.flatMap_cons, List.length_append, wordBytes_length, ih, List.length_cons]; omega
/-- The bytes of a word that were written at an address read back as the word. -/
theorem memRds_wordBytes (d : Nat → Byte) (m : List Host.Cell) (off : Nat) (w : Word) :
    memRds d (memWrs d m off (wordBytes w)) off 4 = wordBytes w := by
  refine List.ext_getElem (by simp [memRds, wordBytes_length]) fun i h1 h2 => ?_
  simp only [memRds, List.getElem_map, List.getElem_range]
  exact memRd_memWrs_in d _ m off i h2
/-- Byte `i` of a word that was written at an address. -/
theorem memRd_wordBytes (d : Nat → Byte) (m : List Host.Cell) (off : Nat) {i : Nat} (w : Word) (h : i < 4) :
    memRd d (memWrs d m off (wordBytes w)) (off + i) = (w >>> (8 * i)).setWidth 8 :=
  (memRd_memWrs_in d (wordBytes w) m off i h).trans (wordBytes_get h)
theorem putMemW_one (off : Nat) (w : Word) (s : State) : putMemW off [w] s = putMem off (wordBytes w) s := by
  rw [putMemW, List.flatMap_cons, List.flatMap_nil, List.append_nil]
theorem putNvmW_one (off : Nat) (w : Word) (s : State) : putNvmW off [w] s = { s with nvm := memWrs nvmDflt s.nvm off (wordBytes w) } := by
  rw [putNvmW, List.flatMap_cons, List.flatMap_nil, List.append_nil]
/-- Counting keeps the canonical form of the ledger. -/
theorem ledAdd_wf {s : State} (c i t n : Nat) (h : spWf id (fun _ => 0) s.led = true) : spWf id (fun _ => 0) (ledAdd c i t n s).led = true := by
  unfold ledAdd
  split
  · exact h
  · exact spWf_spPut Function.injective_id _ _ _ h
theorem ledSub_wf {s : State} (c i t n : Nat) (h : spWf id (fun _ => 0) s.led = true) : spWf id (fun _ => 0) (ledSub c i t n s).led = true := by
  unfold ledSub
  split
  · exact h
  · exact spWf_spPut Function.injective_id _ _ _ h

/-- Settles O59: the laws of byte memories and of the sparse maps, for each of the memories. -/
theorem memoryHoldsWhatIsWritten : Obligations.MemoryHoldsWhatIsWritten := by
  unfold Obligations.MemoryHoldsWhatIsWritten
  refine ⟨?byteIn, ?byteOut, ?memWf, ?nvmWf, ?wordBack, ?wordByte, ?wordOut, ?nvmByte, ?nvmBack, ?nvmOut, ?frame, ?regs, ?ledger⟩
  case byteIn => intro s off i bs h; rw [putMem_byte_inside s off bs i h, List.getD_eq_getElem _ _ h]
  case byteOut => exact fun s off x bs h => putMem_byte_outside s off bs x h
  case memWf => exact fun s off bs h => ⟨putMem_wf s off bs h, zeroMem_wf s off _ h⟩
  case nvmWf => exact fun s off ws h => putNvmW_wf s off ws h
  case wordBack => intro s off w; rw [putMemW_one, memW, putMem, memRds_wordBytes, bytesWord_wordBytes]
  case wordByte => intro s off i w h; rw [putMemW_one]; exact memRd_wordBytes _ _ _ w h
  case wordOut => intro s off x w h; rw [putMemW_one, putMem_byte_outside s off (wordBytes w) x h]
  case nvmByte => intro s off i w h; rw [putNvmW_one]; exact memRd_wordBytes _ _ _ w h
  case nvmBack => intro s off w; rw [putNvmW_one, nvmW, memRds_wordBytes, bytesWord_wordBytes]
  case nvmOut => intro s off x ws h; exact memRd_memWrs_out _ _ _ _ _ (by rwa [flatMap_wordBytes_length])
  case frame => exact fun s off ws => ⟨rfl, rfl⟩
  case regs => exact fun s k v hk hr ha => ⟨Regs.wf_put v hk hr, Regs.wf_put v hk ha, rfl, rfl⟩
  case ledger => exact fun s c i t n h => ⟨ledAdd_wf c i t n h, ledSub_wf c i t n h⟩

/-! ## The state at power-on reset (R24, R46, R88, R104, R419, R420) -/

/-- Every register reads its reset value. -/
@[simp] theorem rd_reset (k : RKey) : rd State.reset k = rstVal k := rfl
theorem bit_one (i : Nat) : bit 1 i = decide (i = 0) := by
  cases i with
  | zero => rfl
  | succ i => simp [bit, BitVec.getLsbD_one]
/-- Every use set holds P0 alone: the axes' and that of the Swarm link. -/
theorem inUse_reset_axis {a : Nat} (h : a < 8) (p : Nat) : inUse State.reset 6 a p = decide (p = 0) := by
  have hw : rstVal ⟨.part, 0, 0x100 + 4 * a⟩ = 1 := by interval_cases a <;> decide
  rw [inUse, if_pos rfl, rb, rd_reset, hw, bit_one]
theorem inUse_reset_swarm (i p : Nat) : inUse State.reset 0xF i p = decide (p = 0) := by
  have hw : rstVal ⟨.part, 0, 0x120⟩ = 1 := by decide
  rw [inUse, if_neg (by decide), rb, rd_reset, hw, bit_one]
theorem reset_sound : State.reset.Sound := ⟨rfl, nofun⟩
theorem reset_settled : State.reset.Settled := by
  refine ⟨rfl, nofun, nofun, fun k hk => ?_, nofun⟩
  interval_cases k <;> rfl

/-- Settles O53: the reset state's fields, its reset values, and the two use sets. -/
theorem resetState : Obligations.ResetState := by
  unfold Obligations.ResetState
  refine ⟨fun c i j t a p k ha => ?_, by decide, by decide, rfl, reset_sound, reset_settled, rfl, rfl⟩
  refine ⟨rfl, rfl, rfl, rfl, rd_reset k, ?_, ?_⟩
  · rw [inUse_reset_axis ha]; exact decide_eq_decide.mpr Fin.val_eq_zero_iff
  · rw [inUse_reset_swarm]; exact decide_eq_decide.mpr Fin.val_eq_zero_iff

end Sys2Proof.Machine
end

section
/-! PROOFS. Interrupt lines, the time-base pulse, the tile sample PLLs, the outputs of a video port and the speed sensor (R43, R44,
R165, R172, R173, R398–R401), and the step of an empty queue (R46, R70, R76, R95). -/

namespace Sys2Proof.Machine

/-- An event that a device which is alive takes: what its unit does, and the end of the step. -/
theorem next_event_live {f : State → State} {s t : State} (h : live s = true) (hf : f s = t) :
    (.next (event f s) : Host.Outcome State Fault Refusal) = .next (finish t) :=
  congrArg Host.Outcome.next (hf ▸ event_live h)

/-! ## VSP and VCK at their balls (R165) -/

section Pads
variable {h n : Nat} {s : State}

theorem padOf_dark {f : Nat → Pad} {idle : Pad} (hd : s.rails.getLsbD (h / 12) = false ∨ s.por = true) :
    padOf s h f idle = .open_ := if_pos (by rcases hd with hd | hd <;> simp [hd])
/-- After the NVM load an output of a supplied port is what its serving channel makes of it. -/
theorem padOf_served {f : Nat → Pad} {idle : Pad} (hr : s.rails.getLsbD (h / 12) = true) (hp : s.por = false) (h1 : s.step1 = true)
    (hc : chanOf s h = some n) : padOf s h f idle = f n := by
  simp only [padOf, hr, hp, h1, hc, Bool.not_true, Bool.or_self, Bool.false_eq_true, if_false]
/-- VCK of a channel stands still while the channel or the output is not enabled or the PLL is not locked. -/
theorem vckRuns_off (ho : rb s (vk n 0) 0 = false ∨ rb s (vk n 0) 4 = false ∨ rb s (tk (n / 12) 4) 0 = false) : vckRuns s n = false := by
  unfold vckRuns
  rcases ho with ho | ho | ho <;> simp only [ho, Bool.false_and, Bool.and_false]
theorem vspPad_rests (hr : s.rails.getLsbD (h / 12) = true) (hp : s.por = false) (h1 : s.step1 = true) (hc : chanOf s h = some n)
    (ho : rb s (vk n 0) 0 = false ∨ rb s (vk n 0) 5 = false ∨ rb s (tk (h / 12) 4) 0 = false) :
    vspPad s h = .level (rb s (vk n 0) 6) := by
  rw [vspPad, padOf_served hr hp h1 hc]
  exact if_pos (by rcases ho with ho | ho | ho <;> simp [ho])
theorem vckPad_rests (hr : s.rails.getLsbD (h / 12) = true) (hp : s.por = false) (h1 : s.step1 = true) (hc : chanOf s h = some n)
    (ho : rb s (vk n 0) 0 = false ∨ rb s (vk n 0) 4 = false ∨ rb s (tk (n / 12) 4) 0 = false) : vckPad s h = .level false := by
  rw [vckPad, padOf_served hr hp h1 hc, vckRuns_off ho]
  rfl

end Pads

/-! ## Interrupt lines and the time-base pulse (R398, R400, R401, R441) -/

section Pins
variable {k : Nat} {level : Bool} {s : State}

theorem irqRow_supplied (hr : s.rails.getLsbD (16 + irqPin s k / 32) = true) : irqRow k level s = irqEdge k level s := if_pos hr
theorem irqRow_dark (hr : s.rails.getLsbD (16 + irqPin s k / 32) = false) : irqRow k level s = s := if_neg (Bool.eq_false_iff.mp hr)
/-- An edge of a kind that MODE does not choose brings the new level alone. -/
theorem irqEdge_unwatched (hm : rb s (iqk k 0) (if level then 16 else 17) = false) : irqEdge k level s = boardDrives k level s := by
  have hmode : rb (boardDrives k level s) (iqk k 0) (if level then 16 else 17) = false := hm
  simp only [irqEdge, hmode, Bool.not_false, Bool.or_true, if_true]
theorem tbPulse_passed (he : rb s tbpK 0 = true) (hp : s.tbpLast / 2 ^ rf s tbpK 12 8 < s.tb / 2 ^ rf s tbpK 12 8) :
    tbPulse s = { s with tbpEnd := some (s.tb + 10 * rf s tbpK 23 16), tbpLast := s.tb } := by
  simp only [tbPulse, he, hp, decide_true, Bool.and_self, if_true]
theorem tbPulseEnd_over {e : Nat} (he : s.tbpEnd = some e) (ht : e ≤ s.tb) : tbPulseEnd s = { s with tbpEnd := none } := by
  simp only [tbPulseEnd, he, ht, if_true]

end Pins

/-! ## The tile sample PLLs (R172, R173) -/

section Plls
variable {t : Nat} {s : State}

theorem pllLockRow_locks (hs : standby s = false) (hl : (rb s (tk t 0) 16 && !rb s (tk t 4) 0) = true) : pllLockRow t s =
    causeOff (tileSrc t 1) none (setB (tk t 4) 0 true (modTile t (fun x => { x with pllStart := none, lost := false }) s)) := by
  rw [pllLockRow, if_neg (Bool.eq_false_iff.mp hs), pllLock, if_pos hl]
theorem pllLockRow_standby (hs : standby s = true) : pllLockRow t s = s := if_pos hs
theorem pllLate_due {t0 : Nat} (hst : (tile s t).pllStart = some t0) (hon : rb s (tk t 0) 16 = true) (hl : rb s (tk t 4) 0 = false)
    (hd : t0 + 200000 ≤ s.tb) : pllLate t s = causeOn (tileSrc t 1) none (0x10 + t) 0 0 s := by
  simp only [pllLate, hst, hon, hl, hd, decide_true, Bool.not_false, Bool.and_self, if_true]
theorem pllLost_locked (hl : (rb s (tk t 0) 16 && rb s (tk t 4) 0) = true) : pllLost t s =
    forEach (tilePorts t) (fun n u => disarmChan n (modChan n (fun c => { c with line := c.line.map fun l => { l with marked := true } }) u))
      (causeOn (tileSrc t 1) none (0x10 + t) 0 0 (modTile t (fun x => { x with lost := true }) (setB (tk t 4) 2 true (pllClear t s)))) :=
  if_pos hl

end Plls

/-! ## The speed sensor (R43, R44) -/

section Speed
variable {t r : Nat} {s : State}

theorem speedRatio_sound (h : live s = true) (h1 : s.step1 = true) (hw : rf s (tk t 0x14) 15 0 ≤ r) :
    speedRatio t r s = causeOff (tileSrc t 0) none (speedStored t r s) := by
  rw [speedRatio_kept h h1, if_neg (Nat.not_lt.mpr hw)]
  rfl
theorem speedRatio_slow (h : live s = true) (h1 : s.step1 = true) (hw : r < rf s (tk t 0x14) 15 0) :
    speedRatio t r s = causeOn (tileSrc t 0) none (0x10 + t) 0 0 (speedStored t r s) := by
  rw [speedRatio_kept h h1, if_pos hw]
  rfl
/-- Before the NVM load ends nothing is measured. -/
theorem speedRatio_unloaded (h1 : s.step1 = false) : speedRatio t r s = s := if_pos (by rw [h1]; rfl)

end Speed

/-- Settles O43: the two balls by the state of their port, and each event by what its unit does. -/
theorem pinsAndClocks : Obligations.PinsAndClocks := by
  unfold Obligations.PinsAndClocks
  refine ⟨?padsDark, ?vspRests, ?vckRests, ?irqWatched, ?irqUnwatched, ?irqDark, ?pulse, ?pulseEnd, ?pllLocks, ?pllStandby, ?pllLate,
    ?calibrated, ?pllLost, ?speedSound, ?speedSlow, ?speedUnloaded⟩
  case padsDark => exact fun h s hd => ⟨padOf_dark hd, padOf_dark hd⟩
  case vspRests => exact fun h n s hr hp h1 hc ho => vspPad_rests hr hp h1 hc ho
  case vckRests => exact fun h n s hr hp h1 hc ho => vckPad_rests hr hp h1 hc ho
  case irqWatched => exact fun k level s h hr hs hm => next_event_live h ((irqRow_supplied hr).trans (irqEdge_on h hs hm))
  case irqUnwatched => exact fun k level s h hr hm => next_event_live h ((irqRow_supplied hr).trans (irqEdge_unwatched hm))
  case irqDark => exact fun k level s h hr => next_event_live h (irqRow_dark hr)
  case pulse => exact fun s h he hp => next_event_live h (tbPulse_passed he hp)
  case pulseEnd => exact fun e s h he ht => next_event_live h (tbPulseEnd_over he ht)
  case pllLocks => exact fun t s h hs hl => next_event_live h (pllLockRow_locks hs hl)
  case pllStandby => exact fun t s h hs => next_event_live h (pllLockRow_standby hs)
  case pllLate => exact fun t t0 s h hst hon hl hd => next_event_live h (pllLate_due hst hon hl hd)
  case calibrated => exact fun t s h hon hl => next_event_live h (tileCal_ok h hon hl)
  case pllLost => exact fun t s h hl => next_event_live h (pllLost_locked hl)
  case speedSound => exact fun t ratio s h h1 hw => next_event_live h (speedRatio_sound h h1 hw)
  case speedSlow => exact fun t ratio s h h1 hw => next_event_live h (speedRatio_slow h h1 hw)
  case speedUnloaded => exact fun t ratio s h h1 => next_event_live h (speedRatio_unloaded h1)

/-! ## The step of an empty queue (R46, R426) -/

/-- An empty queue lets a nanosecond pass. -/
theorem step_empty {s : State} (h : s.pending = []) : step s = .next (tick s) := by
  unfold step
  rw [h]
theorem tick_por {s : State} (h : s.por = true) : tick s = s := if_pos h
/-- After a power fail the time base goes on alone. -/
theorem tick_pfail {s : State} (hp : s.por = false) (hf : s.pfail = true) : tick s = { s with tb := (s.tb + 1) % 2 ^ 64 } := by
  rw [tick, if_neg (Bool.eq_false_iff.mp hp), if_pos hf]
theorem tick_up {s : State} (hp : s.por = false) (hf : s.pfail = false) : tick s =
    finish (stallTick (fabDrives (swarmDrain (supSettle (countDown (writerTick { s with tb := (s.tb + 1) % 2 ^ 64 })))))) := by
  rw [tick, if_neg (Bool.eq_false_iff.mp hp), if_neg (Bool.eq_false_iff.mp hf)]

/-- Settles O52: the step of an empty queue is a tick, told apart by power-on reset and power fail. -/
theorem emptyQueueTicks : Obligations.EmptyQueueTicks := by
  unfold Obligations.EmptyQueueTicks
  refine ⟨?up, ?pfail, ?por⟩
  case up => intro s he hp hf; rw [step_empty he, tick_up hp hf]
  case pfail => intro s he hp hf; rw [step_empty he, tick_pfail hp hf]
  case por => intro s he hp; rw [step_empty he, tick_por hp]

end Sys2Proof.Machine
end

section
/-! PROOFS. The command interface: what taking a packet and replying to it change (R60, R66, R72, R111), packets that make no
command (R61, R69, R70), NOP, IDENT and TIME (R2, R47, R74), the commands of partitions (R68, R77, R87–R93, R101), doorbells
and queue control (R62, R65), and the processor, its ports and its links (R55–R59, R64, R76–R85, R97). -/

namespace Sys2Proof.Machine

/-! ## The end of a step, and the frame of a reply (R60, R66, R72, R78, R85, R97, R111, R201, R406) -/

/-- Settles O56: `finish_settled`, through each piece of work that ends a step. -/
theorem settledStatesStay : Obligations.SettledStatesStay := fun _ h => finish_settled h

section Replies
variable {q len st tag : Nat} {notify : Bool} {pay : List Word} {s : State}

/-- Taking a packet moves CMD_HEAD past it, round the ring. -/
theorem rf_take_head : rf (take q len s) (qk q 0x10) 9 0 = (rf s (qk q 0x10) 9 0 + 1 + len) % 1024 := by
  have hrd : rd (take q len s) (qk q 0x10) =
      rd (incR (qk q 0x24) (setF (qk q 0x10) 9 0 ((rf s (qk q 0x10) 9 0 + 1 + len) % 1024) s)) (qk q 0x10) :=
    (rd_ledAdd 7 q 4 1 _ _).trans (rd_ledAdd 7 q 0 1 _ _)
  rw [rf, hrd, incR, rd_wr_ne _ _ (by simp [qk]), setF, rd_wr_same]
  exact fld_setFld_same _ _ _ _ (by decide) (by decide) (Nat.mod_lt _ (by decide))
/-- A first reply writes RPL_HEAD or LOST of its queue and the pending vectors of its port, no other register. -/
theorem rd_firstReply {k : RKey} (h1 : k ≠ qk q 0x1C) (h2 : k ≠ qk q 0x30) (h3 : k ≠ bpk (q / 8) 0x9800) :
    rd (firstReply q st tag notify pay s) k = rd s k := by
  rw [firstReply, rd_ledSub, rd_ledAdd, rd_putReply _ _ _ _ _ _ _ h1 h2 h3]
/-- Beside the turn, a packet taken and replied to changes registers, the ledger, the AFTER_RESTART flags, the reply ring
of queue 64 and the outputs. -/
theorem firstReply_take_eq : ∃ r l a m o, firstReply q st tag notify pay (take q len s) =
    { s with regs := r, led := l, rr := (q + 1) % 65, aftRst := a, rpl := m, out := o } := by
  rw [firstReply_eq, putReply_eq, take_eq]
  exact ⟨_, _, _, _, _, rfl⟩

variable {c i n : Nat} (hq : q < 65) (hi : i < 4096) (hn : n < 16) (h : c ≠ 7 ∨ i ≠ q)
include hq hi hn h

/-- A term of another account of the ledger is none of queue `q`'s commands. -/
theorem ledK_ne_command {t : Nat} (ht : t < 16) : c * 65536 + i * 16 + n ≠ 7 * 65536 + q * 16 + t :=
  ledK_ne hn ht hi (by omega) (by omega)
theorem ledGet_take_ne : ledGet (take q len s) c i n = ledGet s c i n := by
  have hled : ledGet (take q len s) c i n = ledGet (ledAdd 7 q 4 1 (ledAdd 7 q 0 1 (incR (qk q 0x24)
    (setF (qk q 0x10) 9 0 ((rf s (qk q 0x10) 9 0 + 1 + len) % 1024) s)))) c i n := rfl
  rw [hled, ledGet_ledAdd_ne _ (ledK_ne_command hq hi hn h (by decide)), ledGet_ledAdd_ne _ (ledK_ne_command hq hi hn h (by decide))]
  rfl
theorem ledGet_firstReply_ne : ledGet (firstReply q st tag notify pay s) c i n = ledGet s c i n := by
  rw [firstReply, ledGet_ledSub_ne _ (ledK_ne_command hq hi hn h (by decide)),
    ledGet_ledAdd_ne _ (ledK_ne_command hq hi hn h (by decide)), ledGet_eq_of (putReply_led ..)]

end Replies

/-- Settles O57: the frame of `take`, then that of `firstReply`. -/
theorem repliesFrame : Obligations.RepliesFrame := by
  unfold Obligations.RepliesFrame
  intro p st pay s t
  have hq := p.q.isLt
  refine ⟨?fields, fun k hhead hrpl hrec hlost hmsix => ?registers, ?head, fun c i n hn hi h => ?ledger⟩
  case fields =>
    obtain ⟨r, l, a, m, o, h⟩ : ∃ r l a m o, t = { s with regs := r, led := l, rr := (p.q.val + 1) % 65, aftRst := a, rpl := m, out := o } :=
      firstReply_take_eq
    rw [h]
  case registers => exact (rd_firstReply hrpl hlost hmsix).trans (rd_take _ _ _ hhead hrec)
  case head =>
    have hrd : rd t (qk p.q.val 0x10) = rd (taken p s) (qk p.q.val 0x10) :=
      rd_firstReply (by simp [qk]) (by simp [qk]) (by simp [qk, bpk])
    rw [rf, hrd]
    exact rf_take_head
  case ledger => exact (ledGet_firstReply_ne hq hi hn h).trans (ledGet_take_ne hq hi hn h)

/-! ## NOP, IDENT and TIME, and packets that make no command (R2, R47, R61, R69, R70, R74) -/

/-- Taking a packet takes no time. -/
theorem taken_tb (p : Pkt) (s : State) : (taken p s).tb = s.tb := by rw [taken, take_eq]

/-- Settles O1: each body answers OK with the words of its table. -/
theorem nopReplies : Obligations.NopReplies := by
  unfold Obligations.NopReplies
  refine ⟨fun p s hr hl => ?nop, fun p s hr hl => ?ident, fun p s hr hl => ?time⟩
  case nop => exact congrArg Host.Outcome.next (plainRow_replies hr hl (body := bodyNop) rfl)
  case ident => exact congrArg Host.Outcome.next (plainRow_replies hr hl (body := bodyIdent) rfl)
  case time =>
    have hbody : bodyTime (cmdOf 0x02 p s) (taken p s) = Ans.ok (taken p s) [lo32 s.tb, hi32 s.tb] := by
      rw [bodyTime, taken_tb]
      rfl
    exact congrArg Host.Outcome.next (plainRow_replies hr hl hbody)

theorem reservedRow_replies {opc : Nat} {p : Pkt} {s : State} (hc : opcodes.contains opc = false) (ho : offered opc p s = true)
    (hb : bound s p.q.val = true) : reservedRow opc p s = replied p 0x04 [0xFF] (taken p s) := by
  rw [reservedRow, if_pos (by simp only [hc, ho, hb, Bool.not_false, Bool.and_self])]
  rfl
theorem unboundRow_replies {opc : Nat} {p : Pkt} {s : State} (ho : offered opc p s = true) (hb : bound s p.q.val = false) :
    unboundRow opc p s = replied p 0x03 [0x0FFF] (taken p s) := by
  rw [unboundRow, if_pos (by simp only [ho, hb, Bool.not_false, Bool.and_self])]
  rfl
/-- A packet cut short by the tail of a bound queue is taken to the tail; its header gives TAG and NOTIFY of the reply. -/
theorem incompleteRow_replies {q : Nat} {s : State} (ht : turn s = some q) (hw : headWhole s q = false) (hb : bound s q = true) :
    incompleteRow q s = finish (firstReply q 0x05 (fld (ringW s q (rf s (qk q 0x10) 9 0)) 31 24)
      (bit (ringW s q (rf s (qk q 0x10) 9 0)) 8) [0xFF] (take q (waitingWords s q - 1) s)) := by
  rw [incompleteRow, if_pos (by simp [ht, hw])]
  dsimp only
  rw [if_pos hb]
  rfl

/-- Settles O3: one lemma for each of the three rows. -/
theorem packetsThatMakeNoCommand : Obligations.PacketsThatMakeNoCommand := by
  unfold Obligations.PacketsThatMakeNoCommand
  exact ⟨fun opc p s hc ho hb => congrArg Host.Outcome.next (reservedRow_replies hc ho hb),
    fun opc p s ho hb => congrArg Host.Outcome.next (unboundRow_replies ho hb),
    fun q s ht hw hb => congrArg Host.Outcome.next (incompleteRow_replies ht hw hb)⟩

/-! ## QUOTA (R68, R92, R93) -/

/-- A command refused DENIED reports the packet under the source of its port. -/
theorem deny_packet (opc wrd : Nat) (p : Pkt) (s t : State) (extra : List Word) :
    Ans.deny (cmdOf opc p s) t wrd extra = ⟨report (deniedReport opc 2 wrd 0 p s) t, 3, detail wrd 0 :: extra, false⟩ := by
  rw [Ans.deny, cmdReport_denied]
  rfl

section Quota
variable {c : Cmd} {s : State}

theorem bodyQuota_actions (hk : bit (pw c 0) 8 = false) (ht : fld (pw c 0) 11 9 = 0) (hv : fld (pw c 1) 17 0 ≤ 131072) (hp : c.part = 0) :
    bodyQuota c s = Ans.ok (setF ⟨.part, 0, 0x200 + 4 * fld (pw c 0) 4 0⟩ 17 0 (fld (pw c 1) 17 0) s) [] := by
  simp [bodyQuota, hk, ht, hp, Nat.not_lt.mpr hv]
/-- A credit cap that is not lowered, or not below the credits in use. -/
theorem bodyQuota_credits (hk : bit (pw c 0) 8 = true) (hv : fld (pw c 1) 17 0 ≤ 4096) (hp : c.part = 0)
    (hc : rf s ⟨.part, 0, 0x400 + 32 * fld (pw c 0) 4 0 + 4 * fld (pw c 0) 11 9⟩ 12 0 ≤ fld (pw c 1) 17 0 ∨
      credUsed s (fld (pw c 0) 4 0) (fld (pw c 0) 11 9) ≤ fld (pw c 1) 17 0) :
    bodyQuota c s = Ans.ok (setF ⟨.part, 0, 0x400 + 32 * fld (pw c 0) 4 0 + 4 * fld (pw c 0) 11 9⟩ 12 0 (fld (pw c 1) 17 0) s) [] := by
  have hcap : ¬ (fld (pw c 1) 17 0 < rf s ⟨.part, 0, 0x400 + 32 * fld (pw c 0) 4 0 + 4 * fld (pw c 0) 11 9⟩ 12 0 ∧
      fld (pw c 1) 17 0 < credUsed s (fld (pw c 0) 4 0) (fld (pw c 0) 11 9)) := by omega
  simp [bodyQuota, hk, hp, Nat.not_lt.mpr hv, hcap]
theorem bodyQuota_denied (hs : (bit (pw c 0) 8 || fld (pw c 0) 11 9 == 0) = true)
    (hv : fld (pw c 1) 17 0 ≤ (if bit (pw c 0) 8 then 4096 else 131072)) (hp : c.part ≠ 0) : bodyQuota c s = Ans.deny c s 0 [] := by
  have hsel : (!bit (pw c 0) 8 && fld (pw c 0) 11 9 != 0) = false := by
    rw [bne, ← Bool.not_or, hs, Bool.not_true]
  simp only [bodyQuota, hsel, Nat.not_lt.mpr hv, bne_iff_ne.mpr hp, Bool.false_eq_true, if_false, if_true]

end Quota

/-- Settles O5: the quota of the KIND is stored for P0, and every other sender is DENIED. -/
theorem quotasAreSet : Obligations.QuotasAreSet := by
  unfold Obligations.QuotasAreSet
  refine ⟨fun p s hr hl hk ht hv hp => ?actions, fun p s hr hl hk hv hp hc => ?credits, fun p s hr hl hs hv hp => ?denied⟩
  case actions =>
    have hbody := bodyQuota_actions (c := cmdOf 0x24 p s) (s := taken p s) hk ht hv hp
    exact congrArg Host.Outcome.next (plainRow_replies hr hl hbody)
  case credits =>
    have hbody := bodyQuota_credits (c := cmdOf 0x24 p s) (s := taken p s) hk hv hp hc
    exact congrArg Host.Outcome.next (plainRow_replies hr hl hbody)
  case denied =>
    have hbody := bodyQuota_denied (c := cmdOf 0x24 p s) (s := taken p s) hs hv hp
    rw [deny_packet] at hbody
    exact congrArg Host.Outcome.next (plainRow_replies hr hl hbody)

/-! ## ASSIGN and RELEASE (R68, R87, R89–R91, R93) -/

/-- What every step of a loop keeps, the loop keeps. -/
theorem forEach_keeps {α β : Type} {g : State → β} {f : α → State → State} (h : ∀ a u, g (f a u) = g u) (l : List α) (s : State) :
    g (forEach l f s) = g s := by
  induction l generalizing s with
  | nil => rfl
  | cons a l ih => exact (ih (f a s)).trans (h a s)
theorem fabricRun_owner (r : Nat) (s : State) : (fabricRun r s).owner = s.owner := by
  unfold fabricRun
  split <;> rfl
/-- A look at the regions before a resource changes hands leaves every owner. -/
theorem fabLook_owner (cls i : Nat) (s : State) : (fabLook cls i s).owner = s.owner := by
  unfold fabLook
  split
  · exact forEach_keeps (g := State.owner) fabricRun_owner _ s
  · split
    · exact fabricRun_owner _ s
    · rfl
  · exact fabricRun_owner _ s
  · rfl

theorem ownerOf_setOwner (s : State) (c i p j : Nat) : ownerOf (setOwner c i p s) c j = if j = i then p else ownerOf s c j := by
  split
  · next h => rw [h, ownerOf_setOwner_same]
  · next h => exact nget_nput_ne _ _ _ (by omega)
/-- Membership of a use set after it is changed. -/
theorem inUse_setUse (s : State) (c i : Nat) {p : Nat} (b : Bool) (hp : p < 32) : inUse (setUse c i p b s) c i p = b := by
  unfold inUse setUse
  split
  · rw [rb, setB, rd_wr_same, bit_setBit_same _ _ _ hp]
  · rw [rb, setB, rd_wr_same, bit_setBit_same _ _ _ hp]

section Owners
variable {c p i : Nat} {s : State}

/-- An index of a class of single owners that is given away: its owner is changed, and no other. -/
theorem assignOne_owner (h : isUseSet c = false) : (assignOne c p i s).owner = (setOwner c i p (fabLook c i s)).owner := by
  unfold assignOne
  rw [if_neg (Bool.eq_false_iff.mp h)]
  dsimp only
  split
  · rfl
  · split
    · split <;> rfl
    · rfl
theorem assignOne_useSet (h : isUseSet c = true) : assignOne c p i s = setUse c i p true s := if_pos h
theorem assignOne_queue : assignOne 1 p i s = setB (qk i 0) 8 true (setF (qk i 0) 4 0 p (setOwner 1 i p s)) := rfl
theorem releaseOne_useSet (h : isUseSet c = true) : releaseOne c p i s = setUse c i p false (releaseState c i p (fabLook c i s)) := if_pos h
theorem releaseOne_owner (h : isUseSet c = false) :
    (releaseOne c p i s).owner = (setOwner c i 0 (releaseState c i p (fabLook c i s))).owner := by
  unfold releaseOne
  rw [if_neg (Bool.eq_false_iff.mp h)]
  dsimp only
  split <;> rfl

theorem ownerOf_assignOne (h : isUseSet c = false) (j : Nat) : ownerOf (assignOne c p i s) c j = if j = i then p else ownerOf s c j := by
  rw [own_congr (assignOne_owner h), ownerOf_setOwner, own_congr (fabLook_owner c i s)]
theorem ownerOf_releaseOne (h : isUseSet c = false) : ownerOf (releaseOne c p i s) c i = 0 := by
  rw [own_congr (releaseOne_owner h), ownerOf_setOwner_same]
/-- A queue of a port that is given to a partition is bound to it. -/
theorem bound_assignOne : bound (assignOne 1 p i s) i = true := by
  have hbit : rb (assignOne 1 p i s) (qk i 0) 8 = true := by
    rw [assignOne_queue, rb, setB, rd_wr_same, bit_setBit_same _ _ _ (by decide)]
  exact Bool.or_eq_true _ _ ▸ Or.inr hbit
theorem partOf_assignOne (hp : p < 32) (hi : i < 64) : partOf (assignOne 1 p i s) i = p := by
  have hpart : rf (assignOne 1 p i s) (qk i 0) 4 0 = p := by
    rw [assignOne_queue, rf, setB, rd_wr_same, setBit, bit_fld_setFld _ _ _ _ _ _ (by decide) (by decide) (by decide), setF, rd_wr_same,
      fld_setFld_same _ _ _ _ (by decide) (by decide) hp]
  exact (if_neg (Nat.ne_of_lt hi)).trans hpart

end Owners

section Ranges
variable {c : Cmd} {s : State} (h64 : names64 c = false) (hrange : rangeBad c = none)

/-- Nothing that follows the checks of ownership refuses: no queue with work, no index held. -/
theorem assignHeld_free {cls : Nat} {is : List Nat} {go : Ans} (hwork : (if cls = 1 then firstOf is (queueWork s) else none) = none)
    (hheld : firstOf is (indexHeld s cls) = none) : assignHeld s cls is go = go := by
  simp only [assignHeld, hwork, hheld]

include h64 hrange

theorem bodyAssign_ok (hrole : (fld (pw c 0) 7 0 == 1 && (rangeOf c).any fun q => q != 64 && roleOf s (q / 8) != 1) = false) (hp : c.part = 0)
    (hown : (if isUseSet (fld (pw c 0) 7 0) then none else firstOf (rangeOf c) fun i => ownerOf s (fld (pw c 0) 7 0) i != 0) = none)
    (hboot : (if fld (pw c 0) 7 0 = 1 then firstOf (rangeOf c) fun q => q == s.bootQ || q == 64 else none) = none)
    (hwork : (if fld (pw c 0) 7 0 = 1 then firstOf (rangeOf c) (queueWork s) else none) = none)
    (hheld : firstOf (rangeOf c) (indexHeld s (fld (pw c 0) 7 0)) = none) :
    bodyAssign c s = Ans.ok (forEach (rangeOf c) (assignOne (fld (pw c 0) 7 0) (fld (pw c 0) 12 8)) s) [] := by
  have hpart : (c.part != 0) = false := by rw [hp]; rfl
  have hrole' : ¬ (decide (fld (pw c 0) 7 0 = 1) && (rangeOf c).any fun q => q != 64 && roleOf s (q / 8) != 1) = true :=
    Bool.eq_false_iff.mp hrole
  simp only [bodyAssign, h64, hrange, hrole', hpart, hown, hboot, assignHeld_free hwork hheld, Bool.false_eq_true, if_false]
theorem bodyAssign_denied (hrole : (fld (pw c 0) 7 0 == 1 && (rangeOf c).any fun q => q != 64 && roleOf s (q / 8) != 1) = false)
    (hp : c.part ≠ 0) : bodyAssign c s = Ans.deny c s 0 [] := by
  have hrole' : ¬ (decide (fld (pw c 0) 7 0 = 1) && (rangeOf c).any fun q => q != 64 && roleOf s (q / 8) != 1) = true :=
    Bool.eq_false_iff.mp hrole
  simp only [bodyAssign, h64, hrange, hrole', bne_iff_ne.mpr hp, Bool.false_eq_true, if_false, if_true]
theorem bodyRelease_ok (hmay : (c.part != 0 && fld (pw c 0) 12 8 != c.part) = false)
    (hboot : (if fld (pw c 0) 7 0 = 1 then firstOf (rangeOf c) fun q => q == s.bootQ || q == 64 else none) = none)
    (hown : (firstOf (rangeOf c) fun i => !ownsIdx s (fld (pw c 0) 7 0) (fld (pw c 0) 12 8) i) = none)
    (hwork : (if fld (pw c 0) 7 0 = 1 then firstOf (rangeOf c) (queueWork s) else none) = none)
    (hheld : firstOf (rangeOf c) (indexHeld s (fld (pw c 0) 7 0)) = none) :
    bodyRelease c s = Ans.ok (forEach (rangeOf c) (releaseOne (fld (pw c 0) 7 0) (fld (pw c 0) 12 8)) s) [] := by
  simp only [bodyRelease, h64, hrange, hmay, hown, hboot, assignHeld_free hwork hheld, Bool.false_eq_true, if_false]

end Ranges

/-- Settles O6: the two bodies by their checks, and what `assignOne` and `releaseOne` leave of owners, use sets and bindings. -/
theorem resourcesChangeOwner : Obligations.ResourcesChangeOwner := by
  unfold Obligations.ResourcesChangeOwner
  refine ⟨fun p s hr hl h64 hrange hrole hp hown hboot hwork hheld => ?assign, fun p s hr hl h64 hrange hmay hboot hown hwork hheld => ?release,
    fun p s hr hl h64 hrange hrole hp => ?denied, fun c p i j s hc _ _ => ownerOf_assignOne hc j, fun c p i s hc hp _ => ?joins,
    fun p i s hp hi => ⟨bound_assignOne, partOf_assignOne hp hi⟩, fun c p i s hc => ownerOf_releaseOne hc, fun c p i s hc hp => ?leaves⟩
  case assign =>
    have hbody := bodyAssign_ok (s := taken p s) h64 hrange hrole hp hown hboot hwork hheld
    exact congrArg Host.Outcome.next (plainRow_replies hr hl hbody)
  case release =>
    have hbody := bodyRelease_ok (s := taken p s) h64 hrange hmay hboot hown hwork hheld
    exact congrArg Host.Outcome.next (plainRow_replies hr hl hbody)
  case denied =>
    have hbody := bodyAssign_denied (s := taken p s) h64 hrange hrole hp
    rw [deny_packet] at hbody
    exact congrArg Host.Outcome.next (plainRow_replies hr hl hbody)
  case joins => rw [assignOne_useSet hc, inUse_setUse _ _ _ _ hp]
  case leaves => rw [releaseOne_useSet hc, inUse_setUse _ _ _ _ hp]

/-! ## PART_RESET (R72, R77, R101) -/

theorem bodyPartReset_accepted {c : Cmd} {s : State} (hp : fld (pw c 0) 4 0 ≠ 0) (hmay : (c.part != 0 && c.part != fld (pw c 0) 4 0) = false)
    (hone : (resetOp s (fld (pw c 0) 4 0)).isSome = false) (hfull : opsFull s c.q = false) :
    bodyPartReset c s = Ans.long c (.partReset (fld (pw c 0) 4 0)) (partResetNow (fld (pw c 0) 4 0) s) := by
  simp only [bodyPartReset, hp, hmay, hone, hfull, Bool.false_eq_true, if_false]

section Completion
variable {o : LongOp} {st : Nat} {pay : List Word} {s : State} (ho : opOf s o.q o.tag = some o)
include ho

/-- The result of a long operation whose completion can be written, or is lost. -/
theorem complete_now (h : canComplete o pay.length s = true) : complete o.q o.tag st pay s = completed o st pay s := by
  simp only [complete, ho, completed]
  cases hl : o.lost with
  | true => rfl
  | false =>
    rw [canComplete, hl, Bool.false_or] at h
    simp only [h, if_true, Bool.false_eq_true, if_false]
/-- One whose completion cannot be written yet is held. -/
theorem complete_held (h : canComplete o pay.length s = false) : complete o.q o.tag st pay s =
    { s with ops := s.ops.map fun x =>
        if x.q == o.q && x.tag == o.tag then { x with kind := .finished, held := some (BitVec.ofNat 32 st :: pay) } else x } := by
  rw [canComplete, Bool.or_assoc, Bool.or_eq_false_iff] at h
  obtain ⟨hl, hw⟩ := h
  simp only [complete, ho, hl, hw, Bool.false_eq_true, if_false]

end Completion

theorem partResetDone_some {part : Nat} {o : LongOp} {s : State} (h : resetOp s part = some o) :
    partResetDone part s = complete o.q o.tag 0 [] s := by rw [partResetDone, h]
theorem partResetDone_none {part : Nat} {s : State} (h : resetOp s part = none) : partResetDone part s = s := by rw [partResetDone, h]

/-- The waiting packets of a queue are gone: its head is at its tail. -/
theorem rf_discardQueue_head (q : Nat) (s : State) : rf (discardQueue q s) (qk q 0x10) 9 0 = rf s (qk q 0x14) 9 0 := by
  have htail : rf (wr (qk q 0x28) (rd s (qk q 0x28) + BitVec.ofNat 32 (packetsIn s q 1024 (rf s (qk q 0x10) 9 0) (waitingWords s q))) s)
      (qk q 0x14) 9 0 = rf s (qk q 0x14) 9 0 := rf_wr_ne _ _ _ _ (by simp [qk])
  simp only [discardQueue, htail]
  rw [rf, setF, rd_wr_same]
  exact fld_setFld_same _ _ _ _ (by decide) (by decide) (Nat.mod_lt _ (by decide))
/-- CNT_DISC has counted them. -/
theorem rd_discardQueue_count (q : Nat) (s : State) : rd (discardQueue q s) (qk q 0x28) =
    rd s (qk q 0x28) + BitVec.ofNat 32 (packetsIn s q 1024 (rf s (qk q 0x10) 9 0) (waitingWords s q)) := by
  unfold discardQueue
  dsimp only
  rw [rd_setF_ne _ _ _ _ (by simp [qk]), rd_ledAdd, rd_ledAdd, rd_wr_same]

/-- Settles O7: the accepted command, the three ways in which its completion may go, and what becomes of queues and leases. -/
theorem partResetBegins : Obligations.PartResetBegins := by
  unfold Obligations.PartResetBegins
  refine ⟨fun p s hr hl hp hmay hone hfull => ?accepted, fun part o s hlive hop ho hc => ?done, fun part o s hlive hop ho hc => ?held,
    fun part s hlive hop => next_event_live hlive (partResetDone_none hop),
    fun q s => ⟨rf_discardQueue_head q s, rd_discardQueue_count q s⟩, fun p s x hx => ?leases⟩
  case accepted =>
    have hbody := bodyPartReset_accepted (c := cmdOf 0x25 p s) (s := taken p s) hp hmay hone hfull
    exact congrArg Host.Outcome.next (plainRow_replies hr hl hbody)
  case done => exact next_event_live hlive ((partResetDone_some hop).trans (complete_now ho hc))
  case held => exact next_event_live hlive ((partResetDone_some hop).trans (complete_held ho hc))
  case leases => exact bne_iff_ne.mp (List.mem_filter.mp hx).2

/-! ## DOORBELL and QCTL (R62, R65) -/

section Queues
variable {q : Nat} {v : Word} {be : BitVec 4} {s : State}

/-- A doorbell of an enabled queue that moves its tail ahead. -/
theorem doorbell_moves (h10 : fld v 31 10 = 0) (he : q = 64 ∨ rb s (qk q 4) 0 = true)
    (ht : waitingWords s q ≤ (fld v 9 0 + 1024 - rf s (qk q 0x10) 9 0) % 1024) :
    doorbell q v 0xF s = setF (qk q 0x14) 9 0 (fld v 9 0) s := by
  have hen : ¬ (q ≠ 64 ∧ rb s (qk q 4) 0 = false) := by rcases he with he | he <;> simp [he]
  simp only [doorbell, ne_eq, not_true, if_false]
  exact if_neg (by rw [h10]; exact fun h => h.elim (· rfl) fun h => h.elim hen (Nat.not_lt.mpr ht))
/-- Any other sets DB_BAD. -/
theorem doorbell_ignored (h : fld v 31 10 ≠ 0 ∨ (q ≠ 64 ∧ rb s (qk q 4) 0 = false) ∨
    (fld v 9 0 + 1024 - rf s (qk q 0x10) 9 0) % 1024 < waitingWords s q) : doorbell q v 0xF s = setB (qk q 0x34) 0 true s := by
  simp only [doorbell, ne_eq, not_true, if_false]
  exact if_pos h

/-- A queue that is enabled starts with its pointers at zero. -/
theorem qctlWrite_starts (hoff : rb s (qk q 4) 0 = false) (hon : bit (mergeReg (qk q 4) (rd s (qk q 4)) v (byteMask be)) 0 = true) :
    qctlWrite q v be s = wr (qk q 0x10) 0 (wr (qk q 0x14) 0 (wr (qk q 0x1C) 0 (wr (qk q 0x20) 0
      (wr (qk q 4) (mergeReg (qk q 4) (rd s (qk q 4)) v (byteMask be)) s)))) := by
  simp only [qctlWrite, hoff, hon, Bool.false_and, Bool.not_false, Bool.and_self, Bool.false_eq_true, if_false, if_true]

variable (hoff : bit (mergeReg (qk q 4) (rd s (qk q 4)) v (byteMask be)) 0 = false)
include hoff

/-- EN is not cleared while the queue has packets or long operations. -/
theorem qctlWrite_refused (hon : rb s (qk q 4) 0 = true) (h : (waitingWords s q != 0 || s.ops.any fun o => o.q == q) = true) :
    qctlWrite q v be s = setB (qk q 0x34) 1 true s := by
  simp only [qctlWrite, hon, hoff, h, Bool.not_false, Bool.and_self, if_true]
theorem qctlWrite_stops (hw : waitingWords s q = 0) (ho : (s.ops.any fun o => o.q == q) = false) :
    qctlWrite q v be s = wr (qk q 4) (mergeReg (qk q 4) (rd s (qk q 4)) v (byteMask be)) s := by
  simp only [qctlWrite, hoff, hw, ho, bne_self_eq_false, Bool.or_self, Bool.and_false, Bool.false_and, Bool.false_eq_true, if_false]

end Queues

/-- A row that its port lets through. -/
theorem next_ifPos {c : Prop} [Decidable c] {s t u : State} (h : c) (ht : t = u) :
    (.next (if c then finish t else s) : Host.Outcome State Fault Refusal) = .next (finish u) := by rw [if_pos h, ht]

/-- Settles O8: the cases of `doorbell` and of `qctlWrite`. -/
theorem doorbellMovesTail : Obligations.DoorbellMovesTail := by
  unfold Obligations.DoorbellMovesTail
  refine ⟨?moves, ?ignored, ?starts, ?waiting, ?outstanding, ?stops⟩
  case moves => exact fun q v s h h10 he ht => next_ifPos h (doorbell_moves h10 he ht)
  case ignored => exact fun q v s h hbad => next_ifPos h (doorbell_ignored hbad)
  case starts => exact fun q v be s h hoff hon => next_ifPos h (qctlWrite_starts hoff hon)
  case waiting => exact fun q v be s h hon hoff hw => next_ifPos h (qctlWrite_refused hoff hon (by simp [hw]))
  case outstanding => exact fun q v be s h hon hoff ho => next_ifPos h (qctlWrite_refused hoff hon (by rw [ho, Bool.or_true]))
  case stops => exact fun q v be s h _ hoff hw ho => next_ifPos h (qctlWrite_stops hoff hw ho)

/-! ## Completions, the watchdog and leases (R64, R72, R76, R97) -/

/-- The oldest held completion of a queue that has room for it. -/
theorem deliver1_written {q : Nat} {o : LongOp} {w : Word} {ws : List Word} {s : State}
    (ho : s.ops.find? (fun o => o.q == q && o.held.isSome) = some o) (hheld : o.held = some (w :: ws)) (hh : s.halted = false)
    (hr : s.restarting = false) (hroom : ws.length + 1 ≤ rplRoom s q) (hl : o.lost = false) :
    deliver1 q s = dropOp q o.tag (putReply q (fld w 7 0) o.tag true o.notify ws s) := by
  have hfits : decide (rplRoom s q < (w :: ws).length) = false := decide_eq_false (Nat.not_lt.mpr hroom)
  simp only [deliver1, ho, hheld, Option.getD_some, hl, hh, hr, hfits, Bool.and_false, Bool.or_self, Bool.false_eq_true, if_false]
  rfl

section Watchdog
variable {s : State} (hl : live s = true) (hh : s.halted = false) (hr : s.restarting = false)
include hl hh hr

theorem restartBegin_idle (hw : s.insWait = []) :
    restartBegin none s = raiseHw 0x000 none 0x00 0 { s with restarting := true, aftRst := BitVec.allOnes 65 } := by
  simp only [restartBegin, hl, hh, hr, hw, Bool.not_true, Bool.or_self, Bool.false_eq_true, if_false]
theorem restartBegin_waiting {a : Option Nat} {w : Waiting} {ws : List Waiting} (hw : s.insWait = w :: ws) :
    restartBegin a s = raiseHw 0x000 none 0x00 0 { abortWaiting w s with restarting := true, aftRst := BitVec.allOnes 65 } := by
  simp only [restartBegin, hl, hh, hr, hw, Bool.not_true, Bool.or_self, Bool.false_eq_true, if_false]
theorem restartBegin_applying {q : Nat} (hw : s.insWait = []) :
    restartBegin (some q) s = raiseHw 0x000 none 0x00 0 { abortHead q s with restarting := true, aftRst := BitVec.allOnes 65 } := by
  simp only [restartBegin, hl, hh, hr, hw, Bool.not_true, Bool.or_self, Bool.false_eq_true, if_false]

end Watchdog

/-- The packet that is aborted is the whole one at the head of the queue in turn. -/
theorem abortHead_whole {q : Nat} {s : State} (ht : turn s = some q) (hw : headWhole s q = true) :
    abortHead q s = ledSub 7 q 4 1 (ledAdd 7 q 3 1 (incR (qk q 0x2C) (take q (headLen s q) s))) := by
  simp only [abortHead, ht, hw, if_true]
theorem leaseExpired_out {l : Nat} {x : Lease} {s : State} (hx : leaseOf s l = some x) (h0 : x.rem = 0) (hh : s.halted = false) :
    leaseExpired l s = { s with leases := s.leases.filter fun y => y.id != l } := by
  simp only [leaseExpired, hx]
  exact if_pos ⟨h0, hh⟩

/-! ## The debug port and BAR2 (R57, R84, R85) -/

theorem powered_on {p : Pin} {f : State → State} {s t : State} (h : pinPowered s p = true) (hf : f s = t) : powered p f s = t :=
  (if_pos h).trans hf

section Debug
variable {a n : Nat} {s : State}

theorem debugReadWords_open (h : s.dbgDis = false) :
    debugReadWords a n s = emit (.data (readWords ⟨0, 65, 2⟩ n (a / 4 * 4) s).1) (readWords ⟨0, 65, 2⟩ n (a / 4 * 4) s).2 :=
  if_neg (Bool.eq_false_iff.mp h)
theorem debugReadWords_shut (h : s.dbgDis = true) : debugReadWords a n s = emit (.data (List.replicate n 0)) s := if_pos h
theorem debugHalt_stops (h : s.dbgDis = false) (hw : s.insWait = []) (hh : s.halted = false) :
    debugHalt s = { s with halted := true, haltReq := false } := by
  simp only [debugHalt, haltNow, h, hw, hh, Bool.not_false, List.isEmpty_nil, Bool.and_self, Bool.false_eq_true, if_false, if_true]
theorem debugHalt_waits (h : s.dbgDis = false) (hw : s.insWait ≠ []) (hh : s.halted = false) : debugHalt s = { s with haltReq := true } := by
  simp only [debugHalt, haltNow, h, hh, List.isEmpty_eq_false_iff.mpr hw, Bool.not_false, Bool.and_false, Bool.false_eq_true, if_false]
theorem debugResume_open (h : s.dbgDis = false) : debugResume s = deliverHeld { s with halted := false, haltReq := false } :=
  if_neg (Bool.eq_false_iff.mp h)

end Debug

section Bar2
variable {k off n : Nat} {s : State}

/-- A read that meets a page that is not the port's: zeros for its bytes, and a report of the first such address. -/
theorem bar2Read_refused {a : Nat}
    (h : (((List.range n).map fun i => (off + i) % 2 ^ 24).find? fun a => !portHas s k (ownerOf s 0x0E (a / 4096))) = some a) :
    bar2Read k off n s = report ⟨0x018 + k, none, 0, k, 0, 0, BitVec.ofNat 32 (0x30000000 + a), 0x80000000, false, false, none⟩
      (emit (.bytes (((List.range n).map fun i => (off + i) % 2 ^ 24).map fun a =>
        if portHas s k (ownerOf s 0x0E (a / 4096)) then memRd memDflt s.mem a else 0)) s) := by
  simp only [bar2Read, h]
theorem bar2Read_served
    (h : (((List.range n).map fun i => (off + i) % 2 ^ 24).find? fun a => !portHas s k (ownerOf s 0x0E (a / 4096))) = none) :
    bar2Read k off n s = emit (.bytes ((List.range n).map fun i => memRd memDflt s.mem ((off + i) % 2 ^ 24))) s := by
  have hbytes : (((List.range n).map fun i => (off + i) % 2 ^ 24).map fun a =>
      if portHas s k (ownerOf s 0x0E (a / 4096)) then memRd memDflt s.mem a else 0) =
      (List.range n).map fun i => memRd memDflt s.mem ((off + i) % 2 ^ 24) := by
    rw [List.map_map]
    refine List.map_congr_left fun i hi => if_pos ?_
    simpa using List.find?_eq_none.mp h _ (List.mem_map_of_mem hi)
  simp only [bar2Read, h, hbytes]

end Bar2

/-! ## The SPI port and links (R55, R59, R78, R82, R83) -/

section Spi
variable {addr n : Nat} {bytes : List Byte} {s : State} (hl : live s = true) (hr : s.rails.getLsbD 24 = true)
include hl hr

theorem spiRow_read : spiRow false addr n bytes s = emit (.bytes (spiRead s (addr % 0x4000) n)) s := by
  simp only [spiRow, hl, hr, Bool.not_true, Bool.or_self, Bool.false_eq_true, if_false]
theorem spiRow_write : spiRow true addr n bytes s = finish (spiWrite bytes [] (addr % 0x4000) s) := by
  simp only [spiRow, hl, hr, Bool.not_true, Bool.or_self, Bool.false_eq_true, if_false, if_true]

end Spi

section Links
variable {k : Nat} {how : LinkLoss} {s : State}

/-- The link of a HOST port is lost or reset: the drain begins, its configuration is reset and the outstanding completions
are lost; only a link that went down is reported and stays down. -/
theorem linkDown_up (hr : roleOf s k = 1) (hu : (link s k).up = true) : linkDown k how s =
    if how = .down then causeOn (0x028 + k) none 0x28 0 0 (modLink k (fun l => { l with up := false })
      (opsLost k (cfgReset k (modLink k (fun l => { l with drain := true }) s))))
    else opsLost k (cfgReset k (modLink k (fun l => { l with drain := true }) s)) := if_pos ⟨hr, hu⟩
theorem linkUp_down (hr : roleOf s k = 1) (hp : (link s k).perst = true) (hu : (link s k).up = false) :
    linkUp k s = causeOff (0x028 + k) none (modLink k (fun l => { l with up := true }) s) := if_pos ⟨hr, hp, hu⟩
theorem notifyLate_due (hd : (vget s.links k).due = true)
    (ht : (match (vget s.links k).lastMsg with | some t => decide (t + 10000 ≤ s.tb) | none => true) = true) :
    notifyLate k s = notifyPort k { s with links := vmod s.links k fun l => { l with due := false } } :=
  if_pos (Bool.and_eq_true _ _ ▸ ⟨hd, ht⟩)
/-- An event of the board outside power-on reset. -/
theorem next_outsidePor {t u : State} (h : s.por = false) (ht : t = u) :
    (.next (if s.por then s else finish t) : Host.Outcome State Fault Refusal) = .next (finish u) := by
  rw [if_neg (Bool.eq_false_iff.mp h), ht]

end Links

/-- Settles O19: each row by what its unit does. -/
theorem processorPortsAndLinks : Obligations.ProcessorPortsAndLinks := by
  unfold Obligations.ProcessorPortsAndLinks
  refine ⟨?delivery, ?restartIdle, ?restartWaiting, ?restartApplying, ?restartDone, ?leaseExpiry, ?debugRead, ?debugShut, ?debugHalts,
    ?debugWaits, ?debugResumes, ?bar2Refused, ?bar2Served, ?bar2Write, ?spiRead, ?spiWrite, ?linkLost, ?linkReset, ?linkUp, ?perst, ?notify⟩
  case delivery => exact fun q o w ws s hl ho hheld hh hr _ hroom hlost => next_event_live hl (deliver1_written ho hheld hh hr hroom hlost)
  case restartIdle => exact fun s hl hh hr hw => next_event_live hl (restartBegin_idle hl hh hr hw)
  case restartWaiting => exact fun a w ws s hl hh hr hw => next_event_live hl (restartBegin_waiting hl hh hr hw)
  case restartApplying =>
    intro q s hl hh hr hw ht hwhole
    have hbegin := restartBegin_applying (q := q.val) hl hh hr hw
    rw [abortHead_whole ht hwhole] at hbegin
    exact next_event_live hl hbegin
  case restartDone => exact fun s hl hr => next_event_live hl (if_pos hr)
  case leaseExpiry => exact fun l x s hl hx h0 hh => next_event_live hl (leaseExpired_out hx h0 hh)
  case debugRead => exact fun addr count s hl hp hd => next_event_live hl (powered_on hp (debugReadWords_open hd))
  case debugShut => exact fun addr count s hl hp hd => next_event_live hl (powered_on hp (debugReadWords_shut hd))
  case debugHalts => exact fun s hl hp hd hw hh => next_event_live hl (powered_on hp (debugHalt_stops hd hw hh))
  case debugWaits => exact fun s hl hp hd hw hh => next_event_live hl (powered_on hp (debugHalt_waits hd hw hh))
  case debugResumes => exact fun s hl hp hd => next_event_live hl (powered_on hp (debugResume_open hd))
  case bar2Refused => exact fun port off n a s h ha => next_ifPos h (bar2Read_refused ha)
  case bar2Served => exact fun port off n s h hnone _ => next_ifPos h (bar2Read_served hnone)
  case bar2Write => exact fun port off s h => next_ifPos h rfl
  case spiRead => exact fun addr bytes n s hl hr => congrArg Host.Outcome.next (spiRow_read hl hr)
  case spiWrite => exact fun addr bytes n s hl hr => congrArg Host.Outcome.next (spiRow_write hl hr)
  case linkLost => exact fun port s hp hr hu => next_outsidePor hp ((linkDown_up hr hu).trans (if_pos rfl))
  case linkReset => exact fun port how s hp hr hu hd => next_outsidePor hp ((linkDown_up hr hu).trans (if_neg hd))
  case linkUp => exact fun port s hp hr hperst hu => next_outsidePor hp (linkUp_down hr hperst hu)
  case perst => exact fun port s hp => congrArg (Host.Outcome.next ∘ finish) (powered_on hp rfl)
  case notify => exact fun port s hl hd ht => next_event_live hl (notifyLate_due hd ht)

end Sys2Proof.Machine
end

section
/-! PROOFS. Every step keeps the state sound (R95, R97, R406, R410), and the leases of LOCK and UNLOCK (R95–R97). -/

namespace Sys2Proof.Machine

/-! ## Sound states (R95, R97, R406, R410) -/

section Sound
variable {s : State}

/-- A row that answers a sound state answers no other. -/
theorem next_sound {u : State} (h : u.Sound) (t : State) (e : (.next u : Host.Outcome State Fault Refusal) = .next t) : t.Sound := by
  cases e
  exact h
/-- A row that, where its condition holds, does its work to the end of the step, and nothing otherwise. -/
theorem ite_finish_sound {c : Prop} [Decidable c] {u : State} (h : s.Sound) : (if c then finish u else s).Sound :=
  ite_sound (finish_sound u) h
theorem ite_not_finish_sound {c : Prop} [Decidable c] {u : State} (h : s.Sound) : (if c then s else finish u).Sound :=
  ite_sound h (finish_sound u)
/-- The row of a command that waits where its buffer is full. -/
theorem ite_not_hostRow_sound {c : Prop} [Decidable c] {opc : Nat} {sel lenOk body after} {p : Pkt} (h : s.Sound) :
    (if c then s else hostRow opc sel lenOk body after p s).Sound := ite_sound h (hostRow_sound h)
/-- A register row that writes only where its condition holds. -/
theorem ite_wholeWrite_sound {c : Prop} [Decidable c] {q : Nat} {k : RKey} {v : Word} (h : s.Sound) :
    (if c then wholeWrite q k v s else s).Sound := ite_sound (wholeWrite_sound h) h
theorem ite_not_wholeWrite_sound {c : Prop} [Decidable c] {q : Nat} {k : RKey} {v : Word} (h : s.Sound) :
    (if c then s else wholeWrite q k v s).Sound := ite_sound h (wholeWrite_sound h)

/-- Every command and event keeps the state sound: it leaves it as it was, or ends the step. The rows are told apart by what
takes them: a ring, a unit that is alive, a register access, or the board. -/
theorem exec_sound (c : Instr) (h : s.Sound) : ∀ t, exec c s = .next t → t.Sound := by
  cases c with
  | nop | ident | time | regRead | regModify | regPeek | assign | release | lock | quota | partReset | calStatus | corrLoad | sync
  | statsSnap | actCancel | actQuery | molt | fence | unfence | selftest | bitBegin | bitData | readback | ledgerRead | faultClear
  | severitySet | nvmRead | nvmLock | supSnap | ffClear | regWrite | unlock | unlockForce | calRun | calCommit | freeze
  | freezeRelease | bitEnd | regionReset | regionStart | regionClkstop | regionClkrun | regionClear | ledgerSnap | faultReadRecords
  | faultReadCapture | faultReadStatus | injectRaise | injectHold | injectBrokenWire | injectRelease | nvmWrite | supUrgent
  | supPathTest | ffLoad | swarmStop | swarmListen | swarmTrain | resync | dmaKick | dmaPause | dmaResume | dmaAbort | dmaEnable
  | dmaDisable | armChannels | armGenerator | disarmChannels | disarmGenerator => exact next_sound (hostRow_sound h)
  | actInsert => exact next_sound (ite_not_hostRow_sound h)
  | reservedOpcode => exact next_sound (reservedRow_sound h)
  | unboundQueueCommand => exact next_sound (unboundRow_sound h)
  | incompletePacket => exact next_sound (incompleteRow_sound h)
  | partResetComplete | calComputeDone | calRunTimeout | calCommitDeadline | corrLoadDone | moltCopyDone | moltDeadline
  | selftestAttemptEnd | bitEndDone | sessionTimeout | readbackDone | clkstopForce | nvmWriteDone | nvmLockDone | swarmTrainDone
  | resyncDeadline | completionDelivery | processorRestart | leaseExpiry | debugRead | debugHalt | debugResume | faultNotifyDelayed
  | encoderEdge | tokenDeferredDelivery | encoderZEdge | encoderLossOfSignal | encoderSignalReturn | axisRateUpdate
  | triggerPulseEnd | lineStart | lineEnd | eventArrival | lineEndMarker | stitcherTake | stitchTimeout | insertTaken | actionExecute
  | markerPulseEnd | ffUpdateEdge | deglitchHoldEnd | comparatorTrip | ffShortCircuit | ffCompliance | supSlotEnd | fabricRequest
  | dmaDescriptorRead | dmaQuantumEnd | dmaDescriptorComplete | dmaHostReadError | dmaPauseDrainEnd | streamFrameSend
  | streamCreditBlock | streamLinkDown | speedUpdate | tilePllLock | tileCalibrationDone | tilePllLockTimeout | tilePllLossOfLock
  | fabricPllLock | swarmFrameSend | swarmTokenFrame | swarmTimeFrame | swarmStatusFrame | swarmPosFrame | swarmGdescFrame
  | swarmNakFrame | swarmTrainFrame | swarmResendTimeout | swarmSegmentFail | swarmTokenDelivery | swarmHoldoverStart
  | swarmHoldoverEnd | swarmFollowerLost | swarmReceiveDiscard | gpioIrqEdge | timeBasePulse | timeBasePulseEnd | sramEccError
  | bootNvmLoadDone | bootSelftestDone | bootFabricLoadDone | ready | ffShortCircuitEnd | ffComplianceEnd | processorRestartDone
  | dmaStopDrainEnd | holdoverExtrapolation | strobePulseBegin | strobePulseEnd => exact next_sound (event_sound h)
  | doorbell => exact next_sound (doorbellRow_sound h)
  | qctlWrite => exact next_sound (qctlRow_sound h)
  | w1cWrite | registerWrite => exact next_sound (targetWrite_sound h)
  | tbLoRead | rdescSelectRead => exact next_sound (busRead_sound h)
  | latchedLoRead => exact next_sound (rowRead_sound h).1
  | peakRead => exact next_sound (rowRead_sound h).2
  | axisForce | axisRestore | axisPreset | strobeMaskWrite | creditWrite | zoneEnable | zoneDisable | dmaPauseBitWrite | gpioBankWrite
  | irqSelWrite | powerStateRun | powerStateIdle | powerStateStandby => exact next_sound (wholeWrite_sound h)
  | tileClkStart | ffDisable | recordRingEnable => exact next_sound (ite_wholeWrite_sound h)
  | tileClkStop | ffEnable => exact next_sound (ite_not_wholeWrite_sound h)
  | spiTransaction => exact next_sound (spi_sound h)
  | bar2Read | bar2Write => exact next_sound (ite_finish_sound h)
  | hostLinkDown | hostLinkUp | dieOverTemperature => exact next_sound (ite_not_finish_sound h)
  | perstRelease | brokenWire | powerFail | powerOnResetEntry | powerOnResetRelease | resetNAssert | resetNRelease
  | dieTemperatureNormal | brokenWireCleared | domainSupplyValid | domainSupplyLost => exact next_sound (finish_sound _)
  | tripNLow | tripNHigh => exact next_sound (tripEdge_sound h)
  | sclkRefLost | referencePllUnlock | syncMissing => exact next_sound (outsideOn_sound h)
  | sclkRefReturn | referencePllLock | syncReturn => exact next_sound outsideOff_sound

/-- What is still to come does not enter a sound state. -/
theorem sound_pending {cs : List Instr} (h : s.Sound) : ({ s with pending := cs } : State).Sound := h
theorem tick_sound (h : s.Sound) : (tick s).Sound := by
  cases hp : s.por with
  | true => rw [tick_por hp]; exact h
  | false =>
    cases hf : s.pfail with
    | true => rw [tick_pfail hp hf]; exact h
    | false => rw [tick_up hp hf]; exact finish_sound _

end Sound

/-- Settles O54: an empty queue ticks, and any other step is `exec` of the command in front. -/
theorem stepKeepsSound : Obligations.StepKeepsSound := by
  unfold Obligations.StepKeepsSound
  intro s t ht hs
  cases hq : s.pending with
  | nil =>
    rw [step_empty hq] at ht
    exact next_sound (tick_sound hs) t ht
  | cons c cs =>
    rw [step, hq] at ht
    exact exec_sound c (sound_pending hs) t ht

/-! ## LOCK and UNLOCK (R95–R97) -/

section Leases
variable {c : Cmd} {s : State} (hv : leaseValid (fld (pw c 0) 6 0) = true)
include hv

/-- LOCK of a lease that no other partition holds, by a user of it. -/
theorem bodyLock_taken (h1 : 1 ≤ fld (pw c 1) 9 0) (h2 : fld (pw c 1) 9 0 ≤ 1000) (hu : leaseUser s c.part (fld (pw c 0) 6 0) = true)
    (hfree : (match leaseOf s (fld (pw c 0) 6 0) with | some x => x.holder == c.part | none => true) = true) :
    bodyLock c s = Ans.ok { s with leases := s.leases.filter (fun x => x.id != fld (pw c 0) 6 0) ++
      [⟨fld (pw c 0) 6 0, c.part, 1000000 * fld (pw c 1) 9 0⟩] } [BitVec.ofNat 32 (fld (pw c 1) 9 0)] := by
  have hms : (fld (pw c 1) 9 0 = 0 || decide (1000 < fld (pw c 1) 9 0)) = false := by simp; omega
  simp only [bodyLock, hv, hms, hu, Bool.not_true, Bool.false_eq_true, if_false]
  cases hl : leaseOf s (fld (pw c 0) 6 0) with
  | none => rfl
  | some x =>
    rw [hl] at hfree
    exact if_neg (by simpa using hfree)
theorem bodyUnlock_held (hh : holds s (fld (pw c 0) 6 0) c.part = true) : bodyUnlock c s = Ans.ok (leaseEnd (fld (pw c 0) 6 0) s) [] := by
  simp only [bodyUnlock, hv, hh, Bool.not_true, Bool.or_self, Bool.false_eq_true, if_false]
theorem bodyUnlockForce_p0 (hp : c.part = 0) : bodyUnlockForce c s = Ans.ok (leaseEnd (fld (pw c 0) 6 0) s) [] := by
  simp only [bodyUnlockForce, hv, hp, Bool.not_true, Bool.false_eq_true, bne_self_eq_false, if_false]

end Leases

/-- A packet with one payload word or more is of the row that its selector field names. -/
theorem selOf_word {p : Pkt} {n hi lo : Nat} (hl : p.pay.length = n + 1) : selOf hi lo p.pay = some (fld (word p 0) hi lo) := by
  cases hp : p.pay with
  | nil => rw [hp] at hl; cases hl
  | cons w ws => simp only [selOf, word, hp, List.head?_cons, Option.map_some, List.getD_cons_zero]
/-- A command whose selector field names its row: what its body answers is replied. -/
theorem selRow_replies {opc st hi lo op len : Nat} {body} {p : Pkt} {s t : State} {pay : List Word} (h : runs opc p s = true)
    (hl : p.pay.length = len + 1) (hop : fld (word p 0) hi lo = op) (hb : body (cmdOf opc p s) (taken p s) = ⟨t, st, pay, false⟩) :
    hostRow opc (fun l => selOf hi lo l == some op) (lenIs (len + 1)) body noAfter p s = replied p st pay t :=
  hostRow_replies h (by rw [selOf_word hl, hop]; exact beq_self_eq_true _) (by simp [lenIs, hl]) hb
/-- The same for the row that also takes the packets whose selector names no other row. -/
theorem restRow_replies {opc st hi lo len : Nat} {ops : List (Option Nat)} {body} {p : Pkt} {s t : State} {pay : List Word}
    (h : runs opc p s = true) (hl : p.pay.length = len + 1) (hop : ops.contains (some (fld (word p 0) hi lo)) = true)
    (hb : body (cmdOf opc p s) (taken p s) = ⟨t, st, pay, false⟩) :
    hostRow opc (fun l => ops.contains (selOf hi lo l)) (lenIs (len + 1)) body noAfter p s = replied p st pay t :=
  hostRow_replies h (by rw [selOf_word hl]; exact hop) (by simp [lenIs, hl]) hb

/-- Settles O4: each of the three bodies answers OK. -/
theorem leasesAreTaken : Obligations.LeasesAreTaken := by
  unfold Obligations.LeasesAreTaken
  refine ⟨fun p s hr hl hv h1 h2 hu hfree => ?lock, fun p s hr hl hb hv hh => ?unlock, fun p s hr hl hb hv hp => ?force⟩
  case lock =>
    have hbody := bodyLock_taken (c := cmdOf 0x22 p s) hv h1 h2 hu hfree
    exact congrArg Host.Outcome.next (plainRow_replies hr hl hbody)
  case unlock =>
    have hbody := bodyUnlock_held (c := cmdOf 0x23 p s) hv hh
    have hsel : (selOf 31 31 p.pay != some 1) = true := by rw [selOf_word hl, fldbit, hb]; rfl
    exact congrArg Host.Outcome.next (hostRow_replies hr hsel (by simp [lenIs, hl]) hbody)
  case force =>
    have hbody := bodyUnlockForce_p0 (c := cmdOf 0x23 p s) (s := taken p s) hv hp
    exact congrArg Host.Outcome.next (selRow_replies hr hl (by rw [fldbit, hb]; rfl) hbody)

end Sys2Proof.Machine
end

section
/-! PROOFS. RATE updates, deferred tokens and trigger pulses (R94, R131, R136–R138, R144), and the events of the Swarm link: failed
segments, ring tokens, holdover and lost followers (R94, R153–R162). -/

namespace Sys2Proof.Machine

/-! ## RATE, deferred tokens and trigger pulses (R94, R131, R136–R138, R144) -/

section Motion
variable {a g d : Nat} {t : Token} {ts : List Token} {s : State}

/-- The displacement over the window of an axis, in the units of RATE (R131). -/
def displaced (a : Nat) (s : State) : Int :=
  ((axis s a).odo - (((axis s a).odo :: (axis s a).hist).take 1025).getD (2 ^ rf s (ak a 0) 23 20) 0) * 1600000
/-- A displacement that divides evenly over its window needs no rounding. -/
theorem rateUpdate_even (hf : followsMaster s a = false) (hd : displaced a s % ((2 ^ rf s (ak a 0) 23 20 : Nat) : Int) = 0) :
    rateUpdate a s = wr (ak a 0x1C) (intW (displaced a s / ((2 ^ rf s (ak a 0) 23 20 : Nat) : Int)))
      (modAxis a (fun y => { y with hist := ((axis s a).odo :: (axis s a).hist).take 1025 }) s) := by
  have hfollow : ∀ f, followsMaster (modAxis a f s) a = false := fun _ => hf
  unfold displaced at hd ⊢
  simp only [rateUpdate, hd, hfollow, if_true, Bool.false_eq_true, if_false]
theorem tokenGoes_may (h : genMay s g = true) : tokenGoes g t s = deliver t s := if_pos h
/-- A token whose axis the generator's owner may not use is refused (R94). -/
theorem tokenGoes_refused (h : genMay s g = false) : tokenGoes g t s = raiseHw 0x002 none 0x22 (ownerOf s 0x07 g)
    (incR ⟨.part, 0, 0x300 + 4 * ownerOf s 0x07 g⟩ s) := if_neg (Bool.eq_false_iff.mp h)
/-- The oldest deferred token goes 4 µs after the one before it (R137). -/
theorem deliverDeferred_due (hb : (gen s g).backlog = t :: ts) (hl : (gen s g).lastDel = some d) (hd : d + 4000 ≤ s.tb)
    (hlock : (gen s g).lock = false) : deliverDeferred g s = tokenGoes g t (modGen g (fun y => { y with backlog := ts }) s) := by
  simp only [deliverDeferred, hb, hl, hd, hlock, Bool.false_eq_true, if_false, if_true]
theorem deliverDeferred_locked (hlock : (gen s g).lock = true) : deliverDeferred g s = s := if_pos hlock
theorem trigEnd_over {e : Nat} (he : (gen s g).pulseEnd = some e) (ht : e ≤ s.tb) :
    trigEnd g s = modGen g (fun x => { x with pulseEnd := none }) s := by
  simp only [trigEnd, he, ht, if_true]
/-- A token of a generator that the ring does not carry goes to this device's tiles at once (R136, R142). -/
theorem deliver_local (h : exported s t.gen = false) : deliver t s = toTiles t (trigPulse t.gen
    (modGen t.gen (fun x => { x with count := x.count + 1, lastDel := some s.tb, lastCount := some t.count }) s)) :=
  if_neg (Bool.eq_false_iff.mp h)

end Motion

/-- Settles O15: each event by what its unit does. -/
theorem axisAndGeneratorEvents : Obligations.AxisAndGeneratorEvents := by
  unfold Obligations.AxisAndGeneratorEvents
  refine ⟨?rate, ?delivered, ?refused, ?locked, ?pulseEnd, fun t s h => deliver_local h⟩
  case rate => exact fun a s h hf hd => next_event_live h (rateUpdate_even hf hd)
  case delivered =>
    exact fun g t ts d s h hb hl hd hm hlock =>
      next_event_live h ((deliverDeferred_due hb hl hd hlock).trans (tokenGoes_may hm))
  case refused =>
    exact fun g t ts d s h hb hl hd hm hlock =>
      next_event_live h ((deliverDeferred_due hb hl hd hlock).trans (tokenGoes_refused hm))
  case locked => exact fun g s h hlock => next_event_live h (deliverDeferred_locked hlock)
  case pulseEnd => exact fun g e s h he ht => next_event_live h (trigEnd_over he ht)

/-! ## Failed segments and ring tokens (R94, R153–R156, R161) -/

section Ring
variable {seg : Bool} {x : Nat × Token} {s : State}

theorem resendTimeout_due (h : (s.sw.nak.any fun x => x.1 == seg && decide (x.2.2.2 ≤ s.tb)) = true) : resendTimeout seg s = segFail seg s :=
  if_pos h
theorem onlyIf_true {b : Bool} {f : State → State} (h : b = true) : onlyIf b f s = f s := if_pos h
/-- A segment that had not failed is declared failed, and counted (R155, R156). -/
theorem segFail_new (h : segFailed s seg = false) : segFail seg s = causeOn 0x0B1 none 0x23 0 0 (incR (swk 0x34)
    (setB (swk 0x20) (if seg then 5 else 6) true (modSw (fun w => { w with
      nak := w.nak.filter (fun x => x.1 != seg), goodE := if seg then 0 else w.goodE, goodW := if seg then w.goodW else 0 }) s))) :=
  if_neg (Bool.eq_false_iff.mp h)
theorem segFail_again (h : segFailed s seg = true) : segFail seg s = modSw (fun w => { w with
    nak := w.nak.filter (fun x => x.1 != seg), goodE := if seg then 0 else w.goodE, goodW := if seg then w.goodW else 0 }) s :=
  if_pos h

/-- Switching a generator takes no time. -/
theorem resyncSwitch_tb (k : Token) (s : State) : (resyncSwitch k s).tb = s.tb := by
  have hsaved : ∀ (c : Bool) (f : SwSt → SwSt) (u : State), (if c then u else modSw f u).tb = u.tb := fun c f u => by cases c <;> rfl
  simp only [resyncSwitch, modSw_tb]
  split
  · rw [wr_tb, hsaved, modGen_tb]
  · rw [modSw_tb, wr_tb, wr_tb, wr_tb, hsaved, modGen_tb]
theorem resyncDone_otherState (h : swState s ≠ 6) : resyncDone s = s := if_neg fun hh => h hh.1

variable (hx : s.sw.tokQ.find? (fun x => decide (x.1 ≤ s.tb)) = some x)
include hx

theorem deliverRing_master (hm : rb s (swk 0) 3 = true) : deliverRing s =
    toTiles x.2 (trigPulse x.2.gen (modSw (fun w => { w with tokQ := w.tokQ.erase x }) s)) := by
  simp only [deliverRing, hx]
  exact if_pos hm

variable (hm : rb s (swk 0) 3 = false)
include hm

/-- What a follower does with a due token of the ring: dropped, refused, or delivered with or without a switch. -/
theorem deliverRing_follower : deliverRing s =
    if !aboveLast x s then modSw (fun w => { w with tokQ := w.tokQ.erase x }) s
    else if !genMay s x.2.gen then refuse (ownerOf s 0x07 x.2.gen) 0x22 (modSw (fun w => { w with tokQ := w.tokQ.erase x }) s)
    else
      let u := if swState s == 6 && s.sw.rsGens.contains x.2.gen then resyncSwitch x.2 (modSw (fun w => { w with tokQ := w.tokQ.erase x }) s)
        else modSw (fun w => { w with tokQ := w.tokQ.erase x }) s
      resyncDone (toTiles x.2 (trigPulse x.2.gen
        (modGen x.2.gen (fun g => { g with count := g.count + 1, lastDel := some u.tb, lastCount := some x.2.count }) u))) := by
  simp only [deliverRing, hx]
  exact if_neg (Bool.eq_false_iff.mp hm)
theorem deliverRing_old (ha : aboveLast x s = false) : deliverRing s = modSw (fun w => { w with tokQ := w.tokQ.erase x }) s := by
  rw [deliverRing_follower hx hm, ha, if_pos Bool.not_false]

variable (ha : aboveLast x s = true)
include ha

theorem deliverRing_refused (hg : genMay s x.2.gen = false) : deliverRing s =
    raiseHw 0x002 none 0x22 (ownerOf s 0x07 x.2.gen) (incR ⟨.part, 0, 0x300 + 4 * ownerOf s 0x07 x.2.gen⟩
      (modSw (fun w => { w with tokQ := w.tokQ.erase x }) s)) := by
  rw [deliverRing_follower hx hm, ha, hg, if_neg (by decide), if_pos Bool.not_false]
  rfl
theorem deliverRing_taken (hg : genMay s x.2.gen = true) (h6 : swState s ≠ 6) : deliverRing s = resyncDone (ringDelivered x s) := by
  have hswitch : (swState s == 6 && s.sw.rsGens.contains x.2.gen) = false := by simp [h6]
  rw [deliverRing_follower hx hm, ha, hg, if_neg (by decide), if_neg (by decide), hswitch]
  rfl
/-- In RESYNCING the first token above the last count switches its generator (R161). -/
theorem deliverRing_switched (hg : genMay s x.2.gen = true) (h6 : swState s = 6) (hr : s.sw.rsGens.contains x.2.gen = true) :
    deliverRing s = resyncDone (toTiles x.2 (trigPulse x.2.gen
      (modGen x.2.gen (fun g => { g with count := g.count + 1, lastDel := some s.tb, lastCount := some x.2.count })
        (resyncSwitch x.2 (modSw (fun w => { w with tokQ := w.tokQ.erase x }) s))))) := by
  have hswitch : (swState s == 6 && s.sw.rsGens.contains x.2.gen) = true := by rw [h6, hr]; rfl
  rw [deliverRing_follower hx hm, ha, hg, if_neg (by decide), if_neg (by decide), hswitch]
  dsimp only [if_true]
  rw [if_pos rfl, resyncSwitch_tb]
  rfl

end Ring

/-! ## Holdover (R157–R160) and lost followers (R159, R162) -/

section Holdover
variable {s : State}

section Lost
variable (hm : rb s (swk 0) 3 = false) (ht : timeLost s = true)
include hm ht

/-- A follower without TIME frames for 2 µs is in holdover; from LINKED its armed generators go on by themselves. -/
theorem holdoverStart_lost (hs : (swState s == 2 || decide (5 ≤ swState s)) = true) : holdoverStart s =
    let u := inHoldover (decide (5 ≤ swState s)) (if swState s = 6 then resyncUndo s else s)
    if decide (5 ≤ swState s) then u else forEach ((List.range 16).filter fun g => rb u (gk g 0) 4 && genArmed u g) genOwn u := by
  have hguard : (rb s (swk 0) 3 || !timeLost s || !(swState s == 2 || decide (5 ≤ swState s))) = false := by
    rw [hm, ht, hs]; rfl
  exact if_neg (Bool.eq_false_iff.mp hguard)
theorem holdoverStart_linked (h2 : swState s = 2) : holdoverStart s =
    forEach ((List.range 16).filter fun g => rb (inHoldover false s) (gk g 0) 4 && genArmed (inHoldover false s) g) genOwn (inHoldover false s) := by
  rw [holdoverStart_lost hm ht (by rw [h2]; rfl), h2]
  rfl
theorem holdoverStart_again (h5 : 5 ≤ swState s) (h6 : swState s ≠ 6) : holdoverStart s = inHoldover true s := by
  rw [holdoverStart_lost hm ht (by simp [h5]), decide_eq_true h5, if_neg h6]
  rfl
theorem holdoverStart_resyncing (h6 : swState s = 6) : holdoverStart s = inHoldover true (resyncUndo s) := by
  rw [holdoverStart_lost hm ht (by rw [h6]; rfl), h6]
  rfl

end Lost

section Over
variable {t : Nat} (h0 : s.sw.hold0 = some t) (ha : swAlone s = true) (ht : t + 1000000 * rf s (swk 0xC) 6 0 ≤ s.tb)
include h0 ha ht

/-- When HOLD.MS has passed only local ports count; the state is FALLBACK where it is chosen and a port is bound. -/
theorem holdoverEnd_over : holdoverEnd s = forEach ((List.range 8).filter (axSwarm s)) axisCheck
    (if swState s == 3 && rb s (swk 0) 7 && anyLocal s then setF (swk 0x20) 2 0 4 (holdoverOver s) else holdoverOver s) := by
  have hguard : (!swAlone s || decide (s.tb < t + 1000000 * rf s (swk 0xC) 6 0)) = false := by
    rw [ha, decide_eq_false (Nat.not_lt.mpr ht)]; rfl
  simp only [holdoverEnd, h0]
  exact if_neg (Bool.eq_false_iff.mp hguard)
theorem holdoverEnd_stays (h : swState s ≠ 3 ∨ rb s (swk 0) 7 = false ∨ anyLocal s = false) :
    holdoverEnd s = forEach ((List.range 8).filter (axSwarm s)) axisCheck (holdoverOver s) := by
  have hstay : (swState s == 3 && rb s (swk 0) 7 && anyLocal s) = false := by rcases h with h | h | h <;> simp [h]
  rw [holdoverEnd_over h0 ha ht, hstay]
  rfl
theorem holdoverEnd_fallback (h3 : swState s = 3) (h7 : rb s (swk 0) 7 = true) (hl : anyLocal s = true) :
    holdoverEnd s = forEach ((List.range 8).filter (axSwarm s)) axisCheck (setF (swk 0x20) 2 0 4 (holdoverOver s)) := by
  rw [holdoverEnd_over h0 ha ht, h3, h7, hl]
  rfl

end Over

theorem followerLost_silent {d : Nat} {x : Nat × Nat} (hx : s.sw.status.find? (fun x => x.1 == d) = some x)
    (h : (swMaster s && d != swNode s && decide (d < swN s) && decide (x.2 + 12000 ≤ s.tb) && !rb s (swk 0x24) d) = true) :
    followerLost d s = causeOn 0x0B3 none 0x23 0 0 (setB (swk 0x24) d true s) := by
  simp only [followerLost, hx]
  exact if_pos h
theorem swarmRefused_full (h : 64 ≤ s.sw.rx) : swarmRefused s = incR (swk 0x40) s := if_pos h
/-- A follower axis in holdover goes on at the last rate it heard (R157). -/
theorem extrapolate_alone {a : Nat} {x : Nat × Nat × Int × Nat}
    (h : (!axSwarm s a || !swAlone s || followsMaster s a || s.sw.fall || s.sw.hold0.isNone) = false)
    (hx : s.sw.pos.find? (fun x => x.1 == a) = some x) : extrapolate a s =
    moveAxis a (sdiff (posAdd (BitVec.ofNat 48 x.2.1) (x.2.2.1 * ((s.tb - x.2.2.2 : Nat) : Int) / 16000000000)) (axis s a).pos) true s := by
  simp only [extrapolate, h, hx, Bool.false_eq_true, if_false]

end Holdover

/-- Settles O18: each event by what its unit does. -/
theorem swarmLinkEvents : Obligations.SwarmLinkEvents := by
  unfold Obligations.SwarmLinkEvents
  refine ⟨?resend, ?fails, ?failedBefore, ?master, ?taken, ?switched, ?old, ?refused, fun s h => resyncDone_otherState h, ?lost, ?lostAgain,
    ?lostResyncing, ?ends, ?fallback, ?follower, ?discard, ?extrapolation⟩
  case resend => exact fun seg s h hn => next_event_live h (resendTimeout_due hn)
  case fails => exact fun seg s h h0 hf => next_event_live h ((onlyIf_true (by simpa using h0)).trans (segFail_new hf))
  case failedBefore => exact fun seg s h h0 hf => next_event_live h ((onlyIf_true (by simpa using h0)).trans (segFail_again hf))
  case master => exact fun x s h hx hm => next_event_live h (deliverRing_master hx hm)
  case taken => exact fun x s h hx hm ha hg h6 => next_event_live h (deliverRing_taken hx hm ha hg h6)
  case switched => exact fun x s h hx hm ha hg h6 hr => next_event_live h (deliverRing_switched hx hm ha hg h6 hr)
  case old => exact fun x s h hx hm ha => next_event_live h (deliverRing_old hx hm ha)
  case refused => exact fun x s h hx hm ha hg => next_event_live h (deliverRing_refused hx hm ha hg)
  case lost => exact fun s h hm ht h2 => next_event_live h (holdoverStart_linked hm ht h2)
  case lostAgain => exact fun s h hm ht h5 h6 => next_event_live h (holdoverStart_again hm ht h5 h6)
  case lostResyncing => exact fun s h hm ht h6 => next_event_live h (holdoverStart_resyncing hm ht h6)
  case ends => exact fun t s h h0 ha ht hstay => next_event_live h (holdoverEnd_stays h0 ha ht hstay)
  case fallback => exact fun t s h h0 ha ht h3 h7 hl => next_event_live h (holdoverEnd_fallback h0 ha ht h3 h7 hl)
  case follower => exact fun d x s h hx hl => next_event_live h (followerLost_silent hx hl)
  case discard => exact fun s h hr => next_event_live h (swarmRefused_full hr)
  case extrapolation => exact fun a x s h hs hx => next_event_live h (extrapolate_alone hs hx)

end Sys2Proof.Machine
end

section
/-! PROOFS. Regions of the logic fabric: REGION_CTL and READBACK (R93, R371, R372). -/

namespace Sys2Proof.Machine

/-! ## REGION_CTL (R93, R371) -/

/-- A packet whose command waits for an event: it is taken, and no reply is written yet (R74). -/
theorem hostRow_waits {opc code : Nat} {sel lenOk body} {p : Pkt} {s t : State} {pay : List Word} (h : runs opc p s = true)
    (hs : sel p.pay = true) (hl : lenOk p.pay p.pay.length = true) (hb : body (cmdOf opc p s) (taken p s) = ⟨t, code, pay, true⟩) :
    hostRow opc sel lenOk body noAfter p s = finish (waits p (sender p s) t) := by
  simp only [runs, Bool.and_eq_true, Option.isNone_iff_eq_none] at h
  obtain ⟨⟨ho, hbd⟩, htag⟩ := h
  rw [hostRow_runs ho hs hbd hl htag hb]
  rfl
theorem reservedSel_defined {hi lo n : Nat} {body : Cmd → State → Ans} {c : Cmd} {s : State} (h : fld (pw c 0) hi lo < n) :
    reservedSel hi lo n body c s = body c s := if_neg (Nat.not_le.mpr h)

section Regions
variable {op : Nat} {c : Cmd} {s : State}

theorem bodyRegion_denied (ho : (regOwner s (fld (pw c 0) 2 0) != c.part) = true) : bodyRegion op c s = Ans.deny c s 0 [] := if_pos ho

section Owned
variable (ho : regOwner s (fld (pw c 0) 2 0) = c.part) (hh : regionHeld s (fld (pw c 0) 2 0) = false)
  (hm : regOpMay op (regionState s (fld (pw c 0) 2 0)) = true)
include ho hh hm

/-- An operation by the owner, from a state that permits it. -/
theorem bodyRegion_owned : bodyRegion op c s = if op = 2 then clkStop (fld (pw c 0) 2 0) c s else Ans.ok (regOp op (fld (pw c 0) 2 0) s) [] := by
  simp only [bodyRegion, ho, hh, hm, bne_self_eq_false, Bool.not_true, Bool.false_eq_true, if_false]
theorem bodyRegion_ok (h2 : op ≠ 2) : bodyRegion op c s = Ans.ok (regOp op (fld (pw c 0) 2 0) s) [] := by
  rw [bodyRegion_owned ho hh hm, if_neg h2]

end Owned

/-- The nets of a region that are still high as CLKSTOP takes effect; which are is free (log entry 81). -/
def netsHigh (r : Nat) (s : State) : BitVec 8 := (fabOf (fabricRun r s) r).nets &&& (takeFree (fabricRun r s)).1.setWidth 8
theorem clkStop_low {r : Nat} (h : netsHigh r s = 0) : clkStop r c s = Ans.ok (fabricStopped r (takeFree (fabricRun r s)).2) [] := if_pos h
theorem clkStop_high {r : Nat} (h : netsHigh r s ≠ 0) : clkStop r c s =
    ⟨{ modFab r (fun x => { x with nets := netsHigh r s }) (takeFree (fabricRun r s)).2 with clkstop := some (r, ⟨c.q, c.tag, c.notify, c.part⟩) },
      0, [], true⟩ := if_neg h

/-- A region whose nets have stopped is STOPPED, and no net is high (R354, R371). -/
theorem regionState_fabricStopped (r : Nat) (s : State) : regionState (fabricStopped r s) r = 4 := by
  have hset : ∀ u, setRegion r 4 u = setF (fbk r 0) 2 0 4 u := fun _ => rfl
  rw [fabricStopped, hset, regionState, rf, setF, rd_wr_same, fld_setFld_same _ _ _ _ (by decide) (by decide) (by decide)]
theorem nets_fabricStopped {r : Nat} (hr : r < 8) (s : State) : (fabOf (fabricStopped r s) r).nets = 0 := by
  have hfabs : (fabricStopped r s).fabs = (modFab r (fun f => { f with nets := 0 }) s).fabs :=
    forEach_keeps (g := State.fabs) (fun _ _ => rfl) [0, 1, 2, 3] _
  rw [fabOf, hfabs, modFab, vget_vmod_same _ _ _ hr]

section Forced
variable {r : Nat} {w : Waiting}

/-- The waiting CLKSTOP is replied to, and waits no longer (R371). -/
def clkReplied (w : Waiting) (s : State) : State :=
  { firstReply w.q 0 w.tag w.notify [] s with insWait := s.insWait.erase w, clkstop := none }
/-- After 10 µs the command that waits is replied to, and the nets of a region still in RUN are forced low. -/
theorem clkForce_waiting (hc : s.clkstop = some (r, w)) : clkForce r s =
    clkReplied w (if regionState s r == 3 then setB (fbk r 0) 5 true (fabricStopped r s) else s) := by
  simp only [clkForce, hc, bne_self_eq_false, Bool.false_eq_true, if_false]
  rfl
theorem fabricStopped_insWait : (fabricStopped r s).insWait = s.insWait := by
  have hloop : (fabricStopped r s).insWait = (modFab r (fun f => { f with nets := 0 }) s).insWait :=
    forEach_keeps (g := State.insWait) (fun _ _ => rfl) [0, 1, 2, 3] _
  exact hloop
theorem clkForce_running (hc : s.clkstop = some (r, w)) (h3 : regionState s r = 3) : clkForce r s =
    { firstReply w.q 0 w.tag w.notify [] (setB (fbk r 0) 5 true (fabricStopped r s)) with insWait := s.insWait.erase w, clkstop := none } := by
  have hwait : ∀ u, (setB (fbk r 0) 5 true u).insWait = u.insWait := fun _ => rfl
  rw [clkForce_waiting hc, if_pos (beq_iff_eq.mpr h3), clkReplied, hwait, fabricStopped_insWait]
/-- A region that has left RUN by then is not forced. -/
theorem clkForce_left (hc : s.clkstop = some (r, w)) (h3 : regionState s r ≠ 3) : clkForce r s = clkReplied w s := by
  rw [clkForce_waiting hc, if_neg fun h => h3 (beq_iff_eq.mp h)]
theorem clkForce_none (hc : s.clkstop = none) : clkForce r s = s := by simp only [clkForce, hc]

end Forced
end Regions

/-! ## READBACK (R93, R372) -/

section Readback
variable {c : Cmd} {s : State}

/-- A READBACK by the owner, into its own pages, of a region that is loaded and that nothing holds. -/
theorem bodyReadback_accepted (ha : (pw c 1).toNat % 16 = 0) (h1 : 0x30000000 ≤ (pw c 1).toNat)
    (h2 : (pw c 1).toNat + imageBytes (bit (pw c 0) 8) ≤ 0x31000000) (ho : regOwner s (fld (pw c 0) 2 0) = c.part)
    (hp : ((List.range (((pw c 1).toNat - 0x30000000 + imageBytes (bit (pw c 0) 8) - 1) / 4096 + 1 - ((pw c 1).toNat - 0x30000000) / 4096)).any
      fun k => ownerOf s 0x0E (((pw c 1).toNat - 0x30000000) / 4096 + k) != c.part) = false)
    (hst : 2 ≤ regionState s (fld (pw c 0) 2 0)) (hh : regionHeld s (fld (pw c 0) 2 0) = false) (hf : opsFull s c.q = false) :
    bodyReadback c s = Ans.long c (.readback (fld (pw c 0) 2 0) ((pw c 1).toNat - 0x30000000) (bit (pw c 0) 8)
      (regionState s (fld (pw c 0) 2 0) == 4)) s := by
  have hrange : ¬ ((pw c 1).toNat < 0x30000000 ∨ 0x31000000 < (pw c 1).toNat + imageBytes (bit (pw c 0) 8)) := by omega
  simp only [bodyReadback, ha, hrange, ho, hp, Nat.not_lt.mpr hst, hh, hf, ne_eq, not_true, bne_self_eq_false, Bool.false_eq_true, if_false]
theorem readbackDone_image {r dest : Nat} {o : LongOp} {m coh : Bool} (ho : readbackOp s r = some o) (hk : o.kind = .readback r dest m coh) :
    readbackDone r s = complete o.q o.tag 0 [BitVec.ofNat 32 (imageBytes m + 2 ^ 31 * (coh && regionState (fabricRun r s) r == 4).toNat)]
      (putMemW dest (fabImage (fabricRun r s) r (imageBytes m)) { fabricRun r s with free := (fabricRun r s).free + 1 }) := by
  simp only [readbackDone, ho, hk]

end Readback

/-- Settles O28: REGION_CTL by `bodyRegion_owned`, its CLKSTOP by which nets are still high, and READBACK. -/
theorem regionCommands : Obligations.RegionCommands := by
  unfold Obligations.RegionCommands
  refine ⟨fun p s hr hl hop ho hh hm => ?reset, fun p s hr hl hop ho => ?startDenied, fun p s hr hl hop ho => ?clkstopDenied,
    fun p s hr hl hop ho => ?clkrunDenied, fun p s hr hl hop ho => ?clearDenied, fun p s hr hl hop ho hh hm => ?start,
    fun p s hr hl hop ho hh h3 => ?clkstop, fun r s hr => ⟨regionState_fabricStopped r s, nets_fabricStopped hr s⟩,
    fun p s hr hl hop ho hh hm => ?clkrun, fun p s hr hl hop ho hh hm => ?clear,
    fun r w s h hc h3 => next_event_live h (clkForce_running hc h3), fun r w s h hc h3 => next_event_live h (clkForce_left hc h3),
    fun r s h hc => next_event_live h (clkForce_none hc), fun p s hr hl ha h1 h2 ho hp hst hh hf => ?readback,
    fun r o dest m coh s h ho hk => next_event_live h (readbackDone_image ho hk)⟩
  case reset =>
    have hdef : fld (pw (cmdOf 0x74 p s) 0) 10 8 < 5 := (Nat.le_of_eq hop).trans_lt (by decide)
    have hbody := (reservedSel_defined (s := taken p s) hdef).trans (bodyRegion_ok (op := 0) ho hh hm (by decide))
    exact congrArg Host.Outcome.next (restRow_replies hr hl (by rw [hop]; rfl) hbody)
  case startDenied | clkstopDenied | clkrunDenied | clearDenied =>
    have hbody := bodyRegion_denied (op := fld (word p 0) 10 8) (c := cmdOf 0x74 p s) (s := taken p s) ho
    rw [deny_packet, hop] at hbody
    exact congrArg Host.Outcome.next (selRow_replies hr hl hop hbody)
  case start | clkrun | clear =>
    have hbody := bodyRegion_ok (op := fld (word p 0) 10 8) (c := cmdOf 0x74 p s) (s := taken p s) ho hh (by rw [hop]; exact hm) (by rw [hop]; decide)
    rw [hop] at hbody
    exact congrArg Host.Outcome.next (selRow_replies hr hl hop hbody)
  case clkstop =>
    have hbody : bodyRegion 2 (cmdOf 0x74 p s) (taken p s) = clkStop (fld (word p 0) 2 0) (cmdOf 0x74 p s) (taken p s) :=
      bodyRegion_owned ho hh (beq_iff_eq.mpr h3)
    by_cases hhigh : netsHigh (fld (word p 0) 2 0) (taken p s) = 0
    · refine congrArg Host.Outcome.next ((selRow_replies hr hl hop (hbody.trans (clkStop_low hhigh))).trans ?_)
      exact (if_pos hhigh).symm
    · refine congrArg Host.Outcome.next ((hostRow_waits hr (by rw [selOf_word hl, hop]; rfl) (by simp [lenIs, hl])
        (hbody.trans (clkStop_high hhigh))).trans ?_)
      exact (if_neg hhigh).symm
  case readback =>
    have hbody := bodyReadback_accepted (c := cmdOf 0x73 p s) (s := taken p s) ha h1 h2 ho hp hst hh hf
    exact congrArg Host.Outcome.next (plainRow_replies hr hl hbody)

end Sys2Proof.Machine
end

section
/-! PROOFS. DMA_CTL (R93, R387–R389, R393). -/

namespace Sys2Proof.Machine

section Dma
variable {op ch : Nat} {c : Cmd} {s : State}

theorem bodyDmaCtl_denied (ho : (dmaOwner s (fld (pw c 0) 5 0) != c.part) = true) : bodyDmaCtl op c s = Ans.deny c s 0 [] := if_pos ho

/-- Each operation from the states that permit it (R387–R389, R393). -/
theorem dmaCtl_pause (h1 : 1 ≤ dmaState s ch) (h2 : dmaState s ch ≤ 4) : dmaCtl 1 ch s = some (dmaPause ch s) := if_pos ⟨h1, h2⟩
theorem dmaCtl_resume (h : dmaState s ch = 3 ∨ dmaState s ch = 4) : dmaCtl 2 ch s = some (dmaResume ch s) := if_pos h
theorem dmaCtl_abort (h1 : 2 ≤ dmaState s ch) (h2 : dmaState s ch ≤ 4) : dmaCtl 3 ch s = some (dmaStop ch 5 s) := if_pos ⟨h1, h2⟩
theorem dmaCtl_enable (h : dmaState s ch = 0) : dmaCtl 4 ch s = some (setDmaState ch 1 (setB (dmk ch 0) 1 false
    (forEach [0x18, 0x1C, 0x20, 0x24] (fun o t => wr (dmk ch o) 0 t)
      (setPtr ch ((rd s (dmk ch 8)).toNat + 2 ^ 32 * (rd s (dmk ch 0xC)).toNat)
        (modDma ch (fun _ => { dmaEmpty with sp := rb s (dmk ch 4) 3 }) s))))) := if_pos h
theorem dmaCtl_disable (h : dmaState s ch = 1 ∨ dmaState s ch = 4 ∨ dmaState s ch = 5) : dmaCtl 5 ch s = some (dmaOff ch s) := if_pos h

variable {t : State} (ho : dmaOwner s (fld (pw c 0) 5 0) = c.part) (hb : busy s 0x0C (fld (pw c 0) 5 0) = false)
include ho hb

/-- An operation that the state of the channel permits answers the channel's new state. -/
theorem bodyDmaCtl_ok (h4 : op ≠ 4) (ht : dmaCtl op (fld (pw c 0) 5 0) s = some t) :
    bodyDmaCtl op c s = Ans.ok t (dmaAnswer (fld (pw c 0) 5 0) t) := by
  simp only [bodyDmaCtl, ho, hb, h4, ht, false_and, bne_self_eq_false, Bool.false_eq_true, if_false]
  rfl
/-- ENABLE asks for a sound ring: aligned, and where it lies in host memory, on a port of the owner's. -/
theorem bodyDmaCtl_enabled
    (hring : ¬ ((rd s (dmk (fld (pw c 0) 5 0) 8)).toNat % 32 ≠ 0 ∨ (rb s (dmk (fld (pw c 0) 5 0) 4) 3 = true ∧
      (roleOf s (dmaPort s (fld (pw c 0) 5 0)) ≠ 1 ∨ !((List.range 8).any fun j =>
        bound s (8 * dmaPort s (fld (pw c 0) 5 0) + j) && partOf s (8 * dmaPort s (fld (pw c 0) 5 0) + j) == c.part)))))
    (ht : dmaCtl 4 (fld (pw c 0) 5 0) s = some t) : bodyDmaCtl 4 c s = Ans.ok t (dmaAnswer (fld (pw c 0) 5 0) t) := by
  simp only [bodyDmaCtl, ho, hb, hring, ht, and_false, bne_self_eq_false, Bool.false_eq_true, if_false]
  rfl

end Dma

/-- Settles O35: the operation of the OP, from the states that permit it, and DENIED. -/
theorem dmaCommands : Obligations.DmaCommands := by
  unfold Obligations.DmaCommands
  refine ⟨fun p s hr hl hop ho => ?pauseDenied, fun p s hr hl hop ho => ?resumeDenied, fun p s hr hl hop ho => ?abortDenied,
    fun p s hr hl hop ho => ?enableDenied, fun p s hr hl hop ho => ?disableDenied, fun p s hr hl hop ho hb => ?kick,
    fun p s hr hl hop ho hb h1 h2 => ?pause, fun p s hr hl hop ho hb hst => ?resume, fun p s hr hl hop ho hb h1 h2 => ?abort,
    fun p s hr hl hop ho hb hst hring => ?enable, fun p s hr hl hop ho hb hst => ?disable⟩
  case pauseDenied | resumeDenied | abortDenied | enableDenied | disableDenied =>
    have hbody := bodyDmaCtl_denied (op := fld (word p 0) 10 8) (c := cmdOf 0xE0 p s) (s := taken p s) ho
    rw [deny_packet, hop] at hbody
    exact congrArg Host.Outcome.next (selRow_replies hr hl hop hbody)
  case kick =>
    have hdef : fld (pw (cmdOf 0xE0 p s) 0) 10 8 < 6 := (Nat.le_of_eq hop).trans_lt (by decide)
    have hbody := (reservedSel_defined (s := taken p s) hdef).trans (bodyDmaCtl_ok (op := 0) ho hb (by decide) rfl)
    exact congrArg Host.Outcome.next (restRow_replies hr hl (by rw [hop]; rfl) hbody)
  case pause => exact congrArg Host.Outcome.next (selRow_replies hr hl hop (bodyDmaCtl_ok ho hb (by decide) (dmaCtl_pause h1 h2)))
  case resume => exact congrArg Host.Outcome.next (selRow_replies hr hl hop (bodyDmaCtl_ok ho hb (by decide) (dmaCtl_resume hst)))
  case abort => exact congrArg Host.Outcome.next (selRow_replies hr hl hop (bodyDmaCtl_ok ho hb (by decide) (dmaCtl_abort h1 h2)))
  case enable => exact congrArg Host.Outcome.next (selRow_replies hr hl hop (bodyDmaCtl_enabled ho hb hring (dmaCtl_enable hst)))
  case disable => exact congrArg Host.Outcome.next (selRow_replies hr hl hop (bodyDmaCtl_ok ho hb (by decide) (dmaCtl_disable hst)))

end Sys2Proof.Machine
end

section
/-! PROOFS. The non-volatile memory: NVM_READ, NVM_WRITE and NVM_LOCK (R93, R432, R433). -/

namespace Sys2Proof.Machine

/-! ## NVM_READ, NVM_WRITE and NVM_LOCK (R93, R432, R433) -/

section Nvm
variable {c : Cmd} {s : State}

section Read
variable (ha : fld (pw c 0) 17 0 % 4 = 0) (hn : (fld (pw c 1) 7 0 = 0 || fld (pw c 1) 7 0 == 255) = false)
  (hr : (!nvmOneArea (fld (pw c 0) 17 0) (fld (pw c 1) 7 0) || nvmArea (fld (pw c 0) 17 0 / 256) == some 3) = false)
include ha hn hr

/-- NVM_READ of words of one area but the key's is P0's, and another partition's is DENIED. -/
theorem bodyNvmRead_inRange : bodyNvmRead c s = if c.part != 0 then Ans.deny c s 0 []
    else Ans.ok s ((List.range (fld (pw c 1) 7 0)).map fun i => nvmW s (fld (pw c 0) 17 0 + 4 * i)) := by
  simp only [bodyNvmRead, ha, hn, hr, ne_eq, not_true, Bool.false_eq_true, if_false]
theorem bodyNvmRead_ok (hp : c.part = 0) : bodyNvmRead c s =
    Ans.ok s ((List.range (fld (pw c 1) 7 0)).map fun i => nvmW s (fld (pw c 0) 17 0 + 4 * i)) := by
  rw [bodyNvmRead_inRange ha hn hr, hp]
  rfl
theorem bodyNvmRead_denied (hp : c.part ≠ 0) : bodyNvmRead c s = Ans.deny c s 0 [] := by
  rw [bodyNvmRead_inRange ha hn hr, if_pos (bne_iff_ne.mpr hp)]

end Read

/-- An NVM_WRITE inside one page of an area that the caller may write and that no lock closes (R432). -/
theorem bodyNvmWrite_accepted (hl : c.pay.length = 2 + fld (pw c 1) 6 0) (ha : fld (pw c 0) 17 0 % 4 = 0) (h1 : 1 ≤ fld (pw c 1) 6 0)
    (h2 : fld (pw c 1) 6 0 ≤ 64) (hmay : (c.part != 0 && nvmArea (fld (pw c 0) 17 0 / 256) != some 2) = false)
    (hbusy : (nvmBusy s || opsFull s c.q) = false)
    (href : nvmRefusal s (nvmArea (fld (pw c 0) 17 0 / 256)) (fld (pw c 0) 17 0) (fld (pw c 1) 6 0) = none)
    (hrange : nvmRangeBad s (nvmArea (fld (pw c 0) 17 0 / 256)) (fld (pw c 0) 17 0) (fld (pw c 1) 6 0) = false) :
    bodyNvmWrite c s = Ans.long c (.nvmWrite (fld (pw c 0) 17 0) (if nvmArea (fld (pw c 0) 17 0 / 256) = some 2 then
      (c.pay.drop 2).mapIdx fun i w => ffMerge s c.part (fld (pw c 0) 17 0 + 4 * i) w else c.pay.drop 2)) (setB (nvk 0) 0 true s) := by
  have hn : (fld (pw c 1) 6 0 = 0 || decide (64 < fld (pw c 1) 6 0)) = false := by simp; omega
  simp only [bodyNvmWrite, hl, ha, hn, hmay, hbusy, href, hrange, ne_eq, not_true, Bool.false_eq_true, if_false]

section Lock
variable (hm : fld (pw c 0) 2 0 ≠ 0)
include hm

theorem bodyNvmLock_accepted (hp : c.part = 0) (hbusy : (nvmBusy s || opsFull s c.q) = false) :
    bodyNvmLock c s = Ans.long c (.nvmLock (fld (pw c 0) 2 0)) (setB (nvk 0) 0 true s) := by
  simp only [bodyNvmLock, hm, hp, hbusy, bne_self_eq_false, Bool.false_eq_true, if_false]
theorem bodyNvmLock_denied (hp : c.part ≠ 0) : bodyNvmLock c s = Ans.deny c s 0 [] := by
  simp only [bodyNvmLock, hm, bne_iff_ne.mpr hp, if_true, if_false]

end Lock

section Written
variable {o : LongOp} {a : Nat} {ws : List Word} (ho : nvmOp s = some o) (hk : o.kind = .nvmWrite a ws)
include ho hk

/-- A page that is programmed holds the words written; the Firefly page and the key page have more to see to (R432). -/
theorem nvmWritten_done : nvmWritten true s =
    let t := putNvmW a ws (nvmIdle s)
    let u := if a / 256 = 65 then ffStored ((List.range 96).map (ffNvEntry (nvmIdle s))) t else t
    complete o.q o.tag 0 [] (if a / 256 = 66 then setB (nvk 0) 4 true (putNvmW 0x4210 [nvmW u 0x4210 &&& ~~~(8#32)] u) else u) := by
  simp only [nvmWritten, ho, hk, if_true]
  rfl
theorem nvmWritten_plain (h65 : a / 256 ≠ 65) (h66 : a / 256 ≠ 66) :
    nvmWritten true s = complete o.q o.tag 0 [] (putNvmW a ws (nvmIdle s)) := by
  rw [nvmWritten_done ho hk]
  dsimp only
  rw [if_neg h65, if_neg h66]
theorem nvmWritten_firefly (h65 : a / 256 = 65) : nvmWritten true s =
    complete o.q o.tag 0 [] (ffStored ((List.range 96).map (ffNvEntry (nvmIdle s))) (putNvmW a ws (nvmIdle s))) := by
  rw [nvmWritten_done ho hk]
  dsimp only
  rw [if_pos h65, if_neg (by rw [h65]; decide)]
theorem nvmWritten_key (h66 : a / 256 = 66) : nvmWritten true s = complete o.q o.tag 0 [] (setB (nvk 0) 4 true
    (putNvmW 0x4210 [nvmW (putNvmW a ws (nvmIdle s)) 0x4210 &&& ~~~(8#32)] (putNvmW a ws (nvmIdle s)))) := by
  rw [nvmWritten_done ho hk]
  dsimp only
  rw [if_neg (show ¬ a / 256 = 65 by rw [h66]; decide), if_pos h66]
/-- A page that fails for good is lost, and NVM_PAGE names it. -/
theorem nvmWritten_lost : nvmWritten false s = complete o.q o.tag 0x06 [0xACFF] (raiseHw 0x006 none 0x01 0
    (wr (nvk 0x10) (BitVec.ofNat 32 (a / 256 + 2 ^ 31)) (pageLost (a / 256) (setB (nvk 0) 0 false s)))) := by
  simp only [nvmWritten, ho, hk, Bool.false_eq_true, if_false]
  rfl

end Written

theorem nvmLocked_done {o : LongOp} {m : Nat} (ho : lockOp s = some o) (hk : o.kind = .nvmLock m) : nvmLocked s = complete o.q o.tag 0 []
    (setF (nvk 0) 10 8 (rf (setB (nvk 0) 0 false s) (nvk 0) 10 8 ||| m)
      (putNvmW 0x4210 [nvmW (setB (nvk 0) 0 false s) 0x4210 &&& ~~~(BitVec.ofNat 32 m)] (setB (nvk 0) 0 false s))) := by
  simp only [nvmLocked, ho, hk]

end Nvm

/-- Settles O31: the three bodies by their checks, and the ends of NVM_WRITE and NVM_LOCK. -/
theorem nvmCommands : Obligations.NvmCommands := by
  unfold Obligations.NvmCommands
  refine ⟨fun p s hr hl ha h1 h2 hrange hp => ?read, fun p s hr hl2 hl66 ha h1 h2 hl _ hmay hbusy href hrange => ?write,
    fun ok o a ws s h ho hk hok h65 h66 => ?stored, fun ok o a ws s h ho hk hok h65 => ?firefly, fun ok o a ws s h ho hk hok h66 => ?key,
    fun ok o a ws s h ho hk hok => ?lost, fun p s hr hl ha hn hrange hp => ?readDenied, fun p s hr hl hm hp => ?lockDenied,
    fun p s hr hl hm hp hbusy => ?lock, fun o m s h ho hk => next_event_live h (nvmLocked_done ho hk)⟩
  case read =>
    have hn : (fld (word p 1) 7 0 = 0 || fld (word p 1) 7 0 == 255) = false := by simp; omega
    have hbody := bodyNvmRead_ok (c := cmdOf 0xA0 p s) (s := taken p s) ha hn hrange hp
    exact congrArg Host.Outcome.next (plainRow_replies hr hl hbody)
  case write =>
    have hbody := bodyNvmWrite_accepted (c := cmdOf 0xA1 p s) (s := taken p s) hl ha h1 h2 hmay hbusy href hrange
    exact congrArg Host.Outcome.next (hostRow_replies hr rfl (by simp [hl2, hl66]) hbody)
  case stored => subst hok; exact next_event_live h (nvmWritten_plain ho hk h65 h66)
  case firefly => subst hok; exact next_event_live h (nvmWritten_firefly ho hk h65)
  case key => subst hok; exact next_event_live h (nvmWritten_key ho hk h66)
  case lost => subst hok; exact next_event_live h (nvmWritten_lost ho hk)
  case readDenied =>
    have hbody := bodyNvmRead_denied (c := cmdOf 0xA0 p s) (s := taken p s) (not_not.mp ha) hn hrange hp
    rw [deny_packet] at hbody
    exact congrArg Host.Outcome.next (plainRow_replies hr hl hbody)
  case lockDenied =>
    have hbody := bodyNvmLock_denied (c := cmdOf 0xA2 p s) (s := taken p s) hm hp
    rw [deny_packet] at hbody
    exact congrArg Host.Outcome.next (plainRow_replies hr hl hbody)
  case lock =>
    have hbody := bodyNvmLock_accepted (c := cmdOf 0xA2 p s) (s := taken p s) hm hp hbusy
    exact congrArg Host.Outcome.next (plainRow_replies hr hl hbody)

end Sys2Proof.Machine
end

section
/-! PROOFS. Refused hardware paths (R94), the fault collector (R406–R412), and the fault commands (R93, R413–R417). -/

namespace Sys2Proof.Machine

/-! ## Refused hardware paths (R94, R136, R294) -/

section Refused
variable {p unit g : Nat} {e : Entry} {late : Bool} {s : State}

/-- A refusal counts in HWDENY of its partition, reports source 0x002, and changes nothing else. -/
theorem rd_refuse_count : rd (refuse p unit s) ⟨.part, 0, 0x300 + 4 * p⟩ = rd s ⟨.part, 0, 0x300 + 4 * p⟩ + 1 := rd_wr_same ..
theorem rd_refuse_other {k : RKey} (h : k ≠ ⟨.part, 0, 0x300 + 4 * p⟩) : rd (refuse p unit s) k = rd s k := rd_wr_ne _ _ h
theorem refuse_frame : refuse p unit s = { s with regs := (refuse p unit s).regs, rep := s.rep ++ [hwReport 0x002 none unit p] } := rfl

/-- An action whose target another partition owns is refused. -/
theorem actEffect_refused (hb : actBad e.act0 e.act1 = false)
    (h : (fld e.act0 3 0 = 3 ∧ ownerOf s 0x0B (fld e.act0 14 8) ≠ e.owner) ∨ (fld e.act0 3 0 = 4 ∧ ownerOf s 0x04 (fld e.act0 14 8) ≠ e.owner) ∨
      (fld e.act0 3 0 = 5 ∧ ownerOf s 0x07 (fld e.act0 14 8) ≠ e.owner)) : actEffect e late s = refuse e.owner 0x24 s := by
  rcases h with ⟨ht, ho⟩ | ⟨ht, ho⟩ | ⟨ht, ho⟩ <;>
    simp only [actEffect, hb, ht, beq_eq_false_iff_ne.mpr ho, Bool.false_eq_true, if_false]
/-- The point that an axis has just reached makes no token where the generator's owner may not use the axis (R94); it keeps
its number (log entry 101). -/
theorem genMove_refused (hgap : sext 64 ((gen s g).nextT - BitVec.ofNat 64 ((axis s (rf s (gk g 0) 2 0)).pos.toNat * 65536)).toNat = 0)
    (hm : genMay s g = false) : genMove g s =
      modGen g (fun y => { y with lock := match y.lastPos with | some l => decide (sdiff (axis s (rf s (gk g 0) 2 0)).pos l < 0) | none => false })
        (refuse (ownerOf s 0x07 g) 0x22
          (modGen g (fun y => { y with next := y.next + 1, nextT := y.nextT + BitVec.ofNat 64 (1 * genPitch s g) }) s)) := by
  have hn : ((-(0 : Int)) / ((max 1 (genPitch s g) : Nat) : Int)).toNat + 1 = 1 := by rw [Int.neg_zero, Int.zero_ediv]; rfl
  unfold genMove
  dsimp only
  rw [hgap, hn, hm]
  rfl

end Refused

/-! ## Raises (R406, R408, R411, R412) -/

/-- A raise at NOTIFY or higher of a source whose PIN is set lowers FAULT_N. -/
theorem faultN_latchRaise {r : Report} {v : Nat} {s : State} (hv : v < 8) (h1 : 1 ≤ v) (hs : r.src < 512) (hp : rb s (srk r.src 0) 3 = true) :
    faultN (latchRaise r v s) = true := by
  have hpin : rb (latchRaise r v s) (srk r.src 0) 3 = true := by
    rw [rb, latchRaise_other r v s (by simp [srk]) (by simp [srk]) (sumK_ne _ _ _).symm]
    exact hp
  have hlatch : rb (latchRaise r v s) (srk r.src 4) 1 = true := by rw [rb, latchRaise_stat, raisedStat_latch]
  have hsev : 1 ≤ rf (latchRaise r v s) (srk r.src 4) 6 4 := by
    rw [rf, latchRaise_stat, raisedStat_severity _ _ hv]
    exact h1.trans (Nat.le_max_right _ _)
  refine List.any_eq_true.mpr ⟨r.src, List.mem_range.mpr hs, ?_⟩
  rw [hpin, hlatch, decide_eq_true hsev]
  rfl
/-- The collector takes a raise: it latches, captures the first error, offers the record to the writer, and reacts. -/
theorem takeReport_eq {r : Report} {v : Nat} {s : State} (hv : raiseSev s r = v) : takeReport r s =
    let u := latchRaise r v s
    let first := decide (1 ≤ v) && !rb u (flk 4) 0
    let w := writerOffer (faultWords r v first u) v (if first then captureRaise (faultWords r v first u) u else u)
    reactTo r.src r.mem v (if !faultN s && faultN w then mirrorRefusals w else w) := by
  subst hv
  rfl

/-! ## The record writer (R410) -/

section Writer
variable {ws : List Word} {v : Nat} {s : State}

theorem writerOffer_free (hb : s.flt.wrBusy = 0) : writerOffer ws v s = writerTake ws v s := if_pos hb
theorem writerOffer_waits (hb : s.flt.wrBusy ≠ 0) (hw : s.flt.wrWait = none) :
    writerOffer ws v s = modFlt (fun f => { f with wrWait := some (ws, v) }) s := by
  rw [writerOffer, if_neg hb, hw]
  rfl
theorem writerOffer_lost (hb : s.flt.wrBusy ≠ 0) (hw : s.flt.wrWait.isSome = true) : writerOffer ws v s = faultLost s := by
  rw [writerOffer, if_neg hb, if_neg (by simpa using Option.isSome_iff_ne_none.mp hw)]
/-- A record that finds the FIFO full is lost, and the writer was busy with it all the same. -/
theorem writerTake_full (hf : 64 ≤ s.flt.fifo.length) : writerTake ws v s = faultLost (modFlt (fun f => { f with wrBusy := 50 }) s) := if_pos hf
/-- A record enters the FIFO with the count of its source, is notified from NOTIFY on, and logged from LOGSEV on. -/
theorem writerTake_room (hf : s.flt.fifo.length < 64) : writerTake ws v s =
    let wd := ws.set 5 (BitVec.ofNat 32 (rf s (srk (fld (ws.getD 0 0) 16 8) 4) 31 16))
    let u := modFlt (fun f => { f with wrBusy := 50, fifo := f.fifo ++ [wd] }) s
    let t := if 1 ≤ v then forEach (List.range 8) notifyPort u else u
    if rf t (flk 0) 2 0 ≤ v then logRecord wd t else t := if_neg (Nat.not_le.mpr hf)
/-- The overflow source has been raised in the last 10 µs. -/
def overflowSoon (s : State) : Bool := match s.flt.lastOvf with | some t => decide (s.tb < t + 10000) | none => false
/-- A raise that is not recorded counts in LOST, and raises the overflow source at most once per 10 µs. -/
theorem faultLost_eq (s : State) : faultLost s = if overflowSoon s then incR (flk 8) s
    else raiseHw 0x00B none 0x01 0 (modFlt (fun f => { f with lastOvf := some s.tb }) (incR (flk 8) s)) := rfl
theorem rd_faultLost : rd (faultLost s) (flk 8) = rd s (flk 8) + 1 := by
  have hcount : rd (incR (flk 8) s) (flk 8) = rd s (flk 8) + 1 := rd_wr_same ..
  rw [faultLost_eq, ← hcount]
  split <;> rfl
theorem faultLost_rep : (faultLost s).rep = s.rep ++ (if overflowSoon s then [] else [hwReport 0x00B none 0x01 0]) := by
  rw [faultLost_eq]
  split
  · exact (List.append_nil s.rep).symm
  · rfl

end Writer

/-! ## Reactions (R406, R407) -/

section Degrade
variable {t c k e n : Nat} {m : Option Nat} {s : State}

/-- DEGRADE of a source of a tile is judged by the number of the source in its tile. -/
theorem degrade_tile (ht : k < 16) : degrade (0x100 + 16 * t + k) m s =
    match k with
    | 0 | 1 | 0xF => forEach (tilePorts t) fenceNow s
    | 2 | 3 | 4 | 5 | 6 | 0xD | 0xE => fenceNow (12 * t + m.getD 0) s
    | 7 | 8 | 9 => ffOff (12 * t + m.getD 0) s
    | _ => s := by
  have hdiv : (0x100 + 16 * t + k - 0x100) / 16 = t := by omega
  have hmod : (0x100 + 16 * t + k) % 16 = k := by omega
  have hge : 0x100 ≤ 0x100 + 16 * t + k := by omega
  unfold degrade
  rw [if_pos hge]
  dsimp only
  rw [hdiv, hmod]
  interval_cases k <;> rfl
/-- DEGRADE of an encoder port takes it out of service, and its axes are judged (R407). -/
theorem degrade_encoder {i : Nat} (hi : i < 0x100) (h : encOfSrc i m = some e) :
    degrade i m s = forEach (axesOf s e) axisCheck (modEnc e (fun x => { x with deg := true }) s) := by
  rw [degrade, if_neg (Nat.not_le.mpr hi), h]
theorem encOfSrc_port {i : Nat} (h : i = 0x040 + e ∨ i = 0x060 + e) (he : e < 32) : encOfSrc i m = some e := by
  have hmod : i % 32 = e := by omega
  rw [encOfSrc, if_pos (by omega), hmod]
/-- DEGRADE of the other units: an axis, a generator, a region, and the DMA channels of a port. -/
theorem degrade_other {i : Nat} (h1 : 0x080 < i) (h2 : i < 0x100) : degrade i m s =
    if 0x088 ≤ i ∧ i ≤ 0x097 then forceAxis (i % 8) s
    else if 0x0A0 ≤ i ∧ i ≤ 0x0AF then disarmGen (i - 0x0A0) s
    else if 0x0E0 ≤ i ∧ i ≤ 0x0EF then regionHalt (i % 8) s
    else if 0x0C0 ≤ i ∧ i ≤ 0x0C7 then
      forEach ((List.range 64).filter fun c => dmaPort s c == i - 0x0C0 && decide (1 ≤ dmaState s c) && decide (dmaState s c ≤ 4) &&
        (dch s c).stop.isNone) (fun c s => dmaStop c 3 s) s
    else s := by
  have henc : encOfSrc i m = none := by rw [encOfSrc, if_neg (by omega), if_neg (by omega)]
  rw [degrade, if_neg (Nat.not_le.mpr h2), henc]
theorem degrade_axis (hn : n < 16) : degrade (0x088 + n) m s = forceAxis (n % 8) s := by
  have hmod : (0x088 + n) % 8 = n % 8 := by omega
  rw [degrade_other (by omega) (by omega), if_pos (by omega), hmod]
theorem degrade_generator (hn : n < 16) : degrade (0x0A0 + n) m s = disarmGen n s := by
  rw [degrade_other (by omega) (by omega), if_neg (by omega), if_pos (by omega), Nat.add_sub_cancel_left]
theorem degrade_region (hn : n < 16) : degrade (0x0E0 + n) m s = regionHalt (n % 8) s := by
  have hmod : (0x0E0 + n) % 8 = n % 8 := by omega
  rw [degrade_other (by omega) (by omega), if_neg (by omega), if_neg (by omega), if_pos (by omega), hmod]
theorem degrade_port (hn : n < 8) : degrade (0x0C0 + n) m s =
    forEach ((List.range 64).filter fun c => dmaPort s c == n && decide (1 ≤ dmaState s c) && decide (dmaState s c ≤ 4) &&
      (dch s c).stop.isNone) (fun c s => dmaStop c 3 s) s := by
  rw [degrade_other (by omega) (by omega), if_neg (by omega), if_neg (by omega), if_neg (by omega), if_pos (by omega), Nat.add_sub_cancel_left]

end Degrade

/-- What becomes of the collector's reports while it is off (R412, R426). -/
theorem collect_off {s : State} (h : (s.por || s.rstn || s.pfail) = true) : collect s = { s with rep := [] } := if_pos h

/-! ## FAULT_READ, FAULT_CLEAR, SEVERITY_SET and INJECT (R93, R413–R417) -/

section Commands
variable {c : Cmd} {s : State}

theorem bodyFaultRead_records (h1 : 1 ≤ fld (pw c 0) 13 8) (h2 : fld (pw c 0) 13 8 ≤ 31) (hp : c.part = 0) : bodyFaultRead 0 c s =
    Ans.ok (modFlt (fun f => { f with fifo := f.fifo.drop (fld (pw c 0) 13 8) }) s)
      (BitVec.ofNat 32 (s.flt.fifo.take (fld (pw c 0) 13 8)).length :: (s.flt.fifo.take (fld (pw c 0) 13 8)).flatten) := by
  have hn : (fld (pw c 0) 13 8 = 0 || decide (31 < fld (pw c 0) 13 8)) = false := by simp; omega
  simp only [bodyFaultRead, hn, hp, bne_self_eq_false, Bool.false_eq_true, if_false]
theorem bodyFaultRead_capture (hp : c.part = 0) : bodyFaultRead 1 c s =
    Ans.ok s (BitVec.ofNat 32 (256 * (rb s (flk 4) 0).toNat) :: (List.range 8).map fun k => rd s (flk (0x20 + 4 * k))) := by
  simp only [bodyFaultRead, hp, bne_self_eq_false, Bool.false_eq_true, if_false]
theorem bodyFaultRead_captureDenied (hp : c.part ≠ 0) : bodyFaultRead 1 c s = Ans.deny c s 0 [] := if_pos (bne_iff_ne.mpr hp)
/-- The registers of sources in which the caller owns something. -/
theorem bodyFaultRead_status (h1 : 1 ≤ fld (pw c 0) 13 8) (h2 : fld (pw c 0) 24 16 + fld (pw c 0) 13 8 ≤ 512)
    (ho : (((List.range (fld (pw c 0) 13 8)).map (fld (pw c 0) 24 16 + ·)).any fun i => !ownsSome s c.part i) = false) : bodyFaultRead 2 c s =
    Ans.ok s ((0 : Word) :: ((List.range (fld (pw c 0) 13 8)).map (fld (pw c 0) 24 16 + ·)).flatMap fun i =>
      [0, 4, 8, 0xC].map (srcView s c.part i)) := by
  have hn : (fld (pw c 0) 13 8 = 0 || decide (512 < fld (pw c 0) 24 16 + fld (pw c 0) 13 8)) = false := by simp; omega
  simp only [bodyFaultRead, hn, firstOf_none ho, Bool.false_eq_true, if_false]
  rfl

/-- FAULT_CLEAR of sources that the caller owns and none of which has a live cause. -/
theorem bodyFaultClear_done {range : List Nat}
    (hn : (!bit (pw c 0) 31 && (fld (pw c 0) 25 16 = 0 || decide (512 < fld (pw c 0) 8 0 + fld (pw c 0) 25 16))) = false)
    (hr : (if bit (pw c 0) 31 then (List.range 512).filter fun i => latched s i && ownsLatched s c.part i
      else ((List.range (fld (pw c 0) 25 16)).map (fld (pw c 0) 8 0 + ·)).filter (latched s)) = range)
    (ho : (range.any fun i => !ownsLatched s c.part i) = false) (hl : (range.any fun i => liveMask s.flt i != 0) = false) :
    bodyFaultClear c s = Ans.ok (afterClear (forEach range (clearSrc (bit (pw c 0) 30)) s)) [] := by
  simp only [bodyFaultClear, hn, hr, firstOf_none ho, firstOf_none hl, Bool.false_eq_true, if_false]

section Severity
variable (hn : (fld (pw c 0) 25 16 = 0 || decide (512 < fld (pw c 0) 8 0 + fld (pw c 0) 25 16)) = false) (hv : ¬ 4 < fld (pw c 1) 2 0)
  (hu : (((List.range (fld (pw c 0) 25 16)).map (fld (pw c 0) 8 0 + ·)).filter srcUsed).isEmpty = false)
include hn hv hu

theorem bodySeverity_stored (hp : c.part = 0) (hlock : rb s (flk 0) 8 = false) : bodySeverity c s =
    Ans.ok (forEach (((List.range (fld (pw c 0) 25 16)).map (fld (pw c 0) 8 0 + ·)).filter srcUsed)
      (fun i t => setF (srk i 0) 3 0 (fld (pw c 1) 3 0) t) s) [] := by
  simp only [bodySeverity, hn, hv, hu, hp, hlock, bne_self_eq_false, Bool.false_eq_true, if_false]
theorem bodySeverity_denied (hp : c.part ≠ 0) : bodySeverity c s = Ans.deny c s 0 [] := by
  simp only [bodySeverity, hn, hv, hu, bne_iff_ne.mpr hp, Bool.false_eq_true, if_false, if_true]

end Severity

section Inject
variable {mode : Nat} (hc : (decide (0x010 ≤ fld (pw c 0) 8 0) && decide (fld (pw c 0) 8 0 ≤ 0x017)) = false)
  (hm : (!srcUsed (fld (pw c 0) 8 0) || (match srcMembers (fld (pw c 0) 8 0) with
    | some n => decide (n ≤ fld (pw c 0) 20 16) | none => fld (pw c 0) 20 16 != 0)) = false)
include hc hm

/-- INJECT at a member of a used source that is no ledger's is P0's, and another partition's is DENIED. -/
theorem bodyInject_member : bodyInject mode c s = if c.part != 0 then Ans.deny c s 0 []
    else Ans.ok (injectMode mode (fld (pw c 0) 8 0) (memOf (fld (pw c 0) 8 0) (fld (pw c 0) 20 16)) s) [] :=
  (if_neg (Bool.eq_false_iff.mp hc)).trans (if_neg (Bool.eq_false_iff.mp hm))
theorem bodyInject_ok (hp : c.part = 0) : bodyInject mode c s =
    Ans.ok (injectMode mode (fld (pw c 0) 8 0) (memOf (fld (pw c 0) 8 0) (fld (pw c 0) 20 16)) s) [] := by
  rw [bodyInject_member hc hm, hp]
  rfl
theorem bodyInject_denied (hp : c.part ≠ 0) : bodyInject mode c s = Ans.deny c s 0 [] := by
  rw [bodyInject_member hc hm, if_pos (bne_iff_ne.mpr hp)]

end Inject
end Commands

/-- A member that is held, or whose wire is marked broken, is raised where it was not active before (R416). -/
theorem injectMode_hold {i : Nat} {m : Option Nat} {s : State} (h : liveMask s.flt i &&& memBit m = 0) : injectMode 1 i m s =
    report (wireReport i m true false (modFlt (fun f => { f with hold := addBit f.hold i (memBit m) }) s))
      (modFlt (fun f => { f with hold := addBit f.hold i (memBit m) }) s) := if_pos h
theorem injectMode_wire {i : Nat} {m : Option Nat} {s : State} (h : (nget 0 s.flt.bw i ||| nget 0 s.flt.bwInj i) &&& memBit m = 0) :
    injectMode 2 i m s = report (wireReport i m true true (modFlt (fun f => { f with bwInj := addBit f.bwInj i (memBit m) }) s))
      (modFlt (fun f => { f with bwInj := addBit f.bwInj i (memBit m) }) s) := if_pos h

/-- Settles O30: refusals, what the collector does with a raise, the reactions, and each command by the checks of its body. -/
theorem faultCommands : Obligations.FaultCommands := by
  unfold Obligations.FaultCommands
  refine ⟨fun p unit s => ⟨rd_refuse_count, fun k h => rd_refuse_other h, refuse_frame⟩, fun e late s hb h => actEffect_refused hb h,
    fun g s hgap hm => genMove_refused hgap hm, fun r v s hv => ?latches, fun ws k s hl hk => ⟨captureRaise_held ws s, captureRaise_word ws s hl k hk⟩,
    fun r s => rfl, fun r v s hv => takeReport_eq hv, fun r v first s => rfl, fun ws v s hb hf => (writerOffer_free hb).trans (writerTake_room hf),
    fun ws v s hb hw => writerOffer_waits hb hw, fun ws v s hb hw => writerOffer_lost hb hw,
    fun ws v s hb hf => (writerOffer_free hb).trans (writerTake_full hf), fun s => ⟨rd_faultLost, faultLost_rep⟩,
    fun i m s => ⟨rfl, rfl, rfl, rfl, rfl, rfl, rfl⟩, fun t c k s ht hk => ?channel, fun t c k s ht hk => ?firefly, fun t k m s ht hk => ?tile,
    fun e s he => ?encoder, fun n m s hn => ⟨degrade_axis hn, degrade_generator hn, degrade_region hn, fun hn => degrade_port hn⟩,
    fun s h => collect_off h, fun r s h hr hn => collect_one h hr hn, fun p s hr hl hall ho hlive => ?clearAll,
    fun p s hr hl hop h1 h2 hp => ?records, fun p s hr hl hop hp => ?capture, fun p s hr hl hop h1 h2 ho => ?status,
    fun p s hr hl hall h1 h2 ho hlive => ?clear, fun p s hr hl h1 h2 hv hp hu hlock => ?severity,
    fun p s hr hl hop hp hc hm => ?raiseDenied, fun p s hr hl hop hp hc hm => ?holdDenied, fun p s hr hl hop hp hc hm => ?wireDenied,
    fun p s hr hl hop hp hc hm => ?releaseDenied, fun p s hr hl hop hp => ?captureDenied, fun p s hr hl hn hv hu hp => ?severityDenied,
    fun p s hr hl hop hp hc hm => ?raise, fun p s hr hl hop hp hc hm hlive => ?hold, fun p s hr hl hop hp hc hm hlive => ?wire,
    fun p s hr hl hop hp hc hm => ?release⟩
  case latches =>
    have hv8 : v < 8 := by omega
    refine ⟨?_, ?_, ?_, latchRaise_members r v s, latchRaise_summary r v s, fun k h1 h2 h3 => latchRaise_other r v s h1 h2 h3,
      latchRaise_frame r v s, fun hs h1 hp => faultN_latchRaise hv8 h1 hs hp⟩
    · rw [rf, latchRaise_stat, raisedStat_count]; rfl
    · rw [rb, latchRaise_stat, raisedStat_latch]
    · rw [rf, latchRaise_stat, raisedStat_severity _ _ hv8]; rfl
  case channel | firefly | tile =>
    have hk16 : k < 16 := by simp only [List.mem_cons, List.not_mem_nil, or_false] at hk; omega
    rw [degrade_tile hk16]
    fin_cases hk <;> rfl
  case encoder =>
    refine ⟨fun i hi m => ?_, degrade_encoder (by decide) rfl⟩
    simp only [List.mem_cons, List.not_mem_nil, or_false] at hi
    exact degrade_encoder (by omega) (encOfSrc_port hi he)
  case clearAll =>
    have hbody := bodyFaultClear_done (c := cmdOf 0x91 p s) (s := taken p s) (by rw [show bit (pw (cmdOf 0x91 p s) 0) 31 = true from hall]; rfl)
      (if_pos hall) ho hlive
    exact congrArg Host.Outcome.next (plainRow_replies hr hl hbody)
  case clear =>
    have hn : (fld (word p 0) 25 16 = 0 || decide (512 < fld (word p 0) 8 0 + fld (word p 0) 25 16)) = false := by simp; omega
    have hbody := bodyFaultClear_done (c := cmdOf 0x91 p s) (s := taken p s) (Bool.and_eq_false_iff.mpr (Or.inr hn))
      (if_neg (Bool.eq_false_iff.mp hall)) ho hlive
    exact congrArg Host.Outcome.next (plainRow_replies hr hl hbody)
  case records =>
    have hdef : fld (pw (cmdOf 0x90 p s) 0) 1 0 < 3 := (Nat.le_of_eq hop).trans_lt (by decide)
    have hbody := (reservedSel_defined (s := taken p s) hdef).trans (bodyFaultRead_records h1 h2 hp)
    exact congrArg Host.Outcome.next (restRow_replies hr hl (by rw [hop]; rfl) hbody)
  case capture => exact congrArg Host.Outcome.next (selRow_replies hr hl hop (bodyFaultRead_capture hp))
  case status => exact congrArg Host.Outcome.next (selRow_replies hr hl hop (bodyFaultRead_status h1 h2 ho))
  case severity =>
    have hn : (fld (word p 0) 25 16 = 0 || decide (512 < fld (word p 0) 8 0 + fld (word p 0) 25 16)) = false := by simp; omega
    have hbody := bodySeverity_stored (c := cmdOf 0x93 p s) (s := taken p s) hn (Nat.not_lt.mpr hv) hu hp hlock
    exact congrArg Host.Outcome.next (plainRow_replies hr hl hbody)
  case severityDenied =>
    have hbody := bodySeverity_denied (c := cmdOf 0x93 p s) (s := taken p s) hn hv hu hp
    rw [deny_packet] at hbody
    exact congrArg Host.Outcome.next (plainRow_replies hr hl hbody)
  case captureDenied =>
    have hbody := bodyFaultRead_captureDenied (c := cmdOf 0x90 p s) (s := taken p s) hp
    rw [deny_packet] at hbody
    exact congrArg Host.Outcome.next (selRow_replies hr hl hop hbody)
  case raiseDenied =>
    have hbody := bodyInject_denied (mode := 0) (c := cmdOf 0x92 p s) (s := taken p s) hc hm hp
    rw [deny_packet] at hbody
    exact congrArg Host.Outcome.next (restRow_replies hr hl (by rw [hop]; rfl) hbody)
  case holdDenied | wireDenied | releaseDenied =>
    have hbody := bodyInject_denied (mode := fld (word p 0) 25 24) (c := cmdOf 0x92 p s) (s := taken p s) hc hm hp
    rw [deny_packet, hop] at hbody
    exact congrArg Host.Outcome.next (selRow_replies hr hl hop hbody)
  case raise =>
    have hbody := bodyInject_ok (mode := 0) (c := cmdOf 0x92 p s) (s := taken p s) hc hm hp
    exact congrArg Host.Outcome.next (restRow_replies hr hl (by rw [hop]; rfl) hbody)
  case hold =>
    have hbody := bodyInject_ok (mode := 1) (c := cmdOf 0x92 p s) (s := taken p s) hc hm hp
    exact congrArg Host.Outcome.next (selRow_replies hr hl hop (hbody.trans (congrArg (Ans.ok · []) (injectMode_hold hlive))))
  case wire =>
    have hbody := bodyInject_ok (mode := 2) (c := cmdOf 0x92 p s) (s := taken p s) hc hm hp
    exact congrArg Host.Outcome.next (selRow_replies hr hl hop (hbody.trans (congrArg (Ans.ok · []) (injectMode_wire hlive))))
  case release =>
    have hbody := bodyInject_ok (mode := 3) (c := cmdOf 0x92 p s) (s := taken p s) hc hm hp
    exact congrArg Host.Outcome.next (selRow_replies hr hl hop hbody)

end Sys2Proof.Machine
end

section
/-! PROOFS. The position action queue as inserts reach it and as an axis moves, and the end of a marker pulse (R108, R294–R302). -/

namespace Sys2Proof.Machine

section Inserts
variable {i : Insert} {rest : List Insert} {s t : State}

/-- The insert in front of the buffer meets its fate, then an action rule that waits goes on. -/
theorem exec_insertTaken (hl : live s = true) (hb : s.insBuf = i :: rest) (ht : insertFate i { s with insBuf := rest } = t) :
    exec .insertTaken s = .next (finish (rulesGoOn t)) :=
  next_event_live hl (by rw [insertTake, hb, ← ht])

theorem insertFate_atQuota (hq : rf s ⟨.part, 0, 0x200 + 4 * i.owner⟩ 17 0 ≤ pendingOf s i.owner) :
    insertFate i s = insRefused i 0x18 0x0C 0x80 s := if_pos hq

variable (hq : pendingOf s i.owner < rf s ⟨.part, 0, 0x200 + 4 * i.owner⟩ 17 0)
include hq

theorem insertFate_queueFull (hf : 131072 ≤ s.paq.length) : insertFate i s = insRefused i 0x1C 0x0C 0x81 (setB (pqk 4) 3 true s) :=
  (if_neg (Nat.not_le.mpr hq)).trans (if_pos hf)

variable (hf : s.paq.length < 131072)
include hf

/-- With room under the quota and in the queue, the key decides. -/
theorem insertFate_room : insertFate i s = if ahead s i.axis i.key ≤ 0 then
    if i.execLate then insAccept i true s else insRefused i 0x20 0x0B 0 s else insAccept i false s :=
  (if_neg (Nat.not_le.mpr hq)).trans (if_neg (Nat.not_le.mpr hf))
theorem insertFate_executesLate (hk : ahead s i.axis i.key ≤ 0) (he : i.execLate = true) : insertFate i s = insAccept i true s := by
  rw [insertFate_room hq hf, if_pos hk, if_pos he]
theorem insertFate_tooLate (hk : ahead s i.axis i.key ≤ 0) (he : i.execLate = false) : insertFate i s = insRefused i 0x20 0x0B 0 s := by
  rw [insertFate_room hq hf, if_pos hk, if_neg (Bool.eq_false_iff.mp he)]
theorem insertFate_accepted (hk : 0 < ahead s i.axis i.key) : insertFate i s = insAccept i false s := by
  rw [insertFate_room hq hf, if_neg (Int.not_le.mpr hk)]

end Inserts

section Motion
variable {a p : Nat} {s : State}

/-- After a forward change, outside a pause, what is due executes (R297, R300). -/
theorem observe_forward (hd : 0 < sdiff (axis s a).pos (obsPos s a)) (hp : s.paused = false) :
    observe a s = forEach (execOrder { s with obs := vset s.obs a (axis s a).pos } (dueOn { s with obs := vset s.obs a (axis s a).pos } a))
      execEntry { s with obs := vset s.obs a (axis s a).pos } :=
  if_pos (by rw [decide_eq_true hd, hp]; rfl)
/-- Without a forward change, or in a pause, only the observed position follows (R302). -/
theorem observe_idle (h : sdiff (axis s a).pos (obsPos s a) ≤ 0 ∨ s.paused = true) :
    observe a s = { s with obs := vset s.obs a (axis s a).pos } := by
  refine if_neg ?_
  rcases h with hd | hp
  · rw [decide_eq_false (Int.not_lt.mpr hd)]
    exact Bool.false_ne_true
  · rw [hp, Bool.not_true, Bool.and_false]
    exact Bool.false_ne_true

theorem markEnd_over (h : (nget 0 s.markers (markerOf s p) != 0 && decide (nget 0 s.markers (markerOf s p) ≤ s.tb)) = true) :
    markEnd p s = { s with markers := nput 0 s.markers (markerOf s p) 0 } := if_pos h
theorem markEnd_idle (h : (nget 0 s.markers (markerOf s p) != 0 && decide (nget 0 s.markers (markerOf s p) ≤ s.tb)) = false) :
    markEnd p s = s := if_neg (Bool.eq_false_iff.mp h)

end Motion

/-- Settles O39: each insert by the first test that decides it, a move of an axis by its direction and the pause, and a
marker pulse by its end. -/
theorem insertsMeetTheQueue : Obligations.InsertsMeetTheQueue := by
  unfold Obligations.InsertsMeetTheQueue
  refine ⟨?quota, ?full, ?late, ?tooLate, ?accepted, ?forward, ?idle, ?markerOver, ?markerOn⟩
  case quota => exact fun i rest s hl hb hq => exec_insertTaken hl hb (insertFate_atQuota hq)
  case full => exact fun i rest s hl hb hq hf => exec_insertTaken hl hb (insertFate_queueFull hq hf)
  case late => exact fun i rest s hl hb hq hf hk he => exec_insertTaken hl hb (insertFate_executesLate hq hf hk he)
  case tooLate => exact fun i rest s hl hb hq hf hk he => exec_insertTaken hl hb (insertFate_tooLate hq hf hk he)
  case accepted => exact fun i rest s hl hb hq hf hk => exec_insertTaken hl hb (insertFate_accepted hq hf hk)
  case forward => exact fun a s hl hd hp => next_event_live hl (observe_forward hd hp)
  case idle => exact fun a s hl h => next_event_live hl (observe_idle h)
  case markerOver => exact fun pin s hl h => next_event_live hl (markEnd_over h)
  case markerOn => exact fun pin s hl h => next_event_live hl (markEnd_idle h)

end Sys2Proof.Machine
end

section
/-! PROOFS. Stream ports: frames, credits and the reverse lane (R110, R284–R287). -/

namespace Sys2Proof.Machine

section Streams
variable {k : Nat} {b : LBlock} {ws : List Word} {w0 w1 : Word} {s : State}

/-- With no record waiting the port sends the next LINE frame of the block under way, or of the oldest that may leave (R286). -/
theorem frameSend_line (hon : strmOn s k = true) (hup : rb s (stk k 4) 0 = true) (hc : ledGet s 6 k 2 ≠ 0) (hs : (strm s k).spent < 65535)
    (hr : (strm s k).recs = []) (hb : ((strm s k).lbs.find? (fun b => b.sent != 0)).orElse (fun _ => lbReady [] (strm s k).lbs) = some b) :
    frameSend k s = frameSend.lbFrame k b s := by
  rw [frameSend, if_neg (by simp [hon, hup, hc, hs]), hr]
  dsimp only
  cases hu : (strm s k).lbs.find? (fun b => b.sent != 0) with
  | some c => rw [hu] at hb; cases hb; rfl
  | none =>
    rw [hu, Option.orElse_none] at hb
    rw [hb]
/-- A LINE frame that leaves words of its block behind. -/
theorem lbFrame_more (hw : b.words = some ws) (hm : b.sent + 128 < ws.length) : frameSend.lbFrame k b s =
    frameOut k 1 (b.sent == 0) false ((ws.drop b.sent).take 128)
      (modStrm k (fun x => { x with lbs := x.lbs.map fun c => if c.id == b.id && c.fast == b.fast then { c with sent := c.sent + 128 } else c }) s) := by
  simp only [frameSend.lbFrame, hw, Option.getD_some, decide_eq_false (Nat.not_le.mpr hm), Bool.false_eq_true, if_false]
/-- The last LINE frame of a block: the block leaves the port and is counted. -/
theorem lbFrame_last (hw : b.words = some ws) (hm : ws.length ≤ b.sent + 128) : frameSend.lbFrame k b s =
    frameOut k 1 (b.sent == 0) true ((ws.drop b.sent).take 128)
      (incR (stk k 0x28) (modStrm k (fun x => { x with lbs := x.lbs.filter fun c => !(c.id == b.id && c.fast == b.fast) }) s)) := by
  simp only [frameSend.lbFrame, hw, Option.getD_some, decide_eq_true hm, if_true]

section Reverse
variable (hr : roleOf s k = 2)
include hr

theorem creditBlock_good (hc : crc16 (wordBytes w0) = w1.extractLsb' 0 16) {n : Nat}
    (hn : (if (strm s k).lost then 0 else (w0 - (strm s k).gLast).toNat) = n) : creditBlock k w0 w1 s =
    ledAdd 6 k 2 n (ledAdd 6 k 0 n (setB (stk k 4) 0 true (modStrm k (fun x => { x with lost := false, gLast := w0, spent := 0 }) s))) := by
  subst hn
  simp only [creditBlock, hr, hc, bne_self_eq_false, Bool.false_eq_true, if_false]
theorem creditBlock_bad (hc : crc16 (wordBytes w0) ≠ w1.extractLsb' 0 16) : creditBlock k w0 w1 s = incR (stk k 0x38) s := by
  simp only [creditBlock, hr, bne_iff_ne.mpr hc, bne_self_eq_false, Bool.false_eq_true, if_false, if_true]
theorem strmDown_stream : strmDown k s = setB (stk k 4) 0 false (modStrm k (fun x => { x with lost := true }) s) :=
  if_neg (by rw [hr]; decide)

end Reverse

theorem strmDown_otherRole (hr : roleOf s k ≠ 2) : strmDown k s = s := if_pos (bne_iff_ne.mpr hr)

end Streams

/-- Settles O46: a frame by what waits at the port, a credit block by its CRC and the state of the lane, and the loss of the
lane by the port's role. -/
theorem streamPortsSend : Obligations.StreamPortsSend := by
  unfold Obligations.StreamPortsSend
  refine ⟨?records, ?lineMore, ?lineLast, ?silent, ?credits, ?base, ?badCredit, ?lost, ?otherRole⟩
  case records => exact fun k kind ws r s hl hon hup hc hs hr => next_event_live hl (frameSend_recs hon hup hc hs hr)
  case lineMore =>
    exact fun k b ws s hl hon hup hc hs hr hb hw hm =>
      next_event_live hl ((frameSend_line hon hup hc hs hr hb).trans (lbFrame_more hw hm))
  case lineLast =>
    exact fun k b ws s hl hon hup hc hs hr hb hw hm =>
      next_event_live hl ((frameSend_line hon hup hc hs hr hb).trans (lbFrame_last hw hm))
  case silent => exact fun k s hl h => next_event_live hl (frameSend_not h)
  case credits => exact fun k w0 w1 s hl hr hc hx => next_event_live hl (creditBlock_good hr hc (if_neg (Bool.eq_false_iff.mp hx)))
  case base => exact fun k w0 w1 s hl hr hc hx => next_event_live hl (creditBlock_good hr hc (if_pos hx))
  case badCredit => exact fun k w0 w1 s hl hr hc => next_event_live hl (creditBlock_bad hr hc)
  case lost => exact fun k s hl hr => next_event_live hl (strmDown_stream hr)
  case otherRole => exact fun k s hl hr => next_event_live hl (strmDown_otherRole hr)

end Sys2Proof.Machine
end

section
/-! PROOFS. The conservation ledger and its commands (R103–R116). -/

namespace Sys2Proof.Machine

/-! ## What is counted keeps the balance (R103, R105, R108, R112) -/

/-- Entries that leave the queue are counted out of the pending ones of their owners (R108). -/
theorem balanced_removeEntries {p : Entry → Bool} {term c i : Nat} {s : State} (ht : term ∈ [1, 2, 3, 4, 5]) (hi : i < 4096)
    (ho : ∀ e ∈ s.paq, e.owner < 4096) (hp : ∀ o, ((s.paq.filter p).filter fun e => e.owner == o).length ≤ ledGet s 3 o 6)
    (hb : balanced c i s) : balanced c i (removeEntries p term s) :=
  balanced_gone (s := { s with paq := s.paq.filter fun e => !p e }) (s.paq.filter p) ht hi (fun e he => ho e (List.mem_of_mem_filter he))
    hp (balanced_congr rfl hb)
/-- Conversions that are aborted together, each counted as it ends (R112). -/
theorem balanced_aborts (ts : List (Fin 8)) {c i : Nat} {s : State} (hi : i < 4096) (hb : balanced c i s) :
    balanced c i (forEach (ts.map (·.val)) (fun t s => ledAdd 8 t 2 1 (ledAdd 8 t 0 1 s)) s) := by
  induction ts generalizing s with
  | nil => exact hb
  | cons t ts ih => exact ih (balanced_conv t.isLt hi (by decide) hb)

/-! ## LEDGER_SNAP and LEDGER_READ (R113–R116) -/

/-- A packet that runs, of a row with work after the reply. -/
theorem hostRow_followed {opc st : Nat} {sel lenOk body after} {p : Pkt} {s t : State} {pay : List Word} (h : runs opc p s = true)
    (hs : sel p.pay = true) (hl : lenOk p.pay p.pay.length = true) (hb : body (cmdOf opc p s) (taken p s) = ⟨t, st, pay, false⟩) :
    hostRow opc sel lenOk body after p s =
      finish (after (cmdOf opc p s) st (firstReply p.q.val st p.tag.toNat (p.flags.getLsbD 0) pay t)) := by
  simp only [runs, Bool.and_eq_true, Option.isNone_iff_eq_none] at h
  obtain ⟨⟨ho, hbd⟩, htag⟩ := h
  rw [hostRow_runs ho hs hbd hl htag hb]
  rfl
/-- LEDGER_SNAP takes the snapshot of the packet's partition. -/
theorem bodySnap_packet (p : Pkt) (s : State) : bodySnap (cmdOf 0x80 p s) (taken p s) =
    ⟨snapped (sender p s) (taken p s), 0,
      [BitVec.ofNat 32 (snapNext (sender p s) (taken p s))] ++ words64 (taken p s).tb ++ [snapFlags (sender p s) (taken p s)], false⟩ := rfl
/-- Only a snapshot of P0 goes to a stream port. -/
theorem snapStream_tenant {c : Cmd} (hp : c.part ≠ 0) (st : Nat) (s : State) : snapStream c st s = s := if_pos (Or.inr hp)

/-- LEDGER_READ of blocks in range of a section that the caller may read, from the snapshot it names. -/
theorem bodyLedRead_ok {c : Cmd} {insts words : Nat} {x : Snap} {s : State} (hsec : section_ (fld (pw c 1) 7 0) = some (insts, words))
    (hn : 1 ≤ fld (pw c 1) 15 8) (hi : fld (pw c 1) 31 16 + fld (pw c 1) 15 8 ≤ insts) (hw : 2 + fld (pw c 1) 15 8 * words ≤ 255)
    (hp : (c.part != 0 && [6, 8, 0xA, 0xB].contains (fld (pw c 1) 7 0)) = false)
    (hx : (s.snaps.find? fun x => x.part == c.part && BitVec.ofNat 32 x.seq == pw c 0) = some x)
    (hprior : fld (pw c 1) 7 0 ≠ 0x0B ∨ prior s = true) :
    bodyLedRead c s = Ans.ok s (pw c 0 :: pw c 1 :: (List.range (fld (pw c 1) 15 8)).flatMap fun i =>
      ledBlock s x c.part (fld (pw c 1) 7 0) (fld (pw c 1) 31 16 + i)) := by
  have hrange : (decide (fld (pw c 1) 15 8 = 0) || decide (insts < fld (pw c 1) 31 16 + fld (pw c 1) 15 8)) = false := by
    rw [decide_eq_false (by omega), decide_eq_false (by omega)]
    rfl
  have hrecord : ¬ (fld (pw c 1) 7 0 = 0x0B ∧ (!prior s) = true) := by
    rintro ⟨hb, hno⟩
    rcases hprior with h | h
    · exact h hb
    · rw [h] at hno
      exact absurd hno (by decide)
  unfold bodyLedRead
  simp only [hsec, hrange, Nat.not_lt.mpr hw, hp, hx, hrecord, Bool.false_eq_true, if_false]

/-- Settles O29: each way of counting is one that enters units or passes them on, and the two commands answer by their bodies. -/
theorem ledgerCommands : Obligations.LedgerCommands := by
  unfold Obligations.LedgerCommands
  refine ⟨?enter, ?move, ?replied, ?discarded, ?aborted, ?reply, ?line, ?event, ?marker, ?entries, ?conversion, ?aborts, ?frame, ?credit,
    ?snapTenant, ?snapP0, ?read⟩
  case enter => exact fun c i t n s ht hi hb => balanced_enter ht hi hi hb
  case move => exact fun c i t u n s ht hu htu hn hi hb => balanced_move ht hu htu hi hi hn hb
  case replied => exact fun p st pay c i s hp hi hb => balanced_replied p.q.isLt hi hp hb
  case discarded => exact fun q c i s hi hb => balanced_discard q.isLt hi hb
  case aborted => exact fun w c i s hq hp hi hb => balanced_abort hq hi hp hb
  case reply => exact fun q st tag n pay c i s hp hi hb => balanced_firstReply q.isLt hi hp hb
  case line => exact fun n l excl c i s he hi hb => balanced_line n.isLt hi he hb
  case event => exact fun n c i s hi hb => balanced_event n.isLt hi hb
  case marker => exact fun n c i s hi hb => balanced_marker n.isLt hi hb
  case entries => exact fun p term c i s ht ho hp hi hb => balanced_removeEntries ht hi ho hp hb
  case conversion => exact fun t c i s hi hb => balanced_conv t.isLt hi (by decide) hb
  case aborts => exact fun ts c i s hi hb => balanced_aborts ts hi hb
  case frame => exact fun k kind a b pay c i s hp hi hb => balanced_frame k.isLt hi hp hb
  case credit => exact fun k a b c i s hi hb => balanced_credit k.isLt hi hb
  case snapTenant =>
    intro p s hr hl hp
    refine congrArg Host.Outcome.next ((hostRow_followed hr rfl (by simp [lenIs, hl]) (bodySnap_packet p s)).trans ?_)
    rw [snapStream_tenant hp, replied]
  case snapP0 =>
    exact fun p s hr hl _ => congrArg Host.Outcome.next (hostRow_followed hr rfl (by simp [lenIs, hl]) (bodySnap_packet p s))
  case read =>
    intro p insts words x s hr hl hsec hn hi hw hp hx hprior
    have hbody := bodyLedRead_ok (c := cmdOf 0x81 p s) (s := taken p s) hsec hn hi hw hp hx hprior
    exact congrArg Host.Outcome.next (plainRow_replies hr hl hbody)

end Sys2Proof.Machine
end

section
/-! PROOFS. Encoders and axes: samples of A and B, Z edges, loss of signal and failover (R118–R130). -/

namespace Sys2Proof.Machine

/-! ## Samples of A and B, and Z edges (R118–R122, R396, R441) -/

section Samples
variable {e : Nat} {a b : Bool} {s : State}

/-- Without its supply a pin brings nothing. -/
theorem powered_off {p : Pin} {f : State → State} (h : pinPowered s p = false) : powered p f s = s := if_neg (Bool.eq_false_iff.mp h)

/-- A sample that rises refuses no pin where none of another partition carries the port's inputs (R396). -/
theorem pinRefusals_sampled (h : noEdgePins e s = true) (k : Nat) :
    pinRefusals 4 ((List.range 256).filter fun p => p % 32 == e && p / 32 % 2 == k) 0x05 e (sampled e a b s) = sampled e a b s := by
  refine pinRefusals_none fun p hp hc => ?_
  obtain ⟨hr, hm⟩ := List.mem_filter.mp hp
  have hpin := List.all_eq_true.mp h p hr
  have hcarry : pinCarries s p 4 = true := hc
  simp only [Bool.and_eq_true] at hm
  simp only [hm.1, hcarry, Bool.true_and, Bool.not_eq_true', bne_eq_false_iff_eq] at hpin
  exact hpin

variable (hu : unfiltered e s = true) (hn : noEdgePins e s = true)
include hu hn

/-- A and B changing at once in a quadrature mode count nothing but the error (R120). -/
theorem encSample_illegal (hb : (((encP s e).a != a) && ((encP s e).b != b)) = true) (h1 : 1 ≤ rf s (ek e 0) 2 0)
    (h3 : rf s (ek e 0) 2 0 ≤ 3) : encSample e a b s =
      raiseHw (0x060 + e) none 0x20 (ownerOf s 0x05 e) (incR (ek e 0x10) (sampled e a b s)) := by
  obtain ⟨hA, hB⟩ := Bool.and_eq_true_iff.mp hu
  simp only [encSample, hA, hB, if_true, ← sampled.eq_1, pinRefusals_sampled hn, ite_self, hb, h1, h3, decide_true, Bool.and_self]
  rfl
/-- A sample that the mode counts, 20 ns or more after the last, moves CNT and the axes (R119, R121). -/
theorem encSample_counts {d : Int} (hb : (((encP s e).a != a) && ((encP s e).b != b)) = false)
    (hd : edgeCount (rf s (ek e 0) 2 0) (encP s e).a (encP s e).b a b = some d)
    (hl : ∀ l, (encP s e).lastEdge = some l → l + 20 ≤ s.tb) : encSample e a b s =
      portCount e (if rb s (ek e 0) 3 then -d else d) (wr (ek e 8) (rd s (ek e 8) + intW (if rb s (ek e 0) 3 then -d else d))
        (modEnc e (fun y => { y with lastEdge := some s.tb }) (sampled e a b s))) := by
  obtain ⟨hA, hB⟩ := Bool.and_eq_true_iff.mp hu
  have htb : (sampled e a b s).tb = s.tb := rfl
  simp only [encSample, hA, hB, if_true, ← sampled.eq_1, pinRefusals_sampled hn, ite_self, hb, hd, htb, Bool.false_and,
    Bool.false_eq_true, if_false]
  cases hlast : (encP s e).lastEdge with
  | none => rfl
  | some l =>
    have hslow : decide (s.tb < l + 20) = false := decide_eq_false (Nat.not_lt.mpr (hl l hlast))
    simp only [hslow, Bool.false_eq_true, if_false]
    rfl

end Samples

/-- A Z edge that the filter accepts and the gate on A and B lets pass latches the count, and counts (R122). -/
theorem encZ_latches {e : Nat} {s : State} (he : e < 32)
    (hg : (decide (1 ≤ rf s (ek e 0) 2 0) && decide (rf s (ek e 0) 2 0 ≤ 3) && rb s (ek e 0) 12 && !((encP s e).a && (encP s e).b)) = false)
    (hf : filterPassed s e (if (encP s e).z == !rb s (ek e 0) 13 then 2 else 1) (encP s e).chgZ = true) : encZ e s =
      incR (ek e 0x14) (wr (ek e 0xC) (rd s (ek e 8)) (modEnc e (fun y => { y with z := !rb s (ek e 0) 13, chgZ := some s.tb }) s)) := by
  have hx : encP (modEnc e (fun y => { y with z := !rb s (ek e 0) 13, chgZ := some s.tb }) s) e =
      { encP s e with z := !rb s (ek e 0) 13, chgZ := some s.tb } := vget_vmod_same _ _ _ he
  have hr : ∀ (f : Enc → Enc) (i : Nat), rb (modEnc e f s) (ek e 0) i = rb s (ek e 0) i := fun _ _ => rfl
  simp only [encZ, hf, Bool.not_true, Bool.false_eq_true, if_false, hx, hr, hg]
  rfl

/-- Settles O12: counted samples by `encSample_counts`, Z edges by `encZ_latches`; without its supply a pin brings neither. -/
theorem encoderEdgesCount : Obligations.EncoderEdgesCount := by
  unfold Obligations.EncoderEdgesCount
  refine ⟨?counts, ?latches, ?darkAB, ?darkZ⟩
  case counts =>
    intro e a b d s h hp hn hb hd hl hu
    have hslow : ∀ l, (encP s e.val).lastEdge = some l → l + 20 ≤ s.tb := fun l hlast => by
      simpa only [hlast, decide_eq_false_iff_not, Nat.not_lt] using hl
    exact next_event_live h (powered_on hp (encSample_counts hu hn hb hd hslow))
  case latches => exact fun e s h hp hg hf => next_event_live h (powered_on hp (encZ_latches e.isLt hg hf))
  case darkAB => exact fun e a b s h hp => next_event_live h (powered_off hp)
  case darkZ => exact fun e s h hp => next_event_live h (powered_off hp)

/-- Settles O50: `encSample_illegal`, and the default severity of the sources. -/
theorem illegalTransitions : Obligations.IllegalTransitions := by
  unfold Obligations.IllegalTransitions
  refine ⟨fun e a b s h hp hn hb h1 h3 hu => next_event_live h (powered_on hp (encSample_illegal hu hn hb h1 h3)), ?severity⟩
  case severity => decide

/-! ## Loss of signal and failover (R123, R128, R130) -/

/-- Settles O13: the two ways of the detector are `encLos_on` and `encLos_off`. -/
theorem signalLossIsJudged : Obligations.SignalLossIsJudged := by
  unfold Obligations.SignalLossIsJudged
  exact ⟨fun e onB s h hw => next_event_live h (encLos_on hw), fun e onB s h hA hB => next_event_live h (encLos_off hA hB)⟩

/-- What a bit's write leaves in the register file hangs on the register file alone. -/
theorem setB_congr {s t : State} {k : RKey} {i : Nat} {b : Bool} (h : s.regs = t.regs) : (setB k i b s).regs = (setB k i b t).regs := by
  simp only [setB, wr, rd, h]
/-- STAT and FOVCNT of an axis that has failed over with cause `c` (R128). -/
def markedOver (a c : Nat) (s : State) : State := incR (ak a 0x2C) (setF (ak a 0x10) 2 1 c (setB (ak a 0x10) 0 true s))

section Failover
variable {a c : Nat} {s : State}

theorem rd_markedOver_other {k : RKey} (h1 : k ≠ ak a 0x10) (h2 : k ≠ ak a 0x2C) : rd (markedOver a c s) k = rd s k := by
  rw [markedOver, incR, rd_wr_ne _ _ h2, rd_setF_ne _ _ _ _ h1, rd_setB_ne _ _ _ h1]
theorem rd_markedOver_count : rd (markedOver a c s) (ak a 0x2C) = rd s (ak a 0x2C) + 1 := by
  rw [markedOver, incR, rd_wr_same, rd_setF_ne _ _ _ _ (by simp [ak]), rd_setB_ne _ _ _ (by simp [ak])]
theorem rd_markedOver_stat : rd (markedOver a c s) (ak a 0x10) = setFld (setBit (rd s (ak a 0x10)) 0 true) 2 1 c := by
  rw [markedOver, incR, rd_wr_ne _ _ (by simp [ak]), setF, rd_wr_same, setB, rd_wr_same]

theorem failover_again (h : onBackup s a = true) : failover a c s = s := if_pos h

variable (h : onBackup s a = false) (hadj : rb s (ak a 0) 16 = false)
include h hadj

/-- A failover without ADJ marks the registers, sets the cause and judges NOSRC. -/
theorem failover_first : failover a c s = updNoSrc a (causeOn (0x088 + a) none 0x21 0 0
    (modAxis a (fun x => { x with noPort := (bkpOf (markedOver a c s) a).isNone }) (markedOver a c s))) := by
  have hcfg : ∀ t : State, t.regs = (markedOver a c s).regs → rb t (ak a 0) 16 = false := fun t ht => by
    rw [rb_congr ht, rb, rd_markedOver_other (by simp [ak]) (by simp [ak])]
    exact hadj
  have hstep : rb (causeOn (0x088 + a) none 0x21 0 0
      (modAxis a (fun x => { x with noPort := (bkpOf (markedOver a c s) a).isNone }) (markedOver a c s))) (ak a 0) 16 = false :=
    hcfg _ (causeOn_regs ..)
  simp only [failover, ← markedOver.eq_1, h, hstep, Bool.false_eq_true, if_false]
/-- Beside STAT.NOSRC the registers stand as the failover marked them. -/
theorem failover_regs : ∃ n, (failover a c s).regs = (setB (ak a 0x10) 3 n (markedOver a c s)).regs := by
  rw [failover_first h hadj, updNoSrc_regs]
  exact ⟨_, setB_congr (causeOn_regs ..)⟩
theorem rd_failover_stat : ∃ n, rd (failover a c s) (ak a 0x10) = setBit (setFld (setBit (rd s (ak a 0x10)) 0 true) 2 1 c) 3 n := by
  obtain ⟨n, hn⟩ := failover_regs (c := c) h hadj
  exact ⟨n, by rw [rd_congr hn, setB, rd_wr_same, rd_markedOver_stat]⟩
theorem rd_failover_count : rd (failover a c s) (ak a 0x2C) = rd s (ak a 0x2C) + 1 := by
  obtain ⟨n, hn⟩ := failover_regs (c := c) h hadj
  rw [rd_congr hn, rd_setB_ne _ _ _ (by simp [ak]), rd_markedOver_count]
/-- A failover without ADJ leaves the position. -/
theorem failover_pos (ha : a < 8) : (axis (failover a c s) a).pos = (axis s a).pos := by
  have haxes : (failover a c s).axes = vmod s.axes a fun x => { x with noPort := (bkpOf (markedOver a c s) a).isNone } := by
    rw [failover_first h hadj, updNoSrc_axes, causeOn_axes]
    rfl
  rw [axis, haxes, vget_vmod_same _ _ _ ha]
  rfl

end Failover

/-- Settles O14: the registers of a failover without ADJ, its position, and the axis that stays on its backup. -/
theorem failoverRule : Obligations.FailoverRule := by
  unfold Obligations.FailoverRule
  refine ⟨fun a c s h ha hc hadj => ⟨?backup, ?cause, rd_failover_count h hadj, failover_pos h hadj ha⟩, fun a c s h => failover_again h⟩
  case backup =>
    obtain ⟨n, hn⟩ := rd_failover_stat (c := c) h hadj
    rw [onBackup, rb, hn, setBit, setFld_bits _ _ _ _ _ (by decide) (by decide), setFld_bits _ _ _ _ _ (by decide) (by decide),
      bit_setBit_same _ _ _ (by decide)]
  case cause =>
    obtain ⟨n, hn⟩ := rd_failover_stat (c := c) h hadj
    rw [rf, hn, setBit, bit_fld_setFld _ _ _ _ _ _ (by decide) (by decide) (by decide), fld_setFld_same _ _ _ _ (by decide) (by decide) hc]

end Sys2Proof.Machine
end

section
/-! PROOFS. ARM and DISARM of channels and generators (R135, R139, R190–R193). -/

namespace Sys2Proof.Machine

/-- The row of ARM or DISARM takes a packet of its KIND and of the LEN that goes with it. -/
theorem armRow_replies {opc st : Nat} {gens : Bool} {body} {p : Pkt} {s t : State} {pay : List Word} (h : runs opc p s = true)
    (hk : fld (word p 0) 1 0 = if gens then 1 else 0) (hl : p.pay.length = if gens then 1 else 4)
    (hb : body (cmdOf opc p s) (taken p s) = ⟨t, st, pay, false⟩) : armRow opc gens body p s = replied p st pay t := by
  have hkind : armKind p.pay = some (if gens then 1 else 0) := by
    rw [← hk]
    match hp : p.pay with
    | [] => rw [hp] at hl; cases gens <;> exact absurd hl (by decide)
    | w :: ws => rw [word, hp]; rfl
  have hlen : armLen p.pay p.pay.length = true := by
    rw [armLen, hkind, hl]
    cases gens <;> rfl
  refine hostRow_replies h ?_ hlen ?_
  · rw [hkind]; cases gens <;> rfl
  · rw [pay_cmd, hkind, beq_self_eq_true, if_pos rfl, hb]

section Bodies
variable {c : Cmd} {s : State}

section Channels
variable (hr : fld (pw c 0) 11 8 = 0) (hm : (maskAt c 1).isEmpty = false)
include hr hm

theorem armBad_channels : armBad c 0 = none := by
  simp only [armBad, hr, hm, bne_self_eq_false, Bool.and_false, Bool.false_eq_true, if_false]
theorem bodyArmChannels_ok (ho : ((maskAt c 1).any fun n => ownerOf s 0x02 n != c.part) = false)
    (ha : armRefused s (maskAt c 1) = none) (hp : pwrCur s = 0) :
    bodyArmChannels c s = Ans.ok (forEach (maskAt c 1) (fun n t => setB (vk n 0x20) 0 true t) s) [] := by
  simp only [bodyArmChannels, armBad_channels hr hm, firstOf_none ho, ha, hp, ne_eq, not_true, if_false]
theorem bodyDisarmChannels_ok (hu : mayUse c.part (maskAt c 1) s = true) :
    bodyDisarmChannels c s = Ans.ok (forEach (maskAt c 1) disarmChan s) [] := by
  have hall := List.all_eq_true.mp hu
  simp only [Bool.and_eq_true, beq_iff_eq, Bool.not_eq_true'] at hall
  have ho : ((maskAt c 1).any fun n => ownerOf s 0x02 n != c.part) = false :=
    List.any_eq_false.mpr fun n hn => by simp [(hall n hn).1]
  have hb : ((maskAt c 1).any (busy s 0x02)) = false :=
    List.any_eq_false.mpr fun n hn => by simp [(hall n hn).2]
  simp only [bodyDisarmChannels, armBad_channels hr hm, firstOf_none ho, firstOf_none hb]

end Channels

section Generators
variable (ho : ownerOf s 0x07 (fld (pw c 0) 11 8) = c.part) (hb : busy s 0x07 (fld (pw c 0) 11 8) = false)
include ho hb

theorem bodyDisarmGenerator_armed (ha : genArmed s (fld (pw c 0) 11 8) = true) :
    bodyDisarmGenerator c s = Ans.ok (disarmGen (fld (pw c 0) 11 8) s) [] := by
  simp only [bodyDisarmGenerator, ho, hb, ha, bne_self_eq_false, Bool.false_eq_true, if_false, if_true]

/-- Where a generator's first trigger point lies: START beyond the position of its axis, or at START itself (R135). -/
def armPoint (g : Nat) (s : State) : BitVec 48 :=
  if rb s (gk g 0) 3 then (axis s (rf s (gk g 0) 2 0)).pos + genStart s g else genStart s g

variable (ha : genArmed s (fld (pw c 0) 11 8) = false) (hp : pwrCur s = 0)
include ha hp

theorem bodyArmGenerator_ring (hs : rb s (gk (fld (pw c 0) 11 8) 0) 4 = true) :
    bodyArmGenerator c s = Ans.ok (armRing (fld (pw c 0) 11 8) (armPoint (fld (pw c 0) 11 8) s) s) [] := by
  simp only [bodyArmGenerator, ho, hb, ha, hp, hs, bne_self_eq_false, Bool.false_eq_true, ne_eq, not_true, if_false, if_true]
  rfl
/-- A generator that makes its own tokens is armed at a point still ahead of its axis. -/
theorem bodyArmGenerator_relative (hs : rb s (gk (fld (pw c 0) 11 8) 0) 4 = false) (hr : rb s (gk (fld (pw c 0) 11 8) 0) 3 = true)
    (hst : 1 ≤ sext 48 (genStart s (fld (pw c 0) 11 8)).toNat) : bodyArmGenerator c s = Ans.ok (armGen (fld (pw c 0) 11 8)
      ((axis s (rf s (gk (fld (pw c 0) 11 8) 0) 2 0)).pos + genStart s (fld (pw c 0) 11 8)) s) [] := by
  simp only [bodyArmGenerator, ho, hb, ha, hp, hs, hr, not_lt.mpr hst, bne_self_eq_false, Bool.false_eq_true, ne_eq, not_true, if_false,
    if_true]
theorem bodyArmGenerator_absolute (hs : rb s (gk (fld (pw c 0) 11 8) 0) 4 = false) (hr : rb s (gk (fld (pw c 0) 11 8) 0) 3 = false)
    (hst : 0 < sdiff (genStart s (fld (pw c 0) 11 8)) (axis s (rf s (gk (fld (pw c 0) 11 8) 0) 2 0)).pos) :
    bodyArmGenerator c s = Ans.ok (armGen (fld (pw c 0) 11 8) (genStart s (fld (pw c 0) 11 8)) s) [] := by
  simp only [bodyArmGenerator, ho, hb, ha, hp, hs, hr, not_le.mpr hst, bne_self_eq_false, Bool.false_eq_true, ne_eq, not_true, if_false]

end Generators
end Bodies

/-- Settles O22: each row replies what its body answers. -/
theorem channelsAndGeneratorsArm : Obligations.ChannelsAndGeneratorsArm := by
  unfold Obligations.ChannelsAndGeneratorsArm
  refine ⟨?armChannels, ?armRelative, ?armAbsolute, ?armFromRing, ?disarmChannels, ?disarmGenerator⟩
  case armChannels =>
    intro p s h hl hk hr hm ho ha hp
    have hbody := bodyArmChannels_ok (c := cmdOf 0x40 p s) (s := taken p s) hr hm ho ha hp
    exact congrArg Host.Outcome.next (armRow_replies h hk hl hbody)
  case armRelative =>
    intro p s h hl hk ho hb hs ha hp hr hst
    have hbody := bodyArmGenerator_relative (c := cmdOf 0x40 p s) (s := taken p s) ho hb ha hp hs hr hst
    exact congrArg Host.Outcome.next (armRow_replies h hk hl hbody)
  case armAbsolute =>
    intro p s h hl hk ho hb hs ha hp hr hst
    have hbody := bodyArmGenerator_absolute (c := cmdOf 0x40 p s) (s := taken p s) ho hb ha hp hs hr hst
    exact congrArg Host.Outcome.next (armRow_replies h hk hl hbody)
  case armFromRing =>
    intro p s h hl hk ho hb hs ha hp
    have hbody := bodyArmGenerator_ring (c := cmdOf 0x40 p s) (s := taken p s) ho hb ha hp hs
    exact congrArg Host.Outcome.next (armRow_replies h hk hl hbody)
  case disarmChannels =>
    intro p s h hl hk hr hm hu
    have hbody := bodyDisarmChannels_ok (c := cmdOf 0x41 p s) (s := taken p s) hr hm hu
    exact congrArg Host.Outcome.next (armRow_replies h hk hl hbody)
  case disarmGenerator =>
    intro p s h hl hk ho hb ha
    have hbody := bodyDisarmGenerator_armed (c := cmdOf 0x41 p s) (s := taken p s) ho hb ha
    exact congrArg Host.Outcome.next (armRow_replies h hk hl hbody)

end Sys2Proof.Machine
end

section
/-! PROOFS. Frames of the Swarm ring as a device receives them: the CRC and resends, the first good copy, and what each kind of
frame does (R39, R133, R149–R162). -/

namespace Sys2Proof.Machine

/-! ## Reception (R149, R155) -/

/-- An awaited resend has come good (R155). -/
def resent (typ : Nat) (f : SwFrame) (s : State) : State :=
  raiseHw 0x0B0 none 0x23 0 (incR (swk 0x30) (modSw (fun w => { w with nak := w.nak.filter (fun x => !nakNames typ f x) }) s))
/-- A frame of which a copy was heard; a NAK frame is applied each time (R149). -/
def heardBefore (typ : Nat) (f : SwFrame) (s : State) : Bool :=
  (remembered s).any (fun x => x.1 == typ && x.2.1 == f.origin.val && x.2.2.1 == f.seq.toNat) && typ != 6

section Reception
variable {typ : Nat} {f : SwFrame} {app : State → State} {s : State}

theorem segGood_sound {east : Bool} (h : segFailed s east = false) : segGood east s = s := if_pos (by rw [h]; rfl)
/-- A frame on its way round the ring leaves what was heard before, and takes no time. -/
theorem goneOn_remembered : (if typ = 6 then s else forward typ f s).sw.seen = s.sw.seen ∧ (if typ = 6 then s else forward typ f s).tb = s.tb := by
  split
  · exact ⟨rfl, rfl⟩
  · exact forward_sw typ f s
/-- In OFF a device listens to the TRAIN frames of its own training alone (R149, R152). -/
theorem receive_listening (h : (swState s != 0 || (typ == 7 && training s)) = true) :
    ¬ (swState s = 0 ∧ (!(decide (typ = 7) && training s)) = true) := by
  rintro ⟨h0, h7⟩
  revert h h7
  simp only [h0, beq_eq_decide, bne_self_eq_false, Bool.false_or, Bool.not_eq_true']
  intro h h7
  exact Bool.false_ne_true (h7.symm.trans h)
/-- A frame whose CRC is good goes on, and its first copy is applied. -/
theorem receive_crcOk (h : (swState s != 0 || (typ == 7 && training s)) = true) (hc : f.crcOk = true) (hf : segFailed s f.seg = false) :
    receive typ f app s =
      let u := if s.sw.nak.any (nakNames typ f) && f.resend then resent typ f s else s
      if heardBefore typ f u then (if typ = 6 then u else forward typ f u) else app (heard typ f u) := by
  simp only [receive, receive_listening h, hc, segGood_sound hf, if_false, Bool.not_true, Bool.false_eq_true, ← resent.eq_1]
  generalize (if (s.sw.nak.any (nakNames typ f) && f.resend) = true then resent typ f s else s) = u
  obtain ⟨hseen, htb⟩ := goneOn_remembered (typ := typ) (f := f) (s := u)
  simp only [hseen, htb]
  rfl
/-- A good frame that is no awaited resend, of which no copy was heard, is applied. -/
theorem receive_fresh (h : fresh typ f s = true) : receive typ f app s = app (heard typ f s) := by
  simp only [fresh, Bool.and_eq_true, Bool.not_eq_true', Bool.or_eq_true (typ == 6)] at h
  obtain ⟨⟨⟨⟨hl, hc⟩, hf⟩, hr⟩, hnew⟩ := h
  have hfirst : heardBefore typ f s = false := by
    rcases hnew with h6 | hnew
    · rw [heardBefore, beq_iff_eq.mp h6, bne_self_eq_false, Bool.and_false]
    · rw [heardBefore, hnew, Bool.false_and]
  simp only [receive_crcOk hl hc hf, hr, Bool.and_false, Bool.false_eq_true, if_false, hfirst]
/-- Of a frame heard before nothing more is done than that it goes on. -/
theorem receive_again (h : swState s ≠ 0) (hc : f.crcOk = true) (hr : f.resend = false) (hf : segFailed s f.seg = false) (h6 : typ ≠ 6)
    (hs : (remembered s).any (fun x => x.1 == typ && x.2.1 == f.origin.val && x.2.2.1 == f.seq.toNat) = true) :
    receive typ f app s = forward typ f s := by
  have hbefore : heardBefore typ f s = true := by rw [heardBefore, hs, bne_iff_ne.mpr h6, Bool.and_self]
  rw [receive_crcOk (by simp [h]) hc hf]
  simp only [hr, Bool.and_false, Bool.false_eq_true, if_false, hbefore, if_true, h6]
/-- An awaited resend that comes good counts a CRC retry, reports it, and is applied where no copy was heard. -/
theorem receive_resend (h : swState s ≠ 0) (hc : f.crcOk = true) (hr : f.resend = true) (hf : segFailed s f.seg = false)
    (hw : s.sw.nak.any (nakNames typ f) = true) (hs : heardBefore typ f s = false) :
    receive typ f app s = app (heard typ f (resent typ f s)) := by
  have hbefore : heardBefore typ f (resent typ f s) = false := hs
  rw [receive_crcOk (by simp [h]) hc hf]
  simp only [hr, hw, Bool.and_self, if_true, hbefore, Bool.false_eq_true, if_false]
/-- A frame that fails its CRC asks for a resend, and nothing else is done with it. -/
theorem receive_bad (h : swState s ≠ 0) (hc : f.crcOk = false) (hr : f.resend = false) : receive typ f app s = sendNaks (nakMade typ f s) := by
  simp only [receive, h, hc, hr, false_and, if_false, Bool.not_false, if_true, Bool.and_false, Bool.false_eq_true]
  rfl
/-- A resend that fails again fails its segment. -/
theorem receive_badResend (h : swState s ≠ 0) (hc : f.crcOk = false) (hr : f.resend = true) (hw : s.sw.nak.any (nakNames typ f) = true) :
    receive typ f app s = segFail f.seg s := by
  simp only [receive, h, hc, hr, hw, false_and, if_false, Bool.not_false, if_true, Bool.and_self]
/-- The row of a frame that the pins bring to a device which is alive. -/
theorem frame_row {t : State} (h : live s = true) (hp : pinPowered s .swmRxEP = true) (hf : fresh typ f s = true)
    (ha : app (heard typ f s) = t) :
    (.next (event (powered .swmRxEP (receive typ f app)) s) : Host.Outcome State Fault Refusal) = .next (finish t) :=
  next_event_live h (powered_on hp ((receive_fresh hf).trans ha))

end Reception

/-! ## What each kind of frame does (R39, R133, R151–R160) -/

section Kinds
variable {f : SwFrame} {s : State}

/-- The state with a token of the ring waiting for instant `t`. -/
def tokenWaits (f : SwFrame) (t : Nat) (late : Bool) (u s : State) : State :=
  modSw (fun w => { w with tokQ := w.tokQ ++ [(t, ⟨payNat f 0 1 % 16, payNat f 1 6,
    ceilPos ((gdescPoint s (payNat f 0 1 % 16) (payNat f 1 6)).getD 0), late⟩)] }) u

section Token
variable (hf : followsToken f s = true) (hp : (gdescPoint s (payNat f 0 1 % 16) (payNat f 1 6)).isSome = true)
include hf hp

/-- A token that a generator of this device follows waits for its instant, on the grid where that is past (R153, R154). -/
theorem onToken_follows : onToken f s = if lateToken f s then
    tokenWaits f (gridUp (incR (swk 0x3C) s) s.tb) true (incR (swk 0x3C) s) s else tokenWaits f (nearTime s (payNat f 7 4)) false s s := by
  obtain ⟨t, ht⟩ := Option.isSome_iff_exists.mp hp
  have hskip : (rb s (swk 0) 3 || !rb s (gk (payNat f 0 1 % 16) 0) 4 || !genArmed s (payNat f 0 1 % 16) ||
      !(swState s == 2 || swState s == 6)) = false := by
    simp only [followsToken, Bool.and_eq_true, Bool.not_eq_true'] at hf
    obtain ⟨⟨⟨h3, h4⟩, ha⟩, hs⟩ := hf
    rw [h3, h4, ha, hs]
    rfl
  simp only [onToken, ht, tokenWaits, Option.getD_some]
  rw [if_neg (Bool.eq_false_iff.mp hskip)]
  cases hl : lateToken f s with
  | false =>
    simp only [show decide (nearTime s (payNat f 7 4) < s.tb) = false from hl, Bool.false_eq_true, if_false]
  | true =>
    simp only [show decide (nearTime s (payNat f 7 4) < s.tb) = true from hl, if_true]
    rfl
theorem onToken_due (hl : lateToken f s = false) : onToken f s = tokenWaits f (nearTime s (payNat f 7 4)) false s s := by
  rw [onToken_follows hf hp, hl, if_neg Bool.false_ne_true]
theorem onToken_late (hl : lateToken f s = true) :
    onToken f s = tokenWaits f (gridUp (incR (swk 0x3C) s) s.tb) true (incR (swk 0x3C) s) s := by
  rw [onToken_follows hf hp, hl, if_pos rfl]

end Token

theorem onTime_follower (hm : rb s (swk 0) 3 = false) (h3 : swState s ≠ 3) (h4 : swState s ≠ 4) :
    onTime s = modSw (fun w => { w with lastTime := some s.tb }) s := by
  have hstate : ∀ g : SwSt → SwSt, ¬ (swState (modSw g s) = 3 ∨ swState (modSw g s) = 4) := fun _ => not_or.mpr ⟨h3, h4⟩
  rw [onTime, if_neg (Bool.eq_false_iff.mp hm)]
  exact if_neg (hstate _)
/-- A device in holdover or fallback is relinked by a TIME frame (R160). -/
theorem onTime_relinks (hm : rb s (swk 0) 3 = false) (h : swState s = 3 ∨ swState s = 4) :
    onTime s = setF (swk 0x20) 2 0 5 (modSw (fun w => { w with lastTime := some s.tb, tokQ := [] }) s) := by
  have hstate : ∀ g : SwSt → SwSt, swState (modSw g s) = 3 ∨ swState (modSw g s) = 4 := fun _ => h
  rw [onTime, if_neg (Bool.eq_false_iff.mp hm)]
  exact if_pos (hstate _)

section Status
variable (hm : rb s (swk 0) 3 = true)
include hm

theorem onStatus_full (h : 64 ≤ s.sw.rx) : onStatus f s = incR (swk 0x40) s := by
  rw [onStatus, hm, if_neg (by decide), if_pos h, swarmRefused_full h]
/-- A follower that the master hears is lost no longer; the cause ends with the last that was lost (R159). -/
theorem onStatus_room (h : s.sw.rx < 64) : onStatus f s =
    if rf (statusHeard f s) (swk 0x24) 7 0 = 0 then causeOff 0x0B3 none (statusHeard f s) else statusHeard f s := by
  rw [onStatus, hm, if_neg (by decide), if_neg (Nat.not_le.mpr h)]
  rfl

end Status

theorem onGdesc_follower (hm : rb s (swk 0) 3 = false) : onGdesc f s =
    let u := modSw (fun w => { w with
      gdesc := (payNat f 0 1 % 16, payNat f 1 6, payNat f 7 4) :: w.gdesc.filter (fun x => x.1 != payNat f 0 1 % 16) }) s
    if genAlone u (payNat f 0 1 % 16) && genArmed u (payNat f 0 1 % 16) then
      modGen (payNat f 0 1 % 16) (fun x => { x with nextT := (gdescPoint u (payNat f 0 1 % 16) x.next).getD x.nextT }) u else u :=
  if_neg (Bool.eq_false_iff.mp hm)
/-- A NAK of a frame that is still kept has it sent again (R155). -/
theorem onNak_resends {b : List Byte} (hb : (if f.seg then s.sw.sentE else s.sw.sentW).find?
    (fun b => b.getD 1 0 == BitVec.ofNat 8 (payNat f 1 1 + 16 * payNat f 0 1) && b.getD 2 0 == BitVec.ofNat 8 (payNat f 2 1)) = some b)
    (hr : s.rails.getLsbD 24 = true) : onNak f s = emit (.swarm f.seg b) s := by
  simp only [onNak, hb]
  exact if_pos hr

end Kinds

/-- Settles O17: the row of a good frame is `frame_row`, with what the frame does by its kind; the others are judged as they
are received. -/
theorem swarmFramesAreReceived : Obligations.SwarmFramesAreReceived := by
  unfold Obligations.SwarmFramesAreReceived
  refine ⟨?tokenDue, ?tokenLate, ?time, ?timeRelinks, ?statusLast, ?status, ?statusFull, ?pos, ?gdesc, ?nak, ?train, ?bad, ?badResend,
    ?resend, ?again⟩
  case tokenDue => exact fun f s h hf hk hl hg hp => frame_row h hp hf (onToken_due hk hg hl)
  case tokenLate => exact fun f s h hf hk hl hg hp => frame_row h hp hf (onToken_late hk hg hl)
  case time => exact fun f s h hf hm h3 h4 hp => frame_row h hp hf (onTime_follower hm h3 h4)
  case timeRelinks => exact fun f s h hf hm h34 hp => frame_row h hp hf (onTime_relinks hm h34)
  case statusLast => exact fun f s h hf hm hr h0 hp => frame_row h hp hf ((onStatus_room hm hr).trans (if_pos h0))
  case status => exact fun f s h hf hm hr h0 hp => frame_row h hp hf ((onStatus_room hm hr).trans (if_neg h0))
  case statusFull => exact fun f s h hf hm hr hp => frame_row h hp hf (onStatus_full hm hr)
  case pos => exact fun f s h hf hm ha h2 hr hp => frame_row h hp hf (onPos_ok hm ha h2 hr)
  case gdesc => exact fun f s h hf hm hp => frame_row h hp hf (onGdesc_follower hm)
  case nak => exact fun f b s h hf hb hr hp => frame_row h hp hf (onNak_resends hb hr)
  case train => exact fun f s h hf hp => frame_row h hp hf rfl
  case bad => exact fun typ f app s h hc hr => receive_bad h hc hr
  case badResend => exact fun typ f app s h hc hr hw => receive_badResend h hc hr hw
  case resend =>
    intro f app s h hc hr hf hw hs
    exact receive_resend h hc hr hf hw (by rw [heardBefore, hs, Bool.false_and])
  case again => exact fun typ f app s h hc hr hf h6 hs => receive_again h hc hr hf h6 hs

end Sys2Proof.Machine
end

section
/-! PROOFS. Lines: zone statistics at their starts and ends (R270–R273), line starts of a tile and the ends of windows (R142, R178,
R184, R326), and the staged registers that a line start puts in force (R180, R197, R235). -/

namespace Sys2Proof.Machine

/-! ## Zones (R94, R270–R273) -/

section Zones
variable {z h num ep : Nat} {l : Line} {fine fast : List (OutW × Bool)} {a : ZoneAcc} {s : State}

/-- A line that a zone's open interval counts adds its outputs in the zone's range (R271). -/
theorem zoneLine_counts (ha : zoneAcc s z = some a) (ho : ownerOf s 0x08 z = ownerOf s 0x03 l.head) (hl : l.num ∈ a.prog) :
    zoneLine z l fine fast s =
      let os := ((if rb s (zk z 4) 0 then fast else fine).zipIdx.map fun x => (x.2, x.1.1, x.1.2)).filter fun x =>
        decide (rf s (zk z 8) 13 0 ≤ x.1) && decide (x.1 < rf s (zk z 8) 13 0 + rf s (zk z 8) 30 16)
      let b := os.foldl (zoneOut (rb s (zk z 4) 1) (l.num - a.j * max 1 (rf s (zk z 0xC) 15 0))) a
      putZone { b with lines := b.lines + 1, prog := b.prog.erase l.num, unsync := b.unsync || l.unsync,
                       epochChg := b.epochChg || (decide (b.lines ≠ 0) && b.epoch != l.epoch), epoch := l.epoch, head := l.head } s := by
  have hprog : (!a.prog.contains l.num) = false := by simpa using hl
  simp only [zoneLine, ha, ho, hprog, bne_self_eq_false, Bool.false_eq_true, if_false]
/-- A line whose head has another owner than the zone is refused (R94). -/
theorem zoneLine_refused (ha : zoneAcc s z = some a) (ho : ownerOf s 0x08 z ≠ ownerOf s 0x03 l.head) :
    zoneLine z l fine fast s = refuse (ownerOf s 0x08 z) 0x27 s := by
  simp only [zoneLine, ha, bne_iff_ne.mpr ho, if_true]

/-- The record that a closing interval leaves (R272, R277). -/
def closedWords (a : ZoneAcc) (s : State) : List Word :=
  zoneWords { a with lines := a.lines + a.prog.length } (rb s (zk a.z 4) 0) false (max 1 (rf s (zk a.z 0xC) 15 0))
theorem zoneClose_written (ho : ownerOf s 0x0E (rf s (zk a.z 0x10) 11 0) = ownerOf s 0x08 a.z) : zoneClose a s =
    (incF (zk a.z 0x14) 31 16 (setF (zk a.z 0x14) 0 0 (a.j % 2)
      (putMemW (rf s (zk a.z 0x10) 11 0 * 4096 + 48 * (rf s (zk a.z 0x10) 22 16 + a.j % 2)) (closedWords a s) s)),
     if rb s (zk a.z 4) 2 then closedWords a s else []) := by
  simp only [zoneClose, ho, bne_self_eq_false, Bool.false_eq_true, if_false]
  rfl
/-- A record for a page of another owner is refused; it streams all the same. -/
theorem zoneClose_refused (ho : ownerOf s 0x0E (rf s (zk a.z 0x10) 11 0) ≠ ownerOf s 0x08 a.z) : zoneClose a s =
    (refuse (ownerOf s 0x08 a.z) 0x27 s, if rb s (zk a.z 4) 2 then closedWords a s else []) := by
  simp only [zoneClose, bne_iff_ne.mpr ho, if_true]
  rfl

variable (hz : zonesOf s h = [z])
include hz

theorem zonesStart_opens (ha : zoneAcc s z = none) : zonesStart h num ep s =
    (zoneStarts z h num (setB (zk z 0x14) 1 true (putZone (zoneNew z (num / max 1 (rf s (zk z 0xC) 15 0)) h ep) s)), []) := by
  simp only [zonesStart, hz, List.foldl_cons, List.foldl_nil, ha]
/-- A line at or beyond the end of the open interval closes it, and opens its own (R272). -/
theorem zonesStart_closes (ha : zoneAcc s z = some a) (hj : a.j < num / max 1 (rf s (zk z 0xC) 15 0)) : zonesStart h num ep s =
    (zoneStarts z h num (setB (zk z 0x14) 1 true (putZone (zoneNew z (num / max 1 (rf s (zk z 0xC) 15 0)) h ep) (zoneClose a s).1)),
     if (zoneClose a s).2.isEmpty then [] else [(zoneClose a s).2]) := by
  simp only [zonesStart, hz, List.foldl_cons, List.foldl_nil, ha, hj, if_true, List.nil_append]
theorem zonesStart_within (ha : zoneAcc s z = some a) (hj : num / max 1 (rf s (zk z 0xC) 15 0) ≤ a.j) :
    zonesStart h num ep s = (zoneStarts z h num s, []) := by
  simp only [zonesStart, hz, List.foldl_cons, List.foldl_nil, ha, Nat.not_lt.mpr hj, if_false]

end Zones

/-! ## Line starts of a tile, and the end of a window (R142, R178, R184) -/

section Lines
variable {t n : Nat} {left : List Nat} {px : List Pixel} {l : Line} {s : State}

theorem tileLine_starts {k : Token} {ks : List Token} (hc : rb s (tk t 4) 0 = true) (hk : (tile s t).toks = k :: ks) :
    tileLine t left s = tapsOffered (headsStarted t k left (moltsSwitched t k ks s)) := by
  simp only [tileLine, hc, hk, Bool.not_true, Bool.false_eq_true, if_false]
  rfl
/-- A tile without a clock or without a token starts no line. -/
theorem tileLine_idle (h : rb s (tk t 4) 0 = false ∨ (tile s t).toks = []) : tileLine t left s = s := by
  unfold tileLine
  split
  · rfl
  next hc =>
    have hk := h.resolve_left (by simpa using hc)
    simp only [hk]
theorem lineFinish_none (h : (chan s n).line = none) : lineFinish n px s = s := by
  simp only [lineFinish, h]
/-- A line ends when the pixels of its window have come, and not before (R184). -/
theorem lineFinish_line (h : (chan s n).line = some l) : lineFinish n px s =
    if l.refused || l.fenced || l.count == 0 || decide (l.first + l.count ≤ px.length) then
      pathReset n (lateSwap n (modChan n (fun c => { c with oldPort := false }) (lineClamp n l px
        ((if l.refused || l.fenced then lineNothing n l else lineWhole n l px)
          (setB (vk n 0x20) 2 false (modChan n (fun c => { c with line := none }) s))))))
    else s := by
  simp only [lineFinish, h]
  cases l.refused || l.fenced <;> rfl

end Lines

/-- Settles O36: the zones by what an output, a line and an interval do there, the tile and the window by their conditions, the
staged registers by `act_vidApply` and `act_filApply`. -/
theorem linesStartAndEnd : Obligations.LinesStartAndEnd := by
  unfold Obligations.LinesStartAndEnd
  refine ⟨?outExcluded, ?outCounted, ?outs, ?line, ?lineRefused, ?closeWritten, ?closeRefused, ?words, ?opens, ?closes, ?within, ?starts,
    ?idle, ?ends, ?noLine, ?goesOn, ?vidStaged, ?vidOther, ?filNow, ?filWaits, ?filOther⟩
  case outExcluded => exact fun orx ln a x hx => zoneOut_excl hx ln a
  case outCounted => exact fun orx ln a x hx => zoneOut_incl hx ln a
  case outs =>
    intro orx ln a os
    obtain ⟨hcount, hexcl, hsum, hsumsq, _, hkept, hbounds⟩ := zoneOut_fold orx ln os a
    exact ⟨hcount, hexcl, hsum, hsumsq, hkept, hbounds⟩
  case line => exact fun z l fine fast a s ha ho hl => zoneLine_counts ha ho hl
  case lineRefused => exact fun z l fine fast a s ha ho => zoneLine_refused ha ho
  case closeWritten => exact fun a s ho => zoneClose_written ho
  case closeRefused => exact fun a s ho => zoneClose_refused ho
  case words => exact fun a fast snap n => rfl
  case opens => exact fun z h num ep s hz ha => zonesStart_opens hz ha
  case closes => exact fun z h num ep a s hz ha hj => zonesStart_closes hz ha hj
  case within => exact fun z h num ep a s hz ha hj => zonesStart_within hz ha hj
  case starts => exact fun t left k ks s h hc hk => next_event_live h (tileLine_starts hc hk)
  case idle => exact fun t left s h hi => next_event_live h (tileLine_idle hi)
  case ends => exact fun n px l s h hl he => next_event_live h ((lineFinish_line hl).trans (if_pos he))
  case noLine => exact fun n px s h hl => next_event_live h (lineFinish_none hl)
  case goesOn => exact fun n px l s h hl he => next_event_live h ((lineFinish_line hl).trans (if_neg (Bool.eq_false_iff.mp he)))
  case vidStaged => exact fun n k s hk => act_vidApply.trans (if_pos (List.contains_iff_mem.mp hk))
  case vidOther => exact fun n k s hk => act_vidApply.trans (if_neg fun hm => Bool.eq_false_iff.mp hk (List.contains_iff_mem.mpr hm))
  case filNow =>
    intro n num k s hk hw
    have hnow : (!(syncDue s n num || !rb s (fk n 4) 0) && (chan s n).held.contains k) = false := by
      rcases hw with hheld | hhold | hsync
      · rw [hheld, Bool.and_false]
      · rw [hhold, Bool.not_false, Bool.or_true]
        rfl
      · rw [hsync, Bool.true_or]
        rfl
    rw [act_filApply, if_pos (List.contains_iff_mem.mp hk), hnow, if_neg Bool.false_ne_true]
  case filWaits =>
    intro n num k s hk hheld hhold hsync
    rw [act_filApply, if_pos (List.contains_iff_mem.mp hk), hheld, hhold, hsync]
    rfl
  case filOther =>
    exact fun n num k s hk => act_filApply.trans (if_neg fun hm => Bool.eq_false_iff.mp hk (List.contains_iff_mem.mpr hm))

end Sys2Proof.Machine
end

section
/-! PROOFS. Rows that write one control register (R98, R128, R129, R132, R172, R273, R283, R329, R388, R395, R400, R424), and what
each control register does. -/

namespace Sys2Proof.Machine

/-! ## The row of a whole write (R75, R81) -/

/-- A register that its own address names. -/
def namesItself (k : RKey) : Bool := decide (locate k.addr = .reg k) && decide (k.addr < 2 ^ 32)
/-- The row of a whole write that passes its checks: the register takes the word, and OK is logged. -/
theorem next_wholeWrite {q : Nat} {k : RKey} {v : Word} {s t : State} (h : writable q k v 0xF s = true) (hk : namesItself k = true)
    (ht : applyReg (partOf s q) k v 0xFFFFFFFF s = t) :
    (.next (wholeWrite q k v s) : Host.Outcome State Fault Refusal) = .next (wrote q t) := by
  simp only [namesItself, Bool.and_eq_true, decide_eq_true_eq] at hk
  have hmask : byteMask 0xF = 0xFFFFFFFF := by decide
  rw [wholeWrite, busWrite_ok h hk.1 hk.2, hmask, ht]

theorem namesItself_axControl (a : Fin 8) : namesItself (ak a.val 0xC) = true := by revert a; decide
theorem namesItself_axPreset (a : Fin 8) : namesItself (ak a.val 0x24) = true := by revert a; decide
theorem namesItself_clk (t : Fin 8) : namesItself (tk t.val 0) = true := by revert t; decide
theorem namesItself_ffMask (t : Fin 8) : namesItself (tk t.val 0x308) = true := by revert t; decide
theorem namesItself_credit (n : Fin 96) : namesItself (tlk n.val 0x100) = true := by revert n; decide
theorem namesItself_ffControl (n : Fin 96) : namesItself (ffk n.val 0) = true := by revert n; decide
theorem namesItself_recordRing (p : Part) : namesItself (rrk p.toNat 0) = true := by
  have h : ∀ i : Fin 32, namesItself (rrk i.val 0) = true := by decide
  exact h p.toFin
theorem namesItself_dmaControl (c : Fin 64) : namesItself (dmk c.val 0) = true := by revert c; decide
theorem namesItself_bankOut (b : Fin 8) : namesItself (bk b.val 0) = true := by revert b; decide
theorem namesItself_bankDir (b : Fin 8) : namesItself (bk b.val 4) = true := by revert b; decide
theorem namesItself_irqSel (k : Fin 8) : namesItself (iqk k.val 0) = true := by revert k; decide
theorem namesItself_power : namesItself pwrK = true := by decide
theorem namesItself_zone (z : Fin 1024) : namesItself (zk z.val 0) = true := by
  have hz := z.isLt
  have haddr : (zk z.val 0).addr = 0xA0000 + 0x20 * z.val + 0 := rfl
  have hloc : locate (0xA0000 + 0x20 * z.val + 0) = .reg (zk z.val 0) := by
    have hdiv : (0xA0000 + 0x20 * z.val + 0) / 0x10000 = 10 := by omega
    have hmod : (0xA0000 + 0x20 * z.val + 0) % 0x10000 = 0x20 * z.val := by omega
    rw [locate, if_pos (by omega), hdiv, hmod]
    simp only [lowReg, instReg, zk, Nat.sub_zero]
    rw [if_pos (by omega)]
    congr <;> omega
  simp only [namesItself, haddr, hloc, decide_true, Bool.true_and]
  exact decide_eq_true (by omega)

/-! ## What a register takes (R22, R98, R128, R129, R132, R172, R273, R283, R329, R388, R395, R400, R424) -/

section Registers
variable {p i : Nat} {v : Word} {s : State}

theorem applyReg_axControl : applyReg p (ak i 0xC) v 0xFFFFFFFF s =
    (let u := if bit v 0 then forceAxis i s else s
     if bit v 1 then restoreAxis i u else u) := if_neg (by simp only [ak]; decide)
theorem applyReg_axPreset : applyReg p (ak i 0x24) v 0xFFFFFFFF s =
    (let u := wr (ak i 0x24) (mergeReg (ak i 0x24) (rd s (ak i 0x24)) v 0xFFFFFFFF) s
     presetAxis i (BitVec.ofNat 48 (rd48 u (ak i 0x20) (ak i 0x24))) u) := if_neg (by simp only [ak]; decide)
theorem applyReg_clk : applyReg p (tk i 0) v 0xFFFFFFFF s = clkWrite i (mergeReg (tk i 0) (rd s (tk i 0)) v 0xFFFFFFFF) s :=
  if_neg (by simp only [tk]; decide)
theorem applyReg_ffMask : applyReg p (tk i 0x308) v 0xFFFFFFFF s =
    wr (tk i 0x308) (blend (rd s (tk i 0x308)) (mergeReg (tk i 0x308) (rd s (tk i 0x308)) v 0xFFFFFFFF)
      (BitVec.ofNat 32 (((tilePorts i).map fun n => (ownerOf s 0x04 n == p).toNat * 2 ^ (n % 12)).sum))) s :=
  if_neg (by simp only [tk]; decide)
theorem applyReg_bank {o : Nat} (h : (fieldsOf .bank o).isNone = false) : applyReg p (bk i o) v 0xFFFFFFFF s =
    wr (bk i o) (blend (rd s (bk i o)) (mergeReg (bk i o) (rd s (bk i o)) v 0xFFFFFFFF) (bankOwn s i p)) s :=
  if_neg (Bool.eq_false_iff.mp h)
theorem applyReg_irqSel : applyReg p (iqk i 0) v 0xFFFFFFFF s = irqSel i (mergeReg (iqk i 0) (rd s (iqk i 0)) v 0xFFFFFFFF) s :=
  if_neg (by simp only [iqk]; decide)
theorem applyReg_power : applyReg p pwrK v 0xFFFFFFFF s = setPower (fld (mergeReg pwrK (rd s pwrK) v 0xFFFFFFFF) 1 0) s := by
  unfold applyReg
  exact if_neg (by decide)
/-- EN of a port as it stands and as it is written chooses. -/
theorem applyReg_ffControl : applyReg p (ffk i 0) v 0xFFFFFFFF s =
    if bit v 0 && !rb s (ffk i 0) 0 then ffOn i s else if rb s (ffk i 0) 0 && !bit v 0 then ffOff i s else s := by
  rw [← mergeFf i (rd s (ffk i 0)) v]
  exact if_neg (by simp only [ffk]; decide)
theorem applyReg_zoneControl : applyReg p (zk i 0) v 0xFFFFFFFF s =
    if rb s (zk i 0) 0 && !bit v 0 then zoneOff i s else wr (zk i 0) (mergeReg (zk i 0) (rd s (zk i 0)) v 0xFFFFFFFF) s := by
  rw [← mergeZone i (rd s (zk i 0)) v]
  exact if_neg (by simp only [zk]; decide)
theorem applyReg_recordRing : applyReg p (rrk i 0) v 0xFFFFFFFF s =
    (let u := wr (rrk i 0) (mergeReg (rrk i 0) (rd s (rrk i 0)) v 0xFFFFFFFF) s
     if bit v 0 && !rb s (rrk i 0) 0 then wr (rrk i 4) 0 (wr (rrk i 8) 0 u) else u) := by
  rw [← mergeRring i (rd s (rrk i 0)) v]
  exact if_neg (by simp only [rrk]; decide)
theorem applyReg_dmaControl : applyReg p (dmk i 0) v 0xFFFFFFFF s =
    if bit v 0 then dmaPause i s else if rb s (dmk i 0) 0 then dmaResume i s else s := by
  rw [← mergeDma i (rd s (dmk i 0)) v]
  exact if_neg (by simp only [dmk]; decide)

end Registers

/-! ## What the registers do -/

section Effects
variable {s : State}

theorem rb_setB_same {k : RKey} {i : Nat} {b : Bool} (h : i < 32) : rb (setB k i b s) k i = b := by
  rw [rb, setB, rd_wr_same, bit_setBit_same _ _ _ h]

/-- The ports of a tile lose the phase of their VCK, and nothing else of the state changes. -/
theorem vckStop_keeps {β : Type} {g : State → β} (h : ∀ n f u, g (modVp n f u) = g u) (t : Nat) :
    g (forEach (tilePorts t) (fun n u => modVp n (fun v => { v with vck := none }) u) s) = g s :=
  forEach_keeps (fun n u => h n _ u) _ s
/-- The sample clock of a tile stops: its tokens go, LOCK and CALOK are clear. -/
theorem rd_pllClear {t : Nat} {k : RKey} : rd (pllClear t s) k = if k = tk t 4 then setFld (rd s (tk t 4)) 1 0 0 else rd s k := by
  have hrd : ∀ x, rd (forEach (tilePorts t) (fun n u => modVp n (fun v => { v with vck := none }) u) s) x = rd s x := fun x =>
    vckStop_keeps (g := fun u => rd u x) (fun _ _ _ => rfl) t
  have hclear : ∀ (u : State) (f : Tile → Tile), (∀ x, rd u x = rd s x) →
      rd (setF (tk t 4) 1 0 0 (modTile t f u)) k = if k = tk t 4 then setFld (rd s (tk t 4)) 1 0 0 else rd s k := fun u f hu => by
    rw [setF, rd_wr, ← hu k, ← hu (tk t 4)]
    rfl
  exact hclear _ _ hrd
theorem pllClear_tile {t : Nat} (ht : t < 8) : tile (pllClear t s) t = { tile s t with toks := [] } := by
  have htile : tile (pllClear t s) t = (fun x : Tile => { x with toks := [] })
      (tile (forEach (tilePorts t) (fun n u => modVp n (fun v => { v with vck := none }) u) s) t) := vget_vmod_same _ _ _ ht
  rw [htile, vckStop_keeps (g := fun u => tile u t) (fun _ _ _ => rfl) t]
theorem pllClear_tb {t : Nat} : (pllClear t s).tb = s.tb := by
  rw [pllClear, setF, wr_tb, modTile_tb, vckStop_keeps (g := State.tb) (fun _ _ _ => rfl) t]

section Clock
variable {t : Nat} {v : Word}

theorem rd_clkWrite {k : RKey} : rd (clkWrite t v s) k = rd (pllClear t (wr (tk t 0) (v &&& 0x1FFFF) s)) k := by
  refine rd_congr ?_ k
  unfold clkWrite
  dsimp only
  split <;> rfl
theorem rd_clkWrite_clk : rd (clkWrite t v s) (tk t 0) = v &&& 0x1FFFF := by
  rw [rd_clkWrite, rd_pllClear, if_neg (by simp [tk]), rd_wr_same]
theorem rf_clkWrite_lock : rf (clkWrite t v s) (tk t 4) 1 0 = 0 := by
  rw [rf, rd_clkWrite, rd_pllClear, if_pos rfl]
  exact fld_setFld_same _ _ _ _ (by decide) (by decide) (by decide)
theorem rd_clkWrite_other {k : RKey} (h0 : k ≠ tk t 0) (h4 : k ≠ tk t 4) : rd (clkWrite t v s) k = rd s k := by
  rw [rd_clkWrite, rd_pllClear, if_neg h4, rd_wr_ne _ _ h0]
/-- A started clock waits for its PLL from now on; a stopped one has none to wait for. -/
theorem clkWrite_tile (ht : t < 8) : (tile (clkWrite t v s) t).toks = [] ∧
    (tile (clkWrite t v s) t).pllStart = if bit v 16 then some s.tb else none := by
  unfold clkWrite
  cases bit v 16 with
  | true =>
    have htile : ∀ (f : Tile → Tile) (u : State), tile (modTile t f u) t = f (tile u t) := fun f u => vget_vmod_same _ _ _ ht
    simp only [if_true, htile, pllClear_tile ht, pllClear_tb]
    exact ⟨trivial, rfl⟩
  | false =>
    have htile : ∀ (f : Tile → Tile) (u : State), tile (causeOff (tileSrc t 1) none (modTile t f u)) t = f (tile u t) :=
      fun f u => vget_vmod_same _ _ _ ht
    simp only [if_false, Bool.false_eq_true, htile, pllClear_tile ht]
    exact ⟨trivial, trivial⟩

end Clock

section Firefly
variable {n : Nat}

/-- CTL.EN of a port is written, and its SAFE flag cleared (R329). -/
def ffEnabled (n : Nat) (b : Bool) (s : State) : State := setB (ffk n 0xC) 0 false (setB (ffk n 0) 0 b s)
theorem rb_ffEnabled_en {b : Bool} : rb (ffEnabled n b s) (ffk n 0) 0 = b := by
  rw [ffEnabled, rb, rd_setB_ne _ _ _ (by simp [ffk])]
  exact rb_setB_same (by decide)
theorem rb_ffEnabled_safe {b : Bool} : rb (ffEnabled n b s) (ffk n 0xC) 0 = false := rb_setB_same (by decide)
theorem rd_ffEnabled_other {b : Bool} {k : RKey} (h0 : k ≠ ffk n 0) (hC : k ≠ ffk n 0xC) : rd (ffEnabled n b s) k = rd s k := by
  rw [ffEnabled, rd_setB_ne _ _ _ hC, rd_setB_ne _ _ _ h0]

theorem ffP_modFf (hn : n < 96) (f : FfSt → FfSt) (u : State) : ffP (modFf n f u) n = f (ffP u n) := vget_vmod_same _ _ _ hn
/-- A port that is enabled takes IDLE at the next edge; its gate waits for a START. -/
theorem ffP_ffOn (hn : n < 96) : (ffP (ffOn n s) n).enable = true ∧ (ffP (ffOn n s) n).wait = true := by
  rw [ffOn, ffBlock, ffP_modFf hn, ffP_modFf hn]
  exact ⟨rfl, rfl⟩
/-- A port that is disabled, before its output settles. -/
def ffCleared (n : Nat) (s : State) : State :=
  ffBlock n (modFf n (fun f => { f with enable := false, dac := none }) (ffEnabled n false s))
theorem ffP_ffCleared (hn : n < 96) :
    (ffP (ffCleared n s) n).enable = false ∧ (ffP (ffCleared n s) n).dac = none ∧ (ffP (ffCleared n s) n).wait = true := by
  rw [ffCleared, ffBlock, ffP_modFf hn, ffP_modFf hn]
  exact ⟨rfl, rfl, rfl⟩
theorem ffOff_eq : ffOff n s = ffSettle n (ffCleared n s) := rfl

theorem ffOn_regs : (ffOn n s).regs = (ffEnabled n true s).regs := rfl
theorem ffCleared_regs : (ffCleared n s).regs = (ffEnabled n false s).regs := rfl

/-- What a port drives shows in registers of the port alone. -/
theorem rd_ffDrive_other {k : RKey} (h : k.blk ≠ .ff) : rd (ffDrive n s) k = rd s k := by
  have hk : ∀ o, k ≠ ffk n o := fun o ho => h (ho ▸ rfl)
  obtain ⟨ends, f, src, code, hdrive⟩ : ∃ (ends : Bool) (f : FfSt → FfSt) (src code : Nat), ffDrive n s =
      if ends then ffFlag n 3 8 false (modFf n f (setF (ffk n 0x14) 17 16 src (setF (ffk n 0x14) 13 0 code s)))
      else modFf n f (setF (ffk n 0x14) 17 16 src (setF (ffk n 0x14) 13 0 code s)) := ⟨_, _, _, _, rfl⟩
  have hcode : rd (modFf n f (setF (ffk n 0x14) 17 16 src (setF (ffk n 0x14) 13 0 code s))) k = rd s k :=
    (rd_setF_ne (setF (ffk n 0x14) 13 0 code s) 17 16 src (hk 0x14)).trans (rd_setF_ne _ _ _ _ (hk 0x14))
  rw [hdrive]
  cases ends with
  | false => exact hcode
  | true => exact (rd_setB_ne _ 3 false (hk 0xC)).trans hcode
theorem rd_ffOff_other {k : RKey} (h : k.blk ≠ .ff) : rd (ffOff n s) k = rd s k := by
  have hcleared : rd (ffCleared n s) k = rd s k :=
    (rd_congr ffCleared_regs k).trans (rd_ffEnabled_other (fun ho => h (ho ▸ rfl)) (fun ho => h (ho ▸ rfl)))
  rw [ffOff_eq, ffSettle, ← hcleared]
  split
  · exact rd_ffDrive_other h
  · rfl

end Firefly

section Zone
variable {z : Nat}

theorem zoneOff_eq : zoneOff z s = setB (zk z 0x14) 1 false { setB (zk z 0) 0 false s with zones := s.zones.filter fun x => x.z != z } := rfl
theorem rd_zoneOff {k : RKey} (h : k ≠ zk z 0x14) : rd (zoneOff z s) k = rd (setB (zk z 0) 0 false s) k := by
  rw [zoneOff_eq, rd_setB_ne _ _ _ h]
  rfl
theorem rb_zoneOff_en : rb (zoneOff z s) (zk z 0) 0 = false := by
  rw [rb, rd_zoneOff (by simp [zk])]
  exact rb_setB_same (by decide)
theorem rd_zoneOff_other {k : RKey} (h0 : k ≠ zk z 0) (h14 : k ≠ zk z 0x14) : rd (zoneOff z s) k = rd s k := by
  rw [rd_zoneOff h14, rd_setB_ne _ _ _ h0]

end Zone

section Dma
variable {c : Nat}

/-- STATE of a channel stands apart from PAUSE and PENDING of its control word. -/
theorem dmaState_setB {i : Nat} {b : Bool} (h : i < 2) : dmaState (setB (dmk c 0) i b s) c = dmaState s c := by
  rw [dmaState, rf, setB, rd_wr_same, setBit, bit_fld_setFld _ _ _ _ _ _ (by omega) (by omega) (by omega)]
  rfl
theorem dmaPause_eq : dmaPause c s =
    if dmaState s c = 1 ∨ dmaState s c = 2 then setDmaState c 3 (setB (dmk c 0) 0 true s) else setB (dmk c 0) 0 true s := by
  unfold dmaPause
  dsimp only
  rw [dmaState_setB (by decide)]
theorem dmaPaused_dmaPause : dmaPaused (dmaPause c s) c = true := by
  have hset : rb (setB (dmk c 0) 0 true s) (dmk c 0) 0 = true := rb_setB_same (by decide)
  rw [dmaPause_eq]
  split
  · rw [dmaPaused, setDmaState, setF, rb, rd_wr_same, setFld_bits _ _ _ _ _ (by decide) (by decide)]
    exact hset
  · exact hset
/-- A channel that is idle or runs pauses; any other stays as it is. -/
theorem dmaState_dmaPause : dmaState (dmaPause c s) c = if dmaState s c = 1 ∨ dmaState s c = 2 then 3 else dmaState s c := by
  rw [dmaPause_eq]
  split
  · rw [dmaState, setDmaState, rf, setF, rd_wr_same, fld_setFld_same _ _ _ _ (by decide) (by decide) (by decide)]
  · exact dmaState_setB (by decide)
theorem rd_dmaPause_other {k : RKey} (h : k ≠ dmk c 0) : rd (dmaPause c s) k = rd s k := by
  rw [dmaPause_eq]
  split
  · exact (rd_setF_ne _ _ _ _ h).trans (rd_setB_ne _ _ _ h)
  · exact rd_setB_ne _ _ _ h
theorem dmaResume_eq : dmaResume c s = if dmaState s c = 4 then dmaRun c (setB (dmk c 0) 0 false s) else setB (dmk c 0) 0 false s := by
  unfold dmaResume
  dsimp only
  rw [dmaState_setB (by decide)]
/-- A channel that was paused runs on where it has work. -/
theorem dmaResume_runs (h4 : dmaState s c = 4) (hw : ((dch s c).desc.isSome || (dch s c).fetch || (dch s c).stop.isSome) = true) :
    dmaResume c s = schedule (setDmaState c 2 (setB (dmk c 0) 0 false s)) := by
  rw [dmaResume_eq, if_pos h4, dmaRun]
  exact if_pos hw
/-- Without work it reads PTR for a start that waits, or is idle. -/
theorem dmaResume_idle (h4 : dmaState s c = 4) (hw : ((dch s c).desc.isSome || (dch s c).fetch || (dch s c).stop.isSome) = false) :
    dmaResume c s = if rb s (dmk c 0) 1 then
        setDmaState c 2 (modDma c (fun d => { d with fetch := true }) (setB (dmk c 0) 1 false (setB (dmk c 0) 0 false s)))
      else setDmaState c 1 (setB (dmk c 0) 0 false s) := by
  have hpend : rb (setB (dmk c 0) 0 false s) (dmk c 0) 1 = rb s (dmk c 0) 1 := by
    rw [rb, setB, rd_wr_same, bit1_setBit0]
    rfl
  rw [dmaResume_eq, if_pos h4, dmaRun, ← hpend]
  exact if_neg (Bool.eq_false_iff.mp hw)

end Dma

section Irq
variable {k : Nat} {v : Word}

/-- A new SEL of a line clears its PEND and its counts. -/
theorem rd_irqSel {x : RKey} : rd (irqSel k v s) x =
    if x = iqk k 0xC then 0 else if x = iqk k 8 then 0 else if x = iqk k 4 then 0 else if x = iqk k 0 then v else rd s x := by
  rw [irqSel, rd_wr, rd_wr, rd_wr]
  have hclear : x ≠ iqk k 4 → rd (irqClear k (wr (iqk k 0) v { s with boardLvl := vmod s.boardLvl k fun _ => none })) x =
      if x = iqk k 0 then v else rd s x := fun h4 => by
      rw [irqClear, rd_congr (causeOff_regs ..), rd_setB_ne _ _ _ h4, rd_wr]
      rfl
  by_cases h4 : x = iqk k 4
  · simp only [h4, if_true]
  · rw [hclear h4]

end Irq

section Power
variable {v : Nat}

/-- Every generator and every channel is disarmed (R424). -/
def allDisarmed (s : State) : State := forEach (List.range 96) disarmChan (forEach (List.range 16) disarmGen s)
/-- A power state but STANDBY, taken from another. -/
theorem setPower_awake (hv : v ≠ 2) (hc : pwrCur s ≠ 2) :
    setPower v s = setF pwrK 9 8 v (setF pwrK 1 0 v (if 1 ≤ v then allDisarmed s else s)) := by
  unfold setPower
  simp only [hv, hc, false_and, and_false, if_false]
  rfl
theorem setPower_standby (hc : pwrCur s ≠ 2) : setPower 2 s = forEach (List.range 96) (fun n u => ffSettle n (ffBlock n u))
    (forEach (List.range 8) regionStandby (forEach (List.range 8) pllOff (setF pwrK 9 8 2 (setF pwrK 1 0 2 (supStop (allDisarmed s)))))) := by
  unfold setPower
  simp only [hc, ne_eq, not_false_iff, and_self, if_true, Nat.one_le_ofNat]
  rfl
/-- Leaving STANDBY the clocks that are on start, and so do the supervisory converters. -/
theorem setPower_leaves (hv : v ≠ 2) (hc : pwrCur s = 2) :
    setPower v s = let u := setF pwrK 9 8 v (setF pwrK 1 0 v (if 1 ≤ v then allDisarmed s else s))
      supKick (forEach ((List.range 8).filter fun t => rb u (tk t 0) 16) (fun t u => modTile t (fun x => { x with pllStart := some u.tb }) u) u) := by
  unfold setPower
  simp only [hv, hc, false_and, ne_eq, not_false_iff, and_self, if_false, if_true]
  rfl

end Power

section Disarmed

theorem genArmed_disarmGen {g : Nat} : genArmed (disarmGen g s) g = false :=
  (rb_congr (t := setB (gk g 0x10) 0 false s) rfl _ _).trans (rb_setB_same (by decide))
theorem backlog_disarmGen {g : Nat} (hg : g < 16) : (gen (disarmGen g s) g).backlog = [] := by
  have hgen : gen (disarmGen g s) g = { gen s g with backlog := [] } := vget_vmod_same _ _ _ hg
  rw [hgen]
theorem rd_disarmGen_other {g : Nat} {k : RKey} (h : k ≠ gk g 0x10) : rd (disarmGen g s) k = rd s k :=
  (rd_congr (t := setB (gk g 0x10) 0 false s) rfl k).trans (rd_setB_ne _ _ _ h)
theorem disarmChan_disarmed {n : Nat} (h : armed s n = false) : disarmChan n s = s := if_pos (by rw [h]; rfl)
/-- A channel in the middle of a line that no calibration collects is disarmed, and its line runs on. -/
theorem disarmChan_armed {n : Nat} (h : armed s n = true) (hc : calCollecting (setB (vk n 0x20) 0 false s) n = false)
    (hl : (chan s n).line.isNone = false) : disarmChan n s = setB (vk n 0x20) 0 false s := by
  have hline : (chan (setB (vk n 0x20) 0 false s) n).line.isNone = false := hl
  simp only [disarmChan, h, hc, hline, Bool.not_true, Bool.false_eq_true, if_false]

end Disarmed
end Effects

/-- Settles O11: a row writes its register, `applyReg` takes the word, and the register does what its own lemmas say. -/
theorem controlRegisterWrites : Obligations.ControlRegisterWrites := by
  unfold Obligations.ControlRegisterWrites
  refine ⟨?force, ?restore, ?preset, ?clkOn, ?clkOff, ?ffOnRow, ?ffOffRow, ?ffMask, ?credit, ?zoneOn, ?zoneOffRow, ?ring, ?pause, ?resume,
    ?bankOut, ?bankDir, ?irq, ?run, ?idle, ?standby, ?clk, ?enabled, ?disabled, ?zone, ?paused, ?notPaused, ?runs, ?noWork, ?sel,
    ?power0, ?power1, ?power2, ?leaves, ?gen, ?chanArmed, ?chanDisarmed⟩
  case force => exact fun q a s h => next_wholeWrite h (namesItself_axControl a) applyReg_axControl
  case restore => exact fun q a s h => next_wholeWrite h (namesItself_axControl a) applyReg_axControl
  case preset => exact fun q a v s h => next_wholeWrite h (namesItself_axPreset a) applyReg_axPreset
  case clkOn =>
    intro q t v s h hv
    rw [← next_wholeWrite h (namesItself_clk t) applyReg_clk]
    exact congrArg Host.Outcome.next (if_pos hv)
  case clkOff =>
    intro q t v s h hv
    rw [← next_wholeWrite h (namesItself_clk t) applyReg_clk]
    exact congrArg Host.Outcome.next (if_neg (Bool.eq_false_iff.mp hv))
  case ffOnRow =>
    intro q n s h he
    rw [← next_wholeWrite h (namesItself_ffControl n) (applyReg_ffControl.trans (if_pos (by rw [he]; decide)))]
    exact congrArg Host.Outcome.next (if_neg (Bool.eq_false_iff.mp he))
  case ffOffRow =>
    intro q n s h he
    rw [← next_wholeWrite h (namesItself_ffControl n)
      (applyReg_ffControl.trans ((if_neg (by rw [he]; decide)).trans (if_pos (by rw [he]; decide))))]
    exact congrArg Host.Outcome.next (if_pos he)
  case ffMask => exact fun q t v s h => next_wholeWrite h (namesItself_ffMask t) applyReg_ffMask
  case credit => exact fun q n v s h => next_wholeWrite h (namesItself_credit n) (applyReg_credit (Nat.mod_lt _ (by decide)) _ _ _ _)
  case zoneOn =>
    exact fun q z s h => next_wholeWrite h (namesItself_zone z) (applyReg_zoneControl.trans (if_neg (by cases rb s (zk z.val 0) 0 <;> decide)))
  case zoneOffRow =>
    exact fun q z s h he => next_wholeWrite h (namesItself_zone z) (applyReg_zoneControl.trans (if_pos (by rw [he]; decide)))
  case ring =>
    intro q part v s h hv he
    have hon : (bit v 0 && !rb s (rrk part.toNat 0) 0) = true := by rw [hv, he]; rfl
    rw [← next_wholeWrite h (namesItself_recordRing part) (applyReg_recordRing.trans (if_pos hon))]
    exact congrArg Host.Outcome.next (if_pos hon)
  case pause => exact fun q c s h => next_wholeWrite h (namesItself_dmaControl c) (applyReg_dmaControl.trans (if_pos (by decide)))
  case resume =>
    exact fun q c s h hp => next_wholeWrite h (namesItself_dmaControl c)
      (applyReg_dmaControl.trans ((if_neg (by decide)).trans (if_pos hp)))
  case bankOut => exact fun q b v s h => next_wholeWrite h (namesItself_bankOut b) (applyReg_bank (by decide))
  case bankDir => exact fun q b v s h => next_wholeWrite h (namesItself_bankDir b) (applyReg_bank (by decide))
  case irq => exact fun q k v s h => next_wholeWrite h (namesItself_irqSel k) applyReg_irqSel
  case run => exact fun q s h => next_wholeWrite h namesItself_power (applyReg_power.trans (congrArg (setPower · s) (pwrMerge 0 s (by decide))))
  case idle => exact fun q s h => next_wholeWrite h namesItself_power (applyReg_power.trans (congrArg (setPower · s) (pwrMerge 1 s (by decide))))
  case standby => exact fun q s h => next_wholeWrite h namesItself_power (applyReg_power.trans (congrArg (setPower · s) (pwrMerge 2 s (by decide))))
  case clk =>
    intro t v s
    obtain ⟨htoks, hstart⟩ := clkWrite_tile (s := s) (v := v) t.isLt
    exact ⟨rd_clkWrite_clk, rf_clkWrite_lock, htoks, hstart, fun k h0 h4 => rd_clkWrite_other h0 h4⟩
  case enabled =>
    intro n s
    obtain ⟨henable, hwait⟩ := ffP_ffOn (s := s) n.isLt
    exact ⟨(rb_congr ffOn_regs _ _).trans rb_ffEnabled_en, (rb_congr ffOn_regs _ _).trans rb_ffEnabled_safe, henable, hwait,
      fun k h0 hC => (rd_congr ffOn_regs k).trans (rd_ffEnabled_other h0 hC)⟩
  case disabled =>
    intro n s
    obtain ⟨henable, hdac, hwait⟩ := ffP_ffCleared (s := s) n.isLt
    exact ⟨⟨ffCleared n.val s, ffOff_eq, (rb_congr ffCleared_regs _ _).trans rb_ffEnabled_en,
      (rb_congr ffCleared_regs _ _).trans rb_ffEnabled_safe, henable, hdac, hwait, fun k h0 hC => (rd_congr ffCleared_regs k).trans (rd_ffEnabled_other h0 hC)⟩, fun k hk => rd_ffOff_other hk⟩
  case zone => exact fun z s => ⟨rb_zoneOff_en, rb_setB_same (by decide), rfl, fun k h0 h14 => rd_zoneOff_other h0 h14⟩
  case paused => exact fun c s => ⟨dmaPaused_dmaPause, dmaState_dmaPause, fun k hk => rd_dmaPause_other hk⟩
  case notPaused => exact fun c s h4 => dmaResume_eq.trans (if_neg h4)
  case runs => exact fun c s h4 hw => dmaResume_runs h4 hw
  case noWork => exact fun c s h4 hw => dmaResume_idle h4 hw
  case sel =>
    intro k v s
    refine ⟨?_, ?_, ?_, ?_, fun x h0 h4 h8 hC => by rw [rd_irqSel, if_neg hC, if_neg h8, if_neg h4, if_neg h0]⟩
    all_goals (rw [rd_irqSel]; simp [iqk])
  case power0 => exact fun s hc => setPower_awake (by decide) hc
  case power1 => exact fun s hc => setPower_awake (by decide) hc
  case power2 => exact fun s hc => setPower_standby hc
  case leaves =>
    intro v s hc
    rw [setPower_leaves (by have := v.isLt; omega) hc]
    fin_cases v <;> rfl
  case gen => exact fun g s => ⟨genArmed_disarmGen, backlog_disarmGen g.isLt, fun k hk => rd_disarmGen_other hk⟩
  case chanArmed => exact fun n s h hc hl => disarmChan_armed h hc hl
  case chanDisarmed => exact fun n s h => disarmChan_disarmed h

end Sys2Proof.Machine
end

section
/-! PROOFS. Frames of the Swarm ring as their origin sends them (R148–R157), and the commands of the link: SWARM_CTL, the training of
the ring and RESYNC (R152, R161). -/

namespace Sys2Proof.Machine

/-! ## Frames are sent (R148, R149, R151, R153, R155, R157) -/

section Frames
variable {i : Nat} {s : State}

/-- A frame waits while one of higher priority does (R148). -/
theorem swarmSend_outranked {kind : Nat} (h : outranked s (if kind = 5 then 6 else kind) = true) : swarmSend kind i s = s := if_pos h
/-- A frame of which the device is an origin goes out where none of higher priority waits, and the NAK frames after it. -/
theorem ite_outranked_sends {kind : Nat} {c : Prop} [Decidable c] {t u : State} (ho : outranked s kind = false) (hc : c) :
    (if outranked s kind then s else sendNaks (if c then t else u)) = sendNaks t := by
  rw [if_neg (Bool.eq_false_iff.mp ho), if_pos hc]

/-- Nothing is before a TOKEN frame (R148). -/
theorem outranked_token (s : State) : outranked s 0 = false := rfl
theorem swarmSend_token {g k t : Nat} {ts : List (Nat × Nat × Nat)} (ht : s.sw.txTok = (g, k, t) :: ts) : swarmSend 0 i s =
    sendNaks (originate 1 (leBytes g 1 ++ leBytes k 6 ++ leBytes t 4) (modSw (fun w => { w with txTok := ts }) s)) := by
  have hfirst : ¬ outranked s (if 0 = 5 then 6 else 0) = true := Bool.eq_false_iff.mp (outranked_token s)
  unfold swarmSend
  rw [if_neg hfirst, ht]
  rfl
theorem swarmSend_status (hm : rb s (swk 0) 3 = false) (h2 : 2 ≤ swState s) (ho : outranked s 2 = false) : swarmSend 2 i s =
    sendNaks (sendFrame 2 0 3 (leBytes (swState s) 1 ++ leBytes (activeSummary s).1 1 ++ leBytes (activeSummary s).2 2 ++
      leBytes (rf s (swk 0x20) 4 4) 1) s) := by
  have hlinked : (!rb s (swk 0) 3 && decide (2 ≤ swState s)) = true := by rw [hm, decide_eq_true h2]; rfl
  exact ite_outranked_sends ho hlinked
/-- The payload of a TRAIN frame is free (log entry 53). -/
theorem swarmSend_train (ht : training s = true) (ho : outranked s 6 = false) : swarmSend 5 i s =
    sendNaks (originate 7 (((freeWords 3 s).1.flatMap wordBytes).take 11) (freeWords 3 s).2) :=
  ite_outranked_sends ho ht

section Master
variable (hm : swMaster s = true)
include hm

theorem swarmSend_time (ho : outranked s 1 = false) :
    swarmSend 1 i s = sendNaks (sendFrame 1 0 2 (leBytes s.tb 8 ++ leBytes (swState s) 1 ++ [0, 0]) s) :=
  ite_outranked_sends ho hm
/-- The master sends POS frames of the axes that it exports (R148). -/
theorem swarmSend_pos (hx : rb s (swk 0x10) (i % 8) = true) (ho : outranked s 3 = false) : swarmSend 3 i s =
    sendNaks (sendFrame 3 (i % 8) 4 (leBytes (i % 8) 1 ++ leBytes (axis s (i % 8)).pos.toNat 6 ++
      leBytes (rd s (ak (i % 8) 0x1C)).toNat 4) s) :=
  ite_outranked_sends ho (Bool.and_eq_true _ _ ▸ ⟨hm, hx⟩)
/-- The master sends GDESC frames of the generators that it exports (R148). -/
theorem swarmSend_gdesc (hx : rb s (swk 0x10) (16 + i) = true) (ho : outranked s 4 = false) : swarmSend 4 i s =
    sendNaks (sendFrame 4 i 5 (leBytes i 1 ++
      leBytes (((gen s i).nextT - BitVec.ofNat 64 ((gen s i).next * (rd s (gk i 4)).toNat)).toNat / 65536) 6 ++
      leBytes (rd s (gk i 4)).toNat 4) s) :=
  ite_outranked_sends ho (Bool.and_eq_true _ _ ▸ ⟨hm, hx⟩)

end Master

theorem sendNaks_turn (h : outranked s 5 = false) : sendNaks s =
    forEach s.sw.txNak (fun x u => sendOn x.1 x.2 u) (modSw (fun w => { w with txNak := [] }) s) := if_neg (Bool.eq_false_iff.mp h)
theorem sendNaks_outranked (h : outranked s 5 = true) : sendNaks s = s := if_pos h
/-- A frame goes on its segment where the link has its supply, and is kept for a resend (R155). -/
theorem sendOn_supplied {east : Bool} {bs : List Byte} (h : s.rails.getLsbD 24 = true) : sendOn east bs s =
    emit (.swarm east bs) (modSw (fun w =>
      if east then { w with sentE := (bs :: w.sentE).take 16 } else { w with sentW := (bs :: w.sentW).take 16 }) s) := onlyIf_true h

end Frames

/-- Settles O16: each kind of frame whose turn it is, those that wait, and the segment. -/
theorem swarmFramesAreSent : Obligations.SwarmFramesAreSent := by
  unfold Obligations.SwarmFramesAreSent
  refine ⟨?token, ?time, ?status, ?pos, ?gdesc, ?train, ?waits, fun s h => sendNaks_turn h, fun s h => sendNaks_outranked h,
    fun east bs s h => sendOn_supplied h⟩
  case token => exact fun i g k t ts s h ht => next_event_live h (swarmSend_token ht)
  case time => exact fun i s h hm ho => next_event_live h (swarmSend_time hm ho)
  case status => exact fun i s h hm h2 ho => next_event_live h (swarmSend_status hm h2 ho)
  case pos => exact fun i s h hm hx ho => next_event_live h (swarmSend_pos hm hx ho)
  case gdesc => exact fun i s h hm hx ho => next_event_live h (swarmSend_gdesc hm hx ho)
  case train => exact fun i s h ht ho => next_event_live h (swarmSend_train ht ho)
  case waits => exact fun kind i s h ho => next_event_live h (swarmSend_outranked ho)

/-! ## SWARM_CTL (R152) -/

section Ctl
variable {op : Nat} {c : Cmd} {s : State}

section Held
variable (hl : holds s 16 c.part = true) (hh : swHeld s = false) (hf : opsFull s c.q = false)
include hl hh hf

/-- SWARM_CTL by the holder of the link's lease, while no TRAIN or RESYNC is outstanding: what is left to check. -/
theorem bodySwarm_held (h3 : fld (pw c 0) 1 0 ≠ 3) : bodySwarm op c s =
    if op = 0 then Ans.long c .finished (swarmOff s)
    else if swState s ≠ 0 ∨ rb s (swk 0) 3 ≠ (op == 2) then Ans.fail s 0x06 0 0x23 []
    else if op = 1 then Ans.long c .finished (setF (swk 0x20) 2 0 1 s)
    else if exportArmed s then Ans.fail s 0x02 0 0x20 []
    else if bit (takeFree s).1 0 then Ans.fail (takeFree s).2 0x02 0 0x20 [] else Ans.long c .train (takeFree s).2 := by
  simp only [bodySwarm, h3, hl, hh, hf, Bool.not_true, Bool.or_self, Bool.false_eq_true, if_false]
theorem bodySwarm_stop (h0 : fld (pw c 0) 1 0 = 0) : bodySwarm 0 c s = Ans.long c .finished (swarmOff s) := by
  rw [bodySwarm_held hl hh hf (by rw [h0]; decide), if_pos rfl]

variable (hst : swState s = 0)
include hst

theorem bodySwarm_listen (h1 : fld (pw c 0) 1 0 = 1) (hm : rb s (swk 0) 3 = false) :
    bodySwarm 1 c s = Ans.long c .finished (setF (swk 0x20) 2 0 1 s) := by
  rw [bodySwarm_held hl hh hf (by rw [h1]; decide), hst, hm]
  rfl

variable (h2 : fld (pw c 0) 1 0 = 2) (hm : rb s (swk 0) 3 = true)
include h2 hm

/-- TRAIN of a master in OFF is refused only where a generator that may not be is armed: one that it exports, or a follower's. -/
theorem bodySwarm_train : bodySwarm 2 c s =
    if exportArmed s then Ans.fail s 0x02 0 0x20 []
    else if bit (takeFree s).1 0 then Ans.fail (takeFree s).2 0x02 0 0x20 [] else Ans.long c .train (takeFree s).2 := by
  rw [bodySwarm_held hl hh hf (by rw [h2]; decide), hst, hm]
  rfl
theorem bodySwarm_trainArmed (ha : exportArmed s = true) : bodySwarm 2 c s = Ans.fail s 0x02 0 0x20 [] := by
  rw [bodySwarm_train hl hh hf hst h2 hm, if_pos ha]
theorem bodySwarm_trainFree (ha : exportArmed s = false) : bodySwarm 2 c s =
    if bit (takeFree s).1 0 then Ans.fail (takeFree s).2 0x02 0 0x20 [] else Ans.long c .train (takeFree s).2 := by
  rw [bodySwarm_train hl hh hf hst h2 hm, if_neg (Bool.eq_false_iff.mp ha)]

end Held
end Ctl

/-- The row of a long operation that is complete once it is applied (log entry 51). -/
theorem hostRow_atOnce {sel lenOk body} {p : Pkt} {s t : State} (h : runs 0xD0 p s = true) (hs : sel p.pay = true)
    (hl : lenOk p.pay p.pay.length = true) (hb : body (cmdOf 0xD0 p s) (taken p s) = Ans.long (cmdOf 0xD0 p s) .finished t) :
    hostRow 0xD0 sel lenOk body swarmAfter p s = finish (complete p.q.val p.tag.toNat 0 []
      (firstReply p.q.val 0x01 p.tag.toNat (p.flags.getLsbD 0) [] (started p (sender p s) .finished t))) :=
  (hostRow_followed h hs hl hb).trans (congrArg finish (if_pos rfl))

/-! ## Training ends (R152) -/

section Train
variable {consecutive : Bool} {hops : List (BitVec 16 × BitVec 16)} {newTb : Nat} {o : LongOp} {s : State}

/-- The hop registers hold neither the ring's size nor this device's place in it. -/
theorem swN_hopsStored (hops : List (BitVec 16 × BitVec 16)) (s : State) : swN (hopsStored hops s) = swN s := by
  have hcfg : rd (hopsStored hops s) (swk 0) = rd s (swk 0) :=
    forEach_keeps (g := fun u => rd u (swk 0)) (fun h u => rd_wr_ne u _ (by simp [swk]; omega)) hops.zipIdx s
  rw [swN, swN, rf, rf, hcfg]

section Master
variable (hm : rb s (swk 0) 3 = true)
  (ho : s.ops.find? (fun o => match o.kind with | .train => true | _ => false) = some o)
include hm ho

/-- How the TRAIN of a master ends: by whether as many nodes as the ring has answered, in the order of their numbers. -/
theorem trainDone_master : trainDone consecutive hops newTb s =
    if !consecutive || hops.length != swN s then complete o.q o.tag 0x06 [0x21FF] s
    else complete o.q o.tag 0 [BitVec.ofNat 32 (trainBudget hops (hopsStored hops s) % 65536 + 65536 * (swN s - 1))]
      (ringUp (trainBudget hops (hopsStored hops s)) newTb (swN s) (hopsStored hops s)) := by
  unfold trainDone trainBudget
  dsimp only
  rw [if_pos hm, swN_hopsStored]
  generalize hop : s.ops.find? _ = op
  obtain rfl : op = some o := hop.symm.trans ho
  rfl
theorem trainDone_unanswered (h : (!consecutive || hops.length != swN s) = true) :
    trainDone consecutive hops newTb s = complete o.q o.tag 0x06 [0x21FF] s := (trainDone_master hm ho).trans (if_pos h)
theorem trainDone_linked (h : (!consecutive || hops.length != swN s) = false) : trainDone consecutive hops newTb s =
    complete o.q o.tag 0 [BitVec.ofNat 32 (trainBudget hops (hopsStored hops s) % 65536 + 65536 * (swN s - 1))]
      (ringUp (trainBudget hops (hopsStored hops s)) newTb (swN s) (hopsStored hops s)) :=
  (trainDone_master hm ho).trans (if_neg (Bool.eq_false_iff.mp h))

end Master

/-- A follower that listens is LINKED, at the time base of the ring. -/
theorem trainDone_listener (hm : rb s (swk 0) 3 = false) (h1 : swState s = 1) (hc : consecutive = true) :
    trainDone consecutive hops newTb s = modSw (fun w => { w with lastTime := some (stepTb newTb (setF (swk 0x20) 2 0 2 s)).tb })
      (stepTb newTb (setF (swk 0x20) 2 0 2 s)) :=
  (if_neg (Bool.eq_false_iff.mp hm)).trans (if_pos (by rw [h1, hc]; rfl))

end Train

/-! ## RESYNC (R161) -/

section Resync
variable {s : State}

/-- RESYNC of a RELINKED follower: it is RESYNCING, and its follower generators have yet to switch. -/
theorem bodyResync_accepted {c : Cmd} (h1 : 1 ≤ fld (pw c 0) 13 0) (h2 : fld (pw c 0) 13 0 ≤ 10000) (hl : holds s 16 c.part = true)
    (hh : swHeld s = false) (hf : opsFull s c.q = false) (hst : (rb s (swk 0) 3 || swState s != 5) = false) :
    bodyResync c s = Ans.long c (.resync (s.tb + 1000000 * fld (pw c 0) 13 0)) (setF (swk 0x20) 2 0 6 (modSw (fun w =>
      { w with rsGens := (List.range 16).filter (fun g => rb s (gk g 0) 4), rsT := none, rsAxes := [], rsSave := [], rsStep := [] }) s)) := by
  have hdl : ¬ (fld (pw c 0) 13 0 = 0 ∨ 10000 < fld (pw c 0) 13 0) := by omega
  simp only [bodyResync, hdl, hl, hh, hf, hst, Bool.not_true, Bool.or_self, Bool.false_eq_true, if_false]
theorem resyncLate_passed {q tag d : Nat} {o : LongOp} (ho : opOf s q tag = some o) (hk : o.kind = .resync d) (hd : d ≤ s.tb) :
    resyncLate q tag s = complete q tag 0x0B [0xFF] (resyncAbandon s) := by
  simp only [resyncLate, ho, hk, hd, if_true]
  rfl

end Resync

/-- Settles O34: each command by its body, and the ends of TRAIN and RESYNC. -/
theorem swarmCommands : Obligations.SwarmCommands := by
  unfold Obligations.SwarmCommands
  refine ⟨?stop, ?listen, ?train, ?trainArmed, ?unanswered, ?linked, ?listener, ?resync, ?late⟩
  case stop =>
    intro p s hr hn h0 hl hh hf
    have hbody := bodySwarm_stop (c := cmdOf 0xD0 p s) (s := taken p s) hl hh hf h0
    exact congrArg Host.Outcome.next (hostRow_atOnce hr (by rw [selOf_word hn, h0]; rfl) (by simp [lenIs, hn]) hbody)
  case listen =>
    intro p s hr hn h1 hl hh hf hst hm
    have hbody := bodySwarm_listen (c := cmdOf 0xD0 p s) (s := taken p s) hl hh hf hst h1 hm
    exact congrArg Host.Outcome.next (hostRow_atOnce hr (by rw [selOf_word hn, h1]; rfl) (by simp [lenIs, hn]) hbody)
  case train =>
    intro p s hr hn h2 hl hh hf hst hm ha
    have hbody := bodySwarm_trainFree (c := cmdOf 0xD0 p s) (s := taken p s) hl hh hf hst h2 hm ha
    refine congrArg Host.Outcome.next ?_
    split
    · next harmed => exact selRow_replies hr hn h2 (hbody.trans (if_pos harmed))
    · next hfree => exact selRow_replies hr hn h2 (hbody.trans (if_neg hfree))
  case trainArmed =>
    intro p s hr hn h2 hl hh hf hst hm ha
    have hbody := bodySwarm_trainArmed (c := cmdOf 0xD0 p s) (s := taken p s) hl hh hf hst h2 hm ha
    exact congrArg Host.Outcome.next (selRow_replies hr hn h2 hbody)
  case unanswered => exact fun _ _ _ o s h hm ho hn => next_event_live h (trainDone_unanswered hm ho hn)
  case linked => exact fun _ _ _ o s h hm ho hn => next_event_live h (trainDone_linked hm ho hn)
  case listener => exact fun _ _ _ s h hm h1 hc => next_event_live h (trainDone_listener hm h1 hc)
  case resync =>
    intro p s hr hn h1 h2 hl hh hf hst
    have hbody := bodyResync_accepted (c := cmdOf 0xD1 p s) h1 h2 hl hh hf hst
    rw [taken_tb] at hbody
    exact congrArg Host.Outcome.next (hostRow_followed hr rfl (by simp [lenIs, hn]) hbody)
  case late => exact fun q tag o d s h ho hk hd => next_event_live h (resyncLate_passed ho hk hd)

end Sys2Proof.Machine
end

section
/-! PROOFS. The copy and the deadline of a MOLT (R315, R316), and the attempts of SELFTEST (R185–R187). -/

namespace Sys2Proof.Machine

/-! ## MOLT -/

/-- The new channel `n` after the copy from the old channel `o`: settings, banks, and no calibration (R315, R207). -/
def moltTransferred (o n : Nat) (s : State) : State := calInvalid n (copyBanks o n (copySettings o n s))

section Molts
variable {h : Nat} {m : MoltSt} {s : State} (hm : moltOf s h = some m)
include hm

/-- After the copy IMM decides: the switch is at once, or the MOLT is marked copied. -/
theorem moltCopied_idle {o n : Nat} (hc : m.copied = false) (ho : m.old = some o) (hn : m.new = some n)
    (hline : (chan s n).line = none) : moltCopied h s =
    if m.imm then moltSwitch m 0 (moltTransferred o n s)
    else { moltTransferred o n s with
      molts := (moltTransferred o n s).molts.map fun x => if x.head = h then { x with copied := true } else x } := by
  have hdone : ¬ (m.copied || (chan s n).line.isSome) = true := by simp [hc, hline]
  simp only [moltCopied, moltTransferred, hm, ho, hn, if_neg hdone]
/-- While the new channel's line still runs, the copy is not complete (log entry 133). -/
theorem moltCopied_running {n : Nat} (hn : m.new = some n) (hline : (chan s n).line.isSome = true) : moltCopied h s = s := by
  have hwait : (m.copied || (chan s n).line.isSome) = true := by rw [hline, Bool.or_true]
  simp only [moltCopied, hm, hn, if_pos hwait]
theorem moltDue_passed (hd : m.deadline ≤ s.tb) : moltDue h s = moltTooLate m s := by
  simp only [moltDue, hm, if_pos hd]

end Molts

/-! ## SELFTEST -/

/-- Channel `n` as an attempt with result `out` ends its test: the deviations and the result are stored (R187). -/
def attemptStored (n : Nat) (lo hi : Int) (out : Nat) (s : State) : State :=
  wr (vk n 0x34) (BitVec.ofNat 32 (sat7 lo + 256 * sat7 hi + 65536 * out)) (modChan n (fun x => { x with stFail := false }) s)
/-- The test passed at once: the fault of the channel ends. -/
def attemptPassed (n : Nat) (lo hi : Int) (s : State) : State :=
  causeOff (0x102 + 16 * (n / 12)) (some (n % 12)) (setB (vk n 0x20) 1 false (attemptStored n lo hi 1 s))
/-- Both attempts failed: the fault of the channel is set, counted and raised for its owner. -/
def attemptFaulted (n : Nat) (lo hi : Int) (s : State) : State :=
  causeOn (0x102 + 16 * (n / 12)) (some (n % 12)) (0x10 + n / 12) (ownerOf s 0x02 n) 0
    (setB (vk n 0x20) 1 true (satF (vk n 0x38) 31 16 (attemptStored n lo hi 3 s)))

section Selftest
variable {n : Nat} {lo hi : Int} {s : State}

/-- No attempt ends during a line (R167). -/
theorem selftestEnd_running (hline : (chan s n).line.isSome = true) : selftestEnd n lo hi s = s := if_pos hline

section Idle
variable {o : LongOp} (hline : (chan s n).line.isSome = false)
  (hop : s.ops.find? (fun o => o.kind == .selftest n) = some o)
include hline hop

section Deviates
variable (hbad : (decide (32 < lo.natAbs) || decide (32 < hi.natAbs)) = true)
include hbad

/-- The first attempt fails: only that is noted, and the operation goes on to a second. -/
theorem selftestEnd_retries (hst : (chan s n).stFail = false) :
    selftestEnd n lo hi s = modChan n (fun x => { x with stFail := true }) s := by
  have hfirst : ((decide (32 < lo.natAbs) || decide (32 < hi.natAbs)) && !(chan s n).stFail) = true := by rw [hbad, hst]; rfl
  simp only [selftestEnd, hline, hop, if_pos hfirst, Bool.false_eq_true, if_false]
/-- Both attempts fail: result 3, and the Auto-Molt of the channel. -/
theorem selftestEnd_faults (hst : (chan s n).stFail = true) : selftestEnd n lo hi s =
    autoMolt n (complete o.q o.tag 0 [rd (attemptFaulted n lo hi s) (vk n 0x34)] (attemptFaulted n lo hi s)) := by
  have hsecond : ¬ ((decide (32 < lo.natAbs) || decide (32 < hi.natAbs)) && !(chan s n).stFail) = true := by simp [hst]
  simp only [selftestEnd, attemptFaulted, attemptStored, hline, hop, if_neg hsecond, if_pos hbad, Bool.false_eq_true, if_false, if_true]

end Deviates

/-- The first attempt passes: result 1. -/
theorem selftestEnd_passes (hgood : (decide (32 < lo.natAbs) || decide (32 < hi.natAbs)) = false)
    (hst : (chan s n).stFail = false) : selftestEnd n lo hi s =
    complete o.q o.tag 0 [rd (attemptPassed n lo hi s) (vk n 0x34)] (attemptPassed n lo hi s) := by
  simp only [selftestEnd, attemptPassed, attemptStored, hline, hop, hgood, hst, Bool.false_and, Bool.false_eq_true, if_false]
  exact if_neg (by decide)

end Idle
end Selftest

/-- Settles O26: a MOLT by its copy and its deadline, and each end of an attempt by its deviations and whether one failed before. -/
theorem moltAndSelfTestEvents : Obligations.MoltAndSelfTestEvents := by
  unfold Obligations.MoltAndSelfTestEvents
  refine ⟨?copied, ?switched, ?running, ?late, ?lineRuns, ?retried, ?passed, ?faulted⟩
  case copied =>
    intro h m o n s hl hm hc himm ho hn hline
    exact next_event_live hl ((moltCopied_idle hm hc ho hn hline).trans (if_neg (Bool.eq_false_iff.mp himm)))
  case switched =>
    intro h m o n s hl hm hc himm ho hn hline
    exact next_event_live hl ((moltCopied_idle hm hc ho hn hline).trans (if_pos himm))
  case running => exact fun h m n s hl hm hn hline => next_event_live hl (moltCopied_running hm hn hline)
  case late => exact fun h m s hl hm hd => next_event_live hl (moltDue_passed hm hd)
  case lineRuns => exact fun n lo hi s hl hline => next_event_live hl (selftestEnd_running hline)
  case retried => exact fun n lo hi o s hl hline hop hbad hst => next_event_live hl (selftestEnd_retries hline hop hbad hst)
  case passed => exact fun n lo hi o s hl hline hop hgood hst => next_event_live hl (selftestEnd_passes hline hop hgood hst)
  case faulted => exact fun n lo hi o s hl hline hop hbad hst => next_event_live hl (selftestEnd_faults hline hop hbad hst)

end Sys2Proof.Machine
end

section
/-! PROOFS. CAL_RUN, CAL_COMMIT, CAL_STATUS and CORR_LOAD as they start and answer, and the events that end them (R200–R212). -/

namespace Sys2Proof.Machine

/-! ## CAL_RUN, CAL_COMMIT, CAL_STATUS and CORR_LOAD (R200, R208–R212) -/

/-- The outcomes of a list of channels are cleared (R200). -/
def calCleared (l : List Nat) (s : State) : State :=
  forEach l (fun n t => wr (ck n 0x50) 0 (modChan n (fun x => { x with calRes := 0 }) t)) s

section Bodies
variable {c : Cmd} {s : State}

/-- Channels that a partition may use: it owns each, and nothing holds any. -/
theorem mayUse_iff {part : Nat} {l : List Nat} : mayUse part l s = true ↔ ∀ n ∈ l, ownerOf s 0x02 n = part ∧ busy s 0x02 n = false := by
  simp only [mayUse, List.all_eq_true, Bool.and_eq_true, beq_iff_eq, Bool.not_eq_true']
theorem firstOf_owner_none {part : Nat} {l : List Nat} (h : mayUse part l s = true) :
    firstOf l (fun n => ownerOf s 0x02 n != part) = none :=
  firstOf_none (List.any_eq_false.mpr fun n hn => by simp [(mayUse_iff.mp h n hn).1])
theorem firstOf_busy_none {part : Nat} {l : List Nat} (h : mayUse part l s = true) : firstOf l (busy s 0x02) = none :=
  firstOf_none (List.any_eq_false.mpr fun n hn => by simp [(mayUse_iff.mp h n hn).2])
/-- What no member of a list meets as one of two, it meets as neither. -/
theorem firstOf_or_none {l : List Nat} {f g : Nat → Bool} (h : (l.any fun n => f n || g n) = false) :
    firstOf l f = none ∧ firstOf l g = none := by
  simp only [List.any_eq_false, Bool.or_eq_true, not_or] at h
  exact ⟨firstOf_none (List.any_eq_false.mpr fun n hn => (h n hn).1), firstOf_none (List.any_eq_false.mpr fun n hn => (h n hn).2)⟩

/-- CAL_RUN with a dark or a white phase: the sender's channels are armed, and nothing holds them or its ports. -/
theorem bodyCalRun_accepted {p : Pkt} (h4 : 4 ≤ fld (word p 0) 3 0) (h12 : fld (word p 0) 3 0 ≤ 12) (htmo : fld (word p 7) 15 0 ≠ 0)
    (hm : ((!bit (word p 0) 4 && !bit (word p 0) 5 && !bit (word p 0) 6) || (mask96 (word p 1) (word p 2) (word p 3)).isEmpty) = false)
    (hu : mayUse (sender p s) (mask96 (word p 1) (word p 2) (word p 3)) (taken p s) = true)
    (hp : ((mask96 (word p 4) (word p 5) (word p 6)).any fun n => ownerOf (taken p s) 0x04 n != sender p s || busy (taken p s) 0x04 n) = false)
    (hauto : (bit (word p 0) 7 == (mask96 (word p 4) (word p 5) (word p 6)).isEmpty) = false)
    (hphase : (bit (word p 0) 4 || bit (word p 0) 5) = true)
    (ha : ((mask96 (word p 1) (word p 2) (word p 3)).any fun n => !armed (taken p s) n) = false)
    (hf : opsFull (taken p s) p.q.val = false) : bodyCalRun (cmdOf 0x30 p s) (taken p s) =
      ⟨calCleared (mask96 (word p 1) (word p 2) (word p 3)) (started p (sender p s) (.calRun (calAsked p s)) (taken p s)), 0x01, [], false⟩ := by
  obtain ⟨hown, hidle⟩ := firstOf_or_none hp
  have hpw : ∀ i, pw (cmdOf 0x30 p s) i = word p i := fun _ => rfl
  have hlines : (decide (fld (word p 0) 3 0 < 4) || decide (12 < fld (word p 0) 3 0)) = false := by simp; omega
  have hcompute : (bit (word p 0) 6 && !bit (word p 0) 4 && !bit (word p 0) 5) = false := by
    rw [Bool.and_assoc, ← Bool.not_or, hphase, Bool.not_true, Bool.and_false]
  have hpart : (cmdOf 0x30 p s).part = sender p s := rfl
  simp only [bodyCalRun, maskAt, hpw, hpart, q_cmd, hlines, htmo, hm, firstOf_owner_none hu, hown, hauto, hphase, firstOf_none ha, hcompute,
    firstOf_busy_none hu, hidle, hf, taken_tb, Bool.false_eq_true, if_false, if_true]
  rfl

section Commit
variable (hm : (maskAt c 4).isEmpty = false) (hu : mayUse c.part (maskAt c 4) s = true)
  (hv : ((maskAt c 4).any fun n => !rb s (ck n 0) 1) = false) (hf : opsFull s c.q = false)
include hm hu hv hf

/-- CAL_COMMIT with IMM = 1, of channels that are disarmed. -/
theorem bodyCalCommit_now (hi : bit (pw c 0) 0 = true) (ha : ((maskAt c 4).any fun n => armed s n) = false) :
    bodyCalCommit c s = Ans.long c (.calCommit (maskAt c 4) (maskAt c 4) 0 (s.tb + 1000000 * fld (pw c 3) 15 0) 0 none) s := by
  simp only [bodyCalCommit, hi, hm, firstOf_owner_none hu, firstOf_none ha, firstOf_none (any_false _), firstOf_busy_none hu, firstOf_none hv,
    hf, Bool.true_and, Bool.not_true, Bool.false_and, Bool.false_eq_true, if_false, if_true]
/-- CAL_COMMIT for a line that no channel has started yet, of channels that are armed. -/
theorem bodyCalCommit_atLine (hi : bit (pw c 0) 0 = false) (h1 : 1 ≤ fld (pw c 3) 15 0) (h2 : fld (pw c 3) 15 0 ≤ 60000)
    (ha : ((maskAt c 4).any fun n => !armed s n) = false) (hl : ((maskAt c 4).any fun n => startedAt s n (lineAt c 1)) = false) :
    bodyCalCommit c s =
      Ans.long c (.calCommit (maskAt c 4) (maskAt c 4) (lineAt c 1) (s.tb + 1000000 * fld (pw c 3) 15 0) 0 none)
        (forEach (maskAt c 4) (fun n s => setF (ck n 0) 6 4 5 s) s) := by
  have hdl : (decide (fld (pw c 3) 15 0 = 0) || decide (60000 < fld (pw c 3) 15 0)) = false := by simp; omega
  simp only [bodyCalCommit, hi, hdl, hm, firstOf_owner_none hu, firstOf_none ha, firstOf_none (any_false _), firstOf_busy_none hu,
    firstOf_none hv, firstOf_none hl, hf, Bool.true_and, Bool.not_false, Bool.false_and, Bool.and_false, Bool.false_eq_true, if_false]

end Commit

theorem bodyCalStatus_ok (hn : fld (pw c 0) 6 0 ≤ 95) (ho : (ownerOf s 0x02 (fld (pw c 0) 6 0) != c.part && c.part != 0) = false) :
    bodyCalStatus c s = Ans.ok s ([0, 0x40, 0x44, 0x48, 0x4C, 0x50, 0x54, 0x58, 0x5C, 0x60].map fun o => rd s (ck (fld (pw c 0) 6 0) o)) := by
  simp only [bodyCalStatus, Nat.not_lt.mpr hn, ho, Bool.false_eq_true, if_false]
/-- CORR_LOAD of entries in range, from the sender's pages, for a channel that it may use. -/
theorem bodyCorrLoad_accepted (hn : fld (pw c 0) 6 0 ≤ 95) (h4 : (pw c 1).toNat % 4 = 0) (hlo : 0x30000000 ≤ (pw c 1).toNat)
    (hcount : 1 ≤ fld (pw c 2) 30 16) (hlast : fld (pw c 2) 14 0 + fld (pw c 2) 30 16 ≤ 16384)
    (hhi : (pw c 1).toNat + 4 * fld (pw c 2) 30 16 ≤ 0x31000000) (hu : mayUse c.part [fld (pw c 0) 6 0] s = true)
    (hpages : ((List.range ((((pw c 1).toNat - 0x30000000) + 4 * fld (pw c 2) 30 16 - 1) / 4096 + 1 - ((pw c 1).toNat - 0x30000000) / 4096)).any
      fun k => ownerOf s 0x0E (((pw c 1).toNat - 0x30000000) / 4096 + k) != c.part) = false)
    (hf : opsFull s c.q = false) :
    bodyCorrLoad c s = Ans.long c
      (.corrLoad (fld (pw c 0) 6 0) ((pw c 1).toNat - 0x30000000) (fld (pw c 2) 14 0) (fld (pw c 2) 30 16))
      (setF (ck (fld (pw c 0) 6 0) 0) 6 4 4 (setB (ck (fld (pw c 0) 6 0) 0) 1 false s)) := by
  obtain ⟨hown, hidle⟩ := mayUse_iff.mp hu _ (List.mem_singleton_self _)
  have hsrc : ¬ ((pw c 1).toNat % 4 ≠ 0 ∨ (pw c 1).toNat < 0x30000000 ∨ 0x31000000 ≤ (pw c 1).toNat) := by omega
  have hents : (decide (fld (pw c 2) 30 16 = 0) || decide (16384 < fld (pw c 2) 14 0 + fld (pw c 2) 30 16)) = false := by simp; omega
  simp only [bodyCorrLoad, Nat.not_lt.mpr hn, hsrc, hents, Nat.not_lt.mpr hhi, hown, hpages, hidle, hf, bne_self_eq_false,
    Bool.false_eq_true, if_false]

end Bodies

/-- Settles O20: each row replies what its body answers; CAL_RUN's first phase and the swap of IMM = 1 follow the reply. -/
theorem calibrationCommands : Obligations.CalibrationCommands := by
  unfold Obligations.CalibrationCommands
  refine ⟨?run, ?commitNow, ?commitAtLine, ?status, ?load⟩
  case run =>
    intro p s hr hl h4 h12 htmo hm hu hp hauto hphase ha hf
    have hbody := bodyCalRun_accepted h4 h12 htmo hm hu hp hauto hphase ha hf
    exact congrArg Host.Outcome.next ((hostRow_followed hr rfl (by simp [lenIs, hl]) hbody).trans (congrArg finish (if_pos rfl)))
  case commitNow =>
    intro p s hr hl hi hm hu ha hv hf
    have hbody := bodyCalCommit_now (c := cmdOf 0x31 p s) hm hu hv hf hi ha
    rw [taken_tb] at hbody
    refine congrArg Host.Outcome.next ((hostRow_followed hr rfl (by simp [lenIs, hl]) hbody).trans (congrArg finish ?_))
    exact if_pos hi
  case commitAtLine =>
    intro p s hr hl hi h1 h2 hm hu ha hv hline hf
    have hbody := bodyCalCommit_atLine (c := cmdOf 0x31 p s) hm hu hv hf hi h1 h2 ha hline
    rw [taken_tb] at hbody
    refine congrArg Host.Outcome.next ((hostRow_followed hr rfl (by simp [lenIs, hl]) hbody).trans (congrArg finish ?_))
    exact if_neg (Bool.eq_false_iff.mp hi)
  case status =>
    intro p s hr hl hn ho
    have hbody := bodyCalStatus_ok (c := cmdOf 0x32 p s) (s := taken p s) hn ho
    exact congrArg Host.Outcome.next (plainRow_replies hr hl hbody)
  case load =>
    intro p s hr hl hn h4 hlo hcount hlast hhi hu hpages hf
    have hbody := bodyCorrLoad_accepted (c := cmdOf 0x33 p s) hn h4 hlo hcount hlast hhi hu hpages hf
    exact congrArg Host.Outcome.next (plainRow_replies hr hl hbody)

/-! ## The compute stage, TMO, DEADLINE and the end of CORR_LOAD (R204, R205, R208, R211) -/

section Events
variable {q tag n : Nat} {o : LongOp} {s : State}

section Run
variable {c : CalSt} (ho : opOf s q tag = some o) (hk : o.kind = .calRun c)
include ho hk

theorem calCompute_ends (h2 : c.stage = 2) (hc : c.compute = true) : calCompute q tag s =
    calFinish q tag c (forEach (c.chans.filter fun n => (chan s n).calRes == 0) (computeChan c) s) := by
  simp only [calCompute, ho, hk, h2, hc, and_self, if_true]
/-- TMO ends a phase: a channel that has not finished fails with code 5, and the compute stage begins. -/
theorem calTimeout_passed (h2 : c.stage < 2) (ht : c.tmo ≤ s.tb) : calTimeout q tag s =
    calStage q tag { c with stage := 2 } (forEach c.chans (fun n t => modChan n (fun x =>
        { x with calRes := if x.calRes = 0 ∧ (x.calLeft ≠ 0 ∨ decide (calNext c = 1) = true) then 5 else x.calRes, calLeft := 0 }) t)
      (calLight c (calValid c s))) := by
  have hdue : ¬ (2 ≤ c.stage ∨ s.tb < c.tmo) := by omega
  simp only [calTimeout, ho, hk, hdue, if_false]

end Run

/-- DEADLINE passes before any channel has swapped. -/
theorem commitDeadline_tooLate {left all : List Nat} {l dl late : Nat} (ho : opOf s q tag = some o)
    (hk : o.kind = .calCommit left all l dl late none) (hd : dl ≤ s.tb) :
    commitDeadline q tag s = complete q tag 0x0B [0xFF] (forEach all (fun n t => setF (ck n 0) 6 4 0 t) s) := by
  simp only [commitDeadline, ho, hk, Nat.not_lt.mpr hd, Option.isNone_none, if_false, if_true]
  rfl

variable {src first count : Nat}

/-- Which bank is active does not change as the other is filled. -/
theorem actBank_loaded : actBank (loaded n src first count s) n = actBank s n := by
  rw [actBank, actBank, rf, rf, loaded, rd_congr (corrFill_regs ..)]
/-- CORR_LOAD of entries that pass every check: the shadow is valid, and SHADOW is answered. -/
theorem corrLoaded_passed (ho : loadOp s n = some o) (hk : o.kind = .corrLoad n src first count)
    (hlim : ((shadow n (loaded n src first count s)).findIdx? fun e =>
      !entDef e && !inLimits (loaded n src first count s) n (entOfs e) (entGain e)) = none)
    (hcheck : checkShadow (loaded n src first count s) n (countBad (shadow n (loaded n src first count s)))
      (countMoved (loaded n src first count s) n (bankEnts (loaded n src first count s) n (actBank (loaded n src first count s) n))
        (shadow n (loaded n src first count s))) = 0) :
    corrLoaded n s = complete o.q o.tag 0 [rd (loadPassed n (loaded n src first count s)) (ck n 0x4C)]
      (setB (ck n 0) 1 true (loadPassed n (loaded n src first count s))) := by
  have hshadow : bankEnts (loaded n src first count s) n (1 - actBank s n) = shadow n (loaded n src first count s) := by
    rw [shadow, actBank_loaded]
  simp only [corrLoaded, ho, hk, ← loaded.eq_1, hshadow, hlim, hcheck, Option.isSome_none, Bool.false_eq_true, if_false, if_true]
  rfl

end Events

/-- Settles O21: each event by what its operation is and what it has come to. -/
theorem calibrationEvents : Obligations.CalibrationEvents := by
  unfold Obligations.CalibrationEvents
  refine ⟨?computed, ?timeout, ?deadline, ?loaded⟩
  case computed => exact fun q tag o c s hl ho hk h2 hc => next_event_live hl (calCompute_ends ho hk h2 hc)
  case timeout => exact fun q tag o c s hl ho hk h2 ht => next_event_live hl (calTimeout_passed ho hk h2 ht)
  case deadline => exact fun q tag o left all l dl late s hl ho hk hd => next_event_live hl (commitDeadline_tooLate ho hk hd)
  case loaded => exact fun n o src first count s hl ho hk hlim hcheck => next_event_live hl (corrLoaded_passed ho hk hlim hcheck)

end Sys2Proof.Machine
end

section
/-! PROOFS. The outputs of a line on the fine and the fast path, with their flags (R223–R229). -/

namespace Sys2Proof.Machine

section Flags
variable {c : PathCfg} {vs raw : List Mk} {i j : Nat} {o u : OutW}

/-! ## The fine path (R223, R228) -/

theorem fineLine_settle_edge_exclusive (h : (fineLine c vs raw)[i]? = some o) : (o.settle && o.edge) = false := by
  obtain ⟨x, -, rfl⟩ := fineLine_get h
  cases c.edge <;> simp
/-- The flagged fine outputs are the first S of the line, whichever of the two flags it carries (R228). -/
theorem fineLine_flagged (h : (fineLine c vs raw)[i]? = some o) : (o.settle || o.edge) = decide (i < settleCount c vs.length) := by
  obtain ⟨x, -, rfl⟩ := fineLine_get h
  cases c.edge <;> simp
theorem fineLine_range (h : (fineLine c vs raw)[i]? = some o) : -32768 ≤ o.y ∧ o.y ≤ 32767 := by
  obtain ⟨x, -, rfl⟩ := fineLine_get h
  exact sat16_range x.1
theorem fineLine_flagged_of_le (hij : i ≤ j) (ho : (fineLine c vs raw)[i]? = some o) (hu : (fineLine c vs raw)[j]? = some u)
    (hf : (u.settle || u.edge) = true) : (o.settle || o.edge) = true := by
  rw [fineLine_flagged hu, decide_eq_true_iff] at hf
  rw [fineLine_flagged ho, decide_eq_true_iff]
  exact hij.trans_lt hf

/-! ## The fast path (R225, R229) -/

theorem fastLine_settle_edge_exclusive (h : (fastLine c raw)[i]? = some o) : (o.settle && o.edge) = false := by
  obtain ⟨x, -, rfl⟩ := fastLine_get h
  cases c.edge
  · simp only [Bool.and_false]
  · cases decide (t0Of c + i * c.d < c.d - 1) <;> simp
/-- The flagged fast outputs are those taken before the delay and one whole group have passed; a group that is partial
ends before that (R229). -/
theorem fastLine_flagged (h : (fastLine c raw)[i]? = some o) :
    (o.settle || o.edge) = decide (t0Of c + i * c.d < c.delta + c.d - 1) := by
  obtain ⟨x, -, rfl⟩ := fastLine_get h
  by_cases hpart : t0Of c + i * c.d < c.d - 1
  · have hfill : t0Of c + i * c.d < c.delta + c.d - 1 := by omega
    simp only [hpart, hfill, decide_true, Bool.true_or]
  · cases c.edge <;> simp [hpart]
theorem fastLine_range (h : (fastLine c raw)[i]? = some o) : -32768 ≤ o.y ∧ o.y ≤ 32767 := by
  obtain ⟨x, -, rfl⟩ := fastLine_get h
  exact sat16_range x.1
/-- The instants of a line's outputs do not go back. -/
theorem instant_mono (c : PathCfg) (hij : i ≤ j) : t0Of c + i * c.d ≤ t0Of c + j * c.d :=
  Nat.add_le_add_left (Nat.mul_le_mul_right _ hij) _
theorem fastLine_flagged_of_le (hij : i ≤ j) (ho : (fastLine c raw)[i]? = some o) (hu : (fastLine c raw)[j]? = some u)
    (hf : (u.settle || u.edge) = true) : (o.settle || o.edge) = true := by
  rw [fastLine_flagged hu, decide_eq_true_iff] at hf
  rw [fastLine_flagged ho, decide_eq_true_iff]
  exact (instant_mono c hij).trans_lt hf

end Flags

/-- Settles O60: on each path the flags of an output depend on its index, or its instant, lying below one bound. -/
theorem flaggedOutputsLead : Obligations.FlaggedOutputsLead := by
  unfold Obligations.FlaggedOutputsLead
  refine ⟨?fineValue, ?fastValue, ?fineFlags, ?fastFlags⟩
  case fineValue =>
    intro c vs raw i o h
    obtain ⟨hlo, hhi⟩ := fineLine_range h
    exact ⟨hlo, hhi, fineLine_settle_edge_exclusive h⟩
  case fastValue =>
    intro c raw i o h
    obtain ⟨hlo, hhi⟩ := fastLine_range h
    exact ⟨hlo, hhi, fastLine_settle_edge_exclusive h⟩
  case fineFlags => exact fun _ _ _ _ _ _ _ => fineLine_flagged_of_le
  case fastFlags => exact fun _ _ _ _ _ _ => fastLine_flagged_of_le

end Sys2Proof.Machine
end

section
/-! PROOFS. SYNC, FREEZE and STATS_SNAP (R220, R237, R274). -/

namespace Sys2Proof.Machine

section Bodies
variable {c : Cmd} {s : State}

/-- SYNC of channels the caller may use, none of which has a SYNC pending or has started the line, is made pending in
each (R237). -/
theorem bodySync_ok (hm : (maskAt c 3).isEmpty = false) (hu : mayUse c.part (maskAt c 3) s = true)
    (hp : ((maskAt c 3).any fun n => rb s (fk n 0x40) 4) = false)
    (hl : ((maskAt c 3).any fun n => !bit (pw c 0) 0 && startedAt s n (lineAt c 1)) = false) :
    bodySync c s = Ans.ok (forEach (maskAt c 3) (syncSet (bit (pw c 0) 0) (bit (pw c 0) 1) (lineAt c 1)) s) [] := by
  simp only [bodySync, hm, firstOf_owner_none hu, firstOf_busy_none hu, firstOf_none hp, firstOf_none hl, Bool.false_eq_true, if_false]
/-- FREEZE of channels the caller may use sets or clears the freeze of each (R220). -/
theorem bodyFreeze_ok {on : Bool} (hm : (maskAt c 1).isEmpty = false) (hu : mayUse c.part (maskAt c 1) s = true) :
    bodyFreeze on c s = Ans.ok (forEach (maskAt c 1) (fun n t => setFrz n on t) s) [] := by
  simp only [bodyFreeze, hm, firstOf_owner_none hu, firstOf_busy_none hu, Bool.false_eq_true, if_false]

section Zones
variable (h1 : 1 ≤ fld (pw c 0) 26 16) (hz : fld (pw c 0) 9 0 + fld (pw c 0) 26 16 ≤ 1024) (ha : (pw c 1).toNat % 16 = 0)
  (hlo : 0x30000000 ≤ (pw c 1).toNat) (hhi : (pw c 1).toNat + 48 * fld (pw c 0) 26 16 ≤ 0x31000000)
  (hoz : ((List.range (fld (pw c 0) 26 16)).any fun i => ownerOf s 0x08 (fld (pw c 0) 9 0 + i) != c.part) = false)
  (hop : ((List.range (((pw c 1).toNat - 0x30000000 + 48 * fld (pw c 0) 26 16 - 1) / 4096 + 1)).any fun x =>
    decide (((pw c 1).toNat - 0x30000000) / 4096 ≤ x) && ownerOf s 0x0E x != c.part) = false)
  (hbz : ((List.range (fld (pw c 0) 26 16)).any fun i => busy s 0x08 (fld (pw c 0) 9 0 + i)) = false)
  (hbp : ((List.range (((pw c 1).toNat - 0x30000000 + 48 * fld (pw c 0) 26 16 - 1) / 4096 + 1 -
    ((pw c 1).toNat - 0x30000000) / 4096)).any fun x => busy s 0x0E (((pw c 1).toNat - 0x30000000) / 4096 + x)) = false)
include h1 hz ha hlo hhi hoz hop hbz hbp

/-- STATS_SNAP of zones and pages that the caller owns and nothing holds writes the records and answers the time and
their number (R274). -/
theorem bodyStatsSnap_ok : bodyStatsSnap c s =
    Ans.ok (snapZones (fld (pw c 0) 26 16) (fld (pw c 0) 9 0) ((pw c 1).toNat - 0x30000000) s)
      (words64 s.tb ++ [BitVec.ofNat 32 (fld (pw c 0) 26 16)]) := by
  have hcount : ¬ (fld (pw c 0) 26 16 = 0 ∨ 1024 < fld (pw c 0) 26 16 ∨ 1024 < fld (pw c 0) 9 0 + fld (pw c 0) 26 16) := by omega
  have hplace : ¬ ((pw c 1).toNat % 16 ≠ 0 ∨ (pw c 1).toNat < 0x30000000 ∨
      0x31000000 < (pw c 1).toNat + 48 * fld (pw c 0) 26 16) := by omega
  simp only [bodyStatsSnap, hcount, hplace, hoz, hop, hbz, hbp, Bool.false_eq_true, if_false]

end Zones
end Bodies

/-- Settles O23: each row replies what its body answers. -/
theorem lineCommands : Obligations.LineCommands := by
  unfold Obligations.LineCommands
  refine ⟨?sync, ?freeze, ?freezeRelease, ?statsSnap⟩
  case sync =>
    intro p s h hl hm hu hp hs
    have hbody := bodySync_ok (c := cmdOf 0x42 p s) (s := taken p s) hm hu hp hs
    exact congrArg Host.Outcome.next (plainRow_replies h hl hbody)
  case freeze =>
    intro p s h hl hb hm hu
    have hbody := bodyFreeze_ok (c := cmdOf 0x43 p s) (s := taken p s) (on := true) hm hu
    have hsel : (selOf 0 0 p.pay != some 0) = true := by rw [selOf_word hl, fldbit, hb]; rfl
    exact congrArg Host.Outcome.next (hostRow_replies h hsel (by simp [lenIs, hl]) hbody)
  case freezeRelease =>
    intro p s h hl hb hm hu
    have hbody := bodyFreeze_ok (c := cmdOf 0x43 p s) (s := taken p s) (on := false) hm hu
    have hop : fld (word p 0) 0 0 = 0 := by rw [fldbit, hb]; rfl
    exact congrArg Host.Outcome.next (selRow_replies h hl hop hbody)
  case statsSnap =>
    intro p s h hl h1 hz ha hlo hhi hoz hop hbz hbp
    have hbody := bodyStatsSnap_ok (c := cmdOf 0x44 p s) (s := taken p s) h1 hz ha hlo hhi hoz hop hbz hbp
    rw [taken_tb] at hbody
    exact congrArg Host.Outcome.next (plainRow_replies h hl hbody)

end Sys2Proof.Machine
end

section
/-! PROOFS. Events and markers at the tile collector (R258–R260), and what leaves the stitcher (R261, R264, R265). -/

namespace Sys2Proof.Machine

/-! ## The collector -/

/-- Channel `n` once its oldest event has left its queue, which then holds `q`. -/
def queueAdvanced (n : Nat) (q : List QItem) (s : State) : State := modChan n (fun c => { c with evq := q }) s
/-- Burst `b` of channel `n` stands in the collector as one record, its events delivered in a burst (R259). -/
def burstWritten (n : Nat) (b : Burst) (s : State) : State :=
  ledAdd 2 n 2 b.n (ledAdd 2 n 0 b.n (setB (thk n 0x20) 0 true (collWrite n (burstRec b) s)))
/-- Burst `b` of channel `n` finds no room: its record is lost, its events discarded (R259). -/
def burstDiscarded (n : Nat) (b : Burst) (s : State) : State :=
  ledAdd 2 n 3 b.n (ledAdd 2 n 0 b.n (setB (thk n 0x20) 1 true (incR (thk n 0x2C) s)))

section Collector
variable {n : Nat} {q : List QItem} {s : State}

/-- An event leaves its channel's queue, and the room at its collector decides where it goes (R258). -/
theorem eventArrives_ev {r : EvRec} (hq : (chan s n).evq = .ev r :: q) : eventArrives n s =
    if (chan (queueAdvanced n q s) n).burst.isNone && collRoom (queueAdvanced n q s) n then
      ledAdd 2 n 1 1 (ledAdd 2 n 0 1 (collWrite n r (queueAdvanced n q s)))
    else modChan n (fun c => { c with burst := some (joinBurst c.burst r) }) (queueAdvanced n q s) := by
  rw [eventArrives, hq]; rfl

section Marker
variable {t : LineTag} (hq : (chan s n).evq = .mark t :: q)
include hq

theorem markerArrives_noBurst (hb : (chan s n).burst = none) : markerArrives n s = markerPassed n t q s := by
  rw [markerArrives, hq, hb]; rfl

/-- The marker ends the burst of its line: the room that is left decides whether the burst is written (R259). -/
theorem markerArrives_burst {b : Burst} (hb : (chan s n).burst = some b) : markerArrives n s =
    markerPassed n t q (if collRoom (incR (thk n 0x28) s) n then burstWritten n b (incR (thk n 0x28) s)
      else burstDiscarded n b (incR (thk n 0x28) s)) := by
  rw [markerArrives, hq, hb]; rfl

end Marker
end Collector

/-- Settles O37: an event by `eventArrives_ev`, a marker by whether its line has a burst, and each by the room at the collector. -/
theorem eventsReachTheirCollector : Obligations.EventsReachTheirCollector := by
  unfold Obligations.EventsReachTheirCollector
  refine ⟨?written, ?joins, ?noBurst, ?burstWritten, ?burstDiscarded⟩
  case written => exact fun n r q s hl hq hroom => next_event_live hl ((eventArrives_ev hq).trans (if_pos hroom))
  case joins =>
    exact fun n r q s hl hq hroom => next_event_live hl ((eventArrives_ev hq).trans (if_neg (Bool.eq_false_iff.mp hroom)))
  case noBurst => exact fun n t q s hl hq hb => next_event_live hl (markerArrives_noBurst hq hb)
  case burstWritten =>
    intro n t q b s hl hq hb hroom
    exact next_event_live hl ((markerArrives_burst hq hb).trans (congrArg (markerPassed n t q) (if_pos hroom)))
  case burstDiscarded =>
    intro n t q b s hl hq hb hroom
    have hno : ¬ collRoom (incR (thk n 0x28) s) n = true := Bool.eq_false_iff.mp hroom
    exact next_event_live hl ((markerArrives_burst hq hb).trans (congrArg (markerPassed n t q) (if_neg hno)))

/-! ## The stitcher -/

section Stitcher
variable {s : State}

/-- The first tile in turn, from the one the stitcher is at, whose collector holds an item (R261). -/
def nextTile (s : State) : Option Nat :=
  ((List.range 8).map fun i => (s.stRr + i) % 8).find? fun t => !(coll s t).isEmpty
/-- The first item of tile `t`'s collector is taken, `xs` stay, and the turn passes to the next tile (R261). -/
def itemTaken (t : Nat) (xs : List (Nat × QItem)) (s : State) : State := { setColl t xs s with stRr := (t + 1) % 8 }

section Takes
variable {t n : Nat} {xs : List (Nat × QItem)} (ht : nextTile s = some t)
include ht

theorem stitcherTakes_record {r : EvRec} (hx : coll s t = (n, .ev r) :: xs) :
    stitcherTakes s = stitchRec r (itemTaken t xs s) := by
  rw [nextTile] at ht
  simp only [stitcherTakes, ht, hx, itemTaken]
theorem stitcherTakes_marker {m : LineTag} (hx : coll s t = (n, .mark m) :: xs) :
    stitcherTakes s = stitchMark m (itemTaken t xs s) := by
  rw [nextTile] at ht
  simp only [stitcherTakes, ht, hx, itemTaken]

end Takes

/-- With a slot in the insert buffer and no record at the rules the stitcher takes an item. -/
theorem stitcherRow_free (hf : insFull s = false) (hr : s.ruleQ = []) : stitcherRow s = recordsOut (stitcherTakes s) :=
  if_pos (by rw [hf, hr]; rfl)
/-- A full insert buffer, or a record that waits at the rules (log entry 70), stops the stitcher. -/
theorem stitcherRow_stopped (h : (!insFull s && s.ruleQ.isEmpty) = false) : stitcherRow s = s :=
  if_neg (Bool.eq_false_iff.mp h)

end Stitcher

/-- Settles O38: the stitcher takes a record or a marker, or stops; a time-out releases the candidates of its head that are
late, as `stitchTimeouts` says. -/
theorem recordsLeaveTheStitcher : Obligations.RecordsLeaveTheStitcher := by
  unfold Obligations.RecordsLeaveTheStitcher
  refine ⟨?record, ?marker, ?stopped, ?timeout⟩
  case record =>
    intro t n r xs s hl hf hr ht hx
    exact next_event_live hl ((stitcherRow_free hf hr).trans (congrArg recordsOut (stitcherTakes_record ht hx)))
  case marker =>
    intro t n m xs s hl hf hr ht hx
    exact next_event_live hl ((stitcherRow_free hf hr).trans (congrArg recordsOut (stitcherTakes_marker ht hx)))
  case stopped => exact fun s hl h => next_event_live hl (stitcherRow_stopped h)
  case timeout => exact fun h s hl => next_event_live (f := fun u => recordsOut (stitchTimeouts h.val u)) hl rfl

end Sys2Proof.Machine
end

section
/-! PROOFS. What a device that is not alive does (R412, R419, R423, R426), and what a step takes from its queue. -/

namespace Sys2Proof.Machine

section Dead
variable {s : State}

/-- A row that leaves the state as it was. -/
theorem next_same {t : State} (h : t = s) : (.next t : Host.Outcome State Fault Refusal) = .next s := congrArg Host.Outcome.next h
/-- A row of a host port does nothing on a device that is not alive. -/
theorem ite_hostOn_dead {k : Nat} {t : State} (h : live s = false) : (if hostOn s k then t else s) = s :=
  if_neg (Bool.eq_false_iff.mp (hostOn_dead h))

/-- A command or event that is not the board's leaves a device that is not alive as it was. The rows are told apart by what
takes them: a ring, a register access, or, as most are, a unit that is alive. -/
theorem exec_dead (c : Instr) (h : live s = false) (hb : ofTheBoard c = false) : exec c s = .next s := by
  cases c with
  | nop | ident | time | regRead | regModify | regPeek | assign | release | lock | quota | partReset | calStatus | corrLoad | sync
  | statsSnap | actCancel | actQuery | molt | fence | unfence | selftest | bitBegin | bitData | readback | ledgerRead | faultClear
  | severitySet | nvmRead | nvmLock | supSnap | ffClear | regWrite | unlock | unlockForce | calRun | calCommit | freeze
  | freezeRelease | bitEnd | regionReset | regionStart | regionClkstop | regionClkrun | regionClear | ledgerSnap | faultReadRecords
  | faultReadCapture | faultReadStatus | injectRaise | injectHold | injectBrokenWire | injectRelease | nvmWrite | supUrgent
  | supPathTest | ffLoad | swarmStop | swarmListen | swarmTrain | resync | dmaKick | dmaPause | dmaResume | dmaAbort | dmaEnable
  | dmaDisable | armChannels | armGenerator | disarmChannels | disarmGenerator => exact next_same (hostRow_dead h)
  | actInsert => exact next_same (ite_same rfl (plainRow_dead h))
  | reservedOpcode => exact next_same (reservedRow_dead h)
  | unboundQueueCommand => exact next_same (unboundRow_dead h)
  | incompletePacket => exact next_same (incompleteRow_dead h)
  | doorbell => exact next_same (doorbellRow_dead h)
  | qctlWrite => exact next_same (qctlRow_dead h)
  | w1cWrite | registerWrite => exact next_same (targetWrite_dead h)
  | tbLoRead | rdescSelectRead => exact next_same (busRead_dead h)
  | latchedLoRead => exact next_same (latchRow_dead h)
  | peakRead => exact next_same (peakRow_dead h)
  | axisForce | axisRestore | axisPreset | strobeMaskWrite | creditWrite | zoneEnable | zoneDisable | dmaPauseBitWrite | gpioBankWrite
  | irqSelWrite | powerStateRun | powerStateIdle | powerStateStandby => exact next_same (wholeWrite_dead h)
  | tileClkStart | ffDisable | recordRingEnable => exact next_same (ite_same (wholeWrite_dead h) rfl)
  | tileClkStop | ffEnable => exact next_same (ite_same rfl (wholeWrite_dead h))
  | spiTransaction => exact next_same (spiRow_dead h)
  | bar2Read | bar2Write => exact next_same (ite_hostOn_dead h)
  | brokenWire | brokenWireCleared | dieOverTemperature | dieTemperatureNormal | sclkRefLost | sclkRefReturn | referencePllUnlock
  | referencePllLock | syncMissing | syncReturn | powerFail | powerOnResetEntry | powerOnResetRelease | resetNAssert | resetNRelease
  | domainSupplyValid | domainSupplyLost | hostLinkDown | hostLinkUp | perstRelease | tripNLow | tripNHigh => cases hb
  | _ => exact next_same (event_dead h)

end Dead

/-- Settles O55: `exec_dead`. -/
theorem deadDeviceDoesNothing : Obligations.DeadDeviceDoesNothing := by
  unfold Obligations.DeadDeviceDoesNothing
  exact fun c s h hb => exec_dead c h hb

/-- Settles O51: the queue's front is what `step` matches on, and its rest stays. -/
theorem stepTakesFrontCommand : Obligations.StepTakesFrontCommand := by
  unfold Obligations.StepTakesFrontCommand
  intro c cs s
  rw [step]

end Sys2Proof.Machine
end

section
/-! PROOFS. ACT_INSERT, ACT_CANCEL and ACT_QUERY (R303, R305, R306), MOLT, FENCE, UNFENCE and SELFTEST as they are accepted
(R188, R312–R314). -/

namespace Sys2Proof.Machine

/-! ## The action queue (R303, R305, R306) -/

@[simp] theorem taken_insBuf (p : Pkt) (s : State) : (taken p s).insBuf = s.insBuf := by rw [taken, take_eq]
@[simp] theorem taken_insWait (p : Pkt) (s : State) : (taken p s).insWait = s.insWait := by rw [taken, take_eq]

/-- The insert that an ACT_INSERT packet asks for, with its reply still to come (R303). -/
def insertOf (p : Pkt) (s : State) : Insert :=
  ⟨fld (word p 0) 2 0, BitVec.ofNat 48 ((word p 1).toNat + 2 ^ 32 * fld (word p 2) 15 0), word p 3, word p 4, word p 5,
    bit (word p 0) 3, sender p s, some ⟨p.q.val, p.tag.toNat, p.flags.getLsbD 0, sender p s⟩⟩

section Action
variable {p : Pkt} {c : Cmd} {s : State}

/-- A sound action of a member of the axis's use set, on a target that is its own and that nothing holds. -/
theorem bodyActInsert_accepted (hb : actBad (word p 3) (word p 4) = false) (hm : actMay (cmdOf 0x50 p s) (taken p s) = true)
    (hh : ((actTarget (word p 3)).any fun x => busy (taken p s) x.1 x.2) = false) :
    bodyActInsert (cmdOf 0x50 p s) (taken p s) = ⟨insPeak { taken p s with insBuf := s.insBuf ++ [insertOf p s] }, 0, [], true⟩ := by
  have hpw : ∀ i, pw (cmdOf 0x50 p s) i = word p i := fun _ => rfl
  simp only [bodyActInsert, hpw, hb, hm, hh, taken_insBuf, Bool.not_true, Bool.false_eq_true, if_false]
  rfl
/-- While the insert buffer has a slot the row of ACT_INSERT does not wait (R295). -/
theorem execActInsert_room (h : s.insBuf.length < 1024) : execActInsert p s = .next (plainRow 0x50 6 bodyActInsert p s) := by
  simp only [execActInsert, Nat.not_le.mpr h, decide_false, Bool.false_and, Bool.false_eq_true, if_false]
theorem bodyActCancel_ok (hp : (c.part != 0 && fld (pw c 0) 4 0 != c.part) = false) : bodyActCancel c s =
    Ans.ok (removeEntries (selects (pw c)) 3 s) [BitVec.ofNat 32 (s.paq.filter (selects (pw c))).length] :=
  if_neg (Bool.eq_false_iff.mp hp)
theorem bodyActQuery_ok (hp : (c.part != 0 && fld (pw c 0) 4 0 != c.part) = false) : bodyActQuery c s =
    Ans.ok s ([BitVec.ofNat 32 (s.paq.filter (selects (pw c))).length] ++ (keyOf (nearestE s (s.paq.filter (selects (pw c))))).1 ++
      (keyOf (farthestE s (s.paq.filter (selects (pw c))))).1 ++
      [BitVec.ofNat 32 ((keyOf (nearestE s (s.paq.filter (selects (pw c))))).2 + 256 * (keyOf (farthestE s (s.paq.filter (selects (pw c))))).2)]) :=
  if_neg (Bool.eq_false_iff.mp hp)

end Action

/-- Settles O24: the insert waits for its reply, the other two reply what their bodies answer. -/
theorem actionCommands : Obligations.ActionCommands := by
  unfold Obligations.ActionCommands
  refine ⟨?insert, ?cancel, ?query⟩
  case insert =>
    intro p s h hl hroom hbad hu ht hheld
    have hmay : actMay (cmdOf 0x50 p s) (taken p s) = true := (Bool.and_eq_true _ _).mpr ⟨hu, ht⟩
    have hbody := bodyActInsert_accepted hbad hmay hheld
    have hrow := hostRow_waits (sel := anyPay) (lenOk := lenIs 6) h rfl (by simp [lenIs, hl]) hbody
    rw [waits, insPeak, setF, wr, taken_insWait] at hrow
    exact (execActInsert_room hroom).trans (congrArg Host.Outcome.next hrow)
  case cancel =>
    intro p s h hl hp
    exact congrArg Host.Outcome.next (plainRow_replies h hl (bodyActCancel_ok (c := cmdOf 0x51 p s) (s := taken p s) hp))
  case query =>
    intro p s h hl hp
    exact congrArg Host.Outcome.next (plainRow_replies h hl (bodyActQuery_ok (c := cmdOf 0x52 p s) (s := taken p s) hp))

/-! ## MOLT, FENCE, UNFENCE and SELFTEST (R188, R312–R314) -/

/-- One channel that a partition may use. -/
theorem mayUse_single {part n : Nat} {s : State} (h : mayUse part [n] s = true) : ownerOf s 0x02 n = part ∧ busy s 0x02 n = false :=
  mayUse_iff.mp h n (List.mem_singleton_self n)

section Channels
variable {c : Cmd} {s : State} (hn : fld (pw c 0) 6 0 ≤ 95)
include hn

/-- A MOLT in range that R314 does not refuse is outstanding from time `t`, with its head, both channels and its deadline. -/
theorem bodyMolt_accepted {t : Nat} (htb : s.tb = t) (h1 : 1 ≤ fld (pw c 3) 15 0) (h2 : fld (pw c 3) 15 0 ≤ 60000)
    (ht : fld (pw c 0) 14 8 = 0x7F ∨ fld (pw c 0) 14 8 / 12 = fld (pw c 0) 6 0 / 12)
    (hr : moltRefusal c s (fld (pw c 0) 6 0) (chanOf s (fld (pw c 0) 6 0))
      (if fld (pw c 0) 14 8 = 0x7F then none else some (fld (pw c 0) 14 8)) (bit (pw c 0) 16) (lineAt c 1) = none)
    (hf : opsFull s c.q = false) :
    bodyMolt c s = Ans.long c (.molt (fld (pw c 0) 6 0)) { s with molts := s.molts ++
      [⟨fld (pw c 0) 6 0, chanOf s (fld (pw c 0) 6 0), if fld (pw c 0) 14 8 = 0x7F then none else some (fld (pw c 0) 14 8),
        bit (pw c 0) 16, bit (pw c 0) 17, lineAt c 1, t + 1000000 * fld (pw c 3) 15 0, false, false⟩] } := by
  subst htb
  have hdl : ¬ (fld (pw c 3) 15 0 = 0 ∨ 60000 < fld (pw c 3) 15 0) := by omega
  have htile : ¬ (fld (pw c 0) 14 8 ≠ 0x7F ∧ fld (pw c 0) 14 8 / 12 ≠ fld (pw c 0) 6 0 / 12) := by omega
  simp only [bodyMolt, Nat.not_lt.mpr hn, hdl, htile, hr, hf, Bool.false_eq_true, if_false]

variable (hu : mayUse c.part [fld (pw c 0) 6 0] s = true)
include hu

theorem bodyFence_ok (hs : (!bit (pw c 0) 16 && startedAt s (fld (pw c 0) 6 0) (lineAt c 1)) = false) : bodyFence c s =
    Ans.ok (if bit (pw c 0) 16 then fenceNow (fld (pw c 0) 6 0) s else fenceAt (fld (pw c 0) 6 0) (lineAt c 1) s) [] := by
  obtain ⟨hown, hidle⟩ := mayUse_single hu
  simp only [bodyFence, Nat.not_lt.mpr hn, hown, hidle, hs, bne_self_eq_false, Bool.false_eq_true, if_false]
/-- UNFENCE of a fenced channel that serves no head and is not armed. -/
theorem bodyUnfence_ok (hf : fenced s (fld (pw c 0) 6 0) = true)
    (hs : ((headOf s (fld (pw c 0) 6 0)).isSome || armed s (fld (pw c 0) 6 0)) = false) : bodyUnfence c s =
    Ans.ok (setB (hk (fld (pw c 0) 6 0) 0) 0 true (wr (hk (fld (pw c 0) 6 0) 0xC) 0 (wr (hk (fld (pw c 0) 6 0) 0x10) 0
      (setB (hk (fld (pw c 0) 6 0) 8) 8 false s)))) [] := by
  obtain ⟨hown, hidle⟩ := mayUse_single hu
  simp only [bodyUnfence, Nat.not_lt.mpr hn, hown, hidle, hf, hs, bne_self_eq_false, Bool.not_true, Bool.false_eq_true, if_false]
/-- SELFTEST of a channel that is not armed, in a tile whose converters are calibrated. -/
theorem bodySelftest_accepted (ha : armed s (fld (pw c 0) 6 0) = false) (hcal : rb s (tk (fld (pw c 0) 6 0 / 12) 4) 1 = true)
    (hf : opsFull s c.q = false) : bodySelftest c s =
    { Ans.long c (.selftest (fld (pw c 0) 6 0)) (modChan (fld (pw c 0) 6 0) (fun x => { x with stFail := false }) s) with
      st := pathReset (fld (pw c 0) 6 0)
        (Ans.long c (.selftest (fld (pw c 0) 6 0)) (modChan (fld (pw c 0) 6 0) (fun x => { x with stFail := false }) s)).st } := by
  obtain ⟨hown, hidle⟩ := mayUse_single hu
  simp only [bodySelftest, Nat.not_lt.mpr hn, hown, hidle, ha, hcal, hf, bne_self_eq_false, Bool.not_true, Bool.false_eq_true, if_false]

end Channels

/-- Settles O25: each row replies what its body answers. -/
theorem moltAndFenceCommands : Obligations.MoltAndFenceCommands := by
  unfold Obligations.MoltAndFenceCommands
  refine ⟨?molt, ?fence, ?unfence, ?selftest⟩
  case molt =>
    intro p s h hl hn h1 h2 ht hr hf
    have hbody := bodyMolt_accepted (c := cmdOf 0x60 p s) hn (taken_tb p s) h1 h2 ht hr hf
    exact congrArg Host.Outcome.next (plainRow_replies h hl hbody)
  case fence =>
    intro p s h hl hn hu hs
    exact congrArg Host.Outcome.next (plainRow_replies h hl (bodyFence_ok (c := cmdOf 0x61 p s) (s := taken p s) hn hu hs))
  case unfence =>
    intro p s h hl hn hu hf hs
    exact congrArg Host.Outcome.next (plainRow_replies h hl (bodyUnfence_ok (c := cmdOf 0x62 p s) (s := taken p s) hn hu hf hs))
  case selftest =>
    intro p s h hl hn hu ha hcal hf
    exact congrArg Host.Outcome.next
      (plainRow_replies h hl (bodySelftest_accepted (c := cmdOf 0x63 p s) (s := taken p s) hn hu ha hcal hf))

end Sys2Proof.Machine
end

section
/-! PROOFS. Trip comparators and TRIP_N (R333–R337), FF_LOAD and FF_CLEAR (R325, R336), and the events of a Firefly port
(R322–R332). -/

namespace Sys2Proof.Machine

/-! ## Trip comparators and TRIP_N (R333–R335, R337) -/

section Trips
variable {n c t : Nat} {level : Int} {s : State}

/-- FF_SNS of port `n` stands at a level above the high threshold, and its comparator is active (R333). -/
def trippedHigh (n : Nat) (level : Int) (s : State) : State :=
  setB (cpk n 8) 0 true (modFf n (fun f => { f with hi := true, lo := false }) (modFf n (fun f => { f with sns := level }) s))

/-- RAW and LATCH are bits of their own. -/
theorem latch_trippedHigh : rb (trippedHigh n level s) (cpk n 8) 1 = rb s (cpk n 8) 1 := by
  rw [rb, trippedHigh, setB, rd_wr_same]
  exact bit1_setBit0 _ _
/-- A comparator that goes active changes no register but its status. -/
theorem rb_trippedHigh {k : RKey} (h : k ≠ cpk n 8) (i : Nat) : rb (trippedHigh n level s) k i = rb s k i :=
  rb_wr_ne _ _ i h
/-- A latch that is set already takes no second trip. -/
theorem compTrip_again (h : rb s (cpk n 8) 1 = true) : compTrip n c s = s := if_pos h

/-- An edge of TRIP_N of a device that is alive, at a pin with supply: the level is kept, and the tile acts. -/
theorem tripEdge_low (hl : live s = true) (ht : (tile s t).trip = false) :
    tripEdge t true s = finish (tripLow t (modTile t (fun x => { x with trip := true }) s)) := by
  have hlive : live (modTile t (fun x => { x with trip := true }) s) = true := hl
  simp only [tripEdge, ht, hlive, Bool.false_eq_true, Bool.not_true, Bool.false_and, decide_false, Bool.or_self, if_false, if_true]
theorem tripEdge_high (hl : live s = true) (hp : pinPowered s (.tripN t) = true) (ht : (tile s t).trip = true) :
    tripEdge t false s = finish (tripHigh t (modTile t (fun x => { x with trip := false }) s)) := by
  have hlive : live (modTile t (fun x => { x with trip := false }) s) = true := hl
  simp only [tripEdge, ht, hp, hlive, Bool.true_eq_false, Bool.not_true, Bool.and_false, decide_false, Bool.or_self, Bool.false_eq_true,
    if_false, if_true]

end Trips

/-- Settles O41: a level above the threshold by `compLevel_high` and the latch, and an edge of TRIP_N by its direction. -/
theorem tripsLatch : Obligations.TripsLatch := by
  unfold Obligations.TripsLatch
  refine ⟨?latches, ?latched, ?off, ?low, ?highLatched, ?high⟩
  case latches =>
    intro n level s hl h0 h1 h2 hraw hlev h7 hfollow hlatch
    have htrip : compTrip n.val 1 (trippedHigh n.val level s) = _ := compTrip_latch (latch_trippedHigh.trans hlatch)
      ((rb_trippedHigh (by simp [cpk]) 7).trans h7) ((rb_trippedHigh (by simp [cpk, tk]) 4).trans hfollow)
    exact next_event_live hl ((compLevel_high n.isLt h0 h1 h2 hraw hlev).trans htrip)
  case latched =>
    intro n level s hl h0 h1 h2 hraw hlev hlatch
    have htrip : compTrip n.val 1 (trippedHigh n.val level s) = _ := compTrip_again (latch_trippedHigh.trans hlatch)
    exact next_event_live hl ((compLevel_high n.isLt h0 h1 h2 hraw hlev).trans htrip)
  case off => exact fun n level s hl h0 => next_event_live hl (compLevel_off h0)
  case low => exact fun t s hl ht => congrArg Host.Outcome.next (tripEdge_low hl ht)
  case highLatched =>
    exact fun t s hl hp ht hlatch => congrArg Host.Outcome.next ((tripEdge_high hl hp ht).trans (congrArg finish (if_pos hlatch)))
  case high =>
    intro t s hl hp ht hlatch
    exact congrArg Host.Outcome.next ((tripEdge_high hl hp ht).trans (congrArg finish (if_neg (Bool.eq_false_iff.mp hlatch))))

/-! ## FF_LOAD and FF_CLEAR (R325, R336) -/

section Commands
variable {c : Cmd} {s : State}

/-- An FF_LOAD that fits the port's queue, once the queue is flushed where that is asked. -/
theorem bodyFfLoad_ok (hl : c.pay.length = 1 + (fld (pw c 0) 24 16 + 1) / 2) (hn : fld (pw c 0) 6 0 ≤ 95) (hk : fld (pw c 0) 24 16 ≤ 256)
    (hsome : fld (pw c 0) 24 16 ≠ 0 ∨ bit (pw c 0) 8 = true) (ho : ownerOf s 0x04 (fld (pw c 0) 6 0) = c.part)
    (hb : busy s 0x04 (fld (pw c 0) 6 0) = false)
    (hroom : fld (pw c 0) 24 16 ≤ 256 - (if bit (pw c 0) 8 then 0 else (ffP s (fld (pw c 0) 6 0)).q.length)) :
    bodyFfLoad c s =
      let t := ffFilled (fld (pw c 0) 6 0) ((List.range (fld (pw c 0) 24 16)).map (ffEntry c)) (bit (pw c 0) 8) s
      Ans.ok t (numW (ffP t (fld (pw c 0) 6 0)).q.length) := by
  have hrange : ¬ (95 < fld (pw c 0) 6 0 ∨ 256 < fld (pw c 0) 24 16) := by omega
  have hnone : ¬ (fld (pw c 0) 24 16 = 0 ∧ bit (pw c 0) 8 = false) := by
    rintro ⟨h0, hno⟩
    exact hsome.elim (· h0) fun hf => Bool.false_ne_true (hno.symm.trans hf)
  simp only [bodyFfLoad, hl, ne_eq, not_true_eq_false, hrange, hnone, ho, hb, Nat.not_lt.mpr hroom, bne_self_eq_false, Bool.false_eq_true,
    if_false]
  rfl
/-- FF_CLEAR of ports and tiles none of which is active (R336). -/
theorem bodyFfClear_ok (ho : ((maskAt c 1).any fun n => ownerOf s 0x04 n != c.part) = false)
    (hp : (!(bitsOf (pw c 0) 8).isEmpty && c.part != 0) = false) (hsome : ((bitsOf (pw c 0) 8).isEmpty && (maskAt c 1).isEmpty) = false)
    (hb : ((maskAt c 1).any (busy s 0x04)) = false) (hraw : ((maskAt c 1).any (rawOf s)) = false)
    (htrip : ((bitsOf (pw c 0) 8).any fun t => (tile s t).trip) = false) :
    bodyFfClear c s = Ans.ok (forEach (bitsOf (pw c 0) 8) tripClear (forEach (maskAt c 1) latchClear s)) [] := by
  simp only [bodyFfClear, firstOf_none ho, hp, hsome, firstOf_none hb, firstOf_none hraw, firstOf_none htrip, Bool.false_eq_true, if_false]

end Commands

/-- Settles O33: each row replies what its body answers. -/
theorem fireflyCommands : Obligations.FireflyCommands := by
  unfold Obligations.FireflyCommands
  refine ⟨?load, ?clear⟩
  case load =>
    intro p s h hl hn hk hsome ho hb hroom
    have hbody := bodyFfLoad_ok (c := cmdOf 0xC0 p s) (s := taken p s) hl hn hk hsome ho hb hroom
    have hlen : (decide (1 ≤ p.pay.length) && decide (p.pay.length ≤ 129)) = true := by simp only [Bool.and_eq_true, decide_eq_true_eq]; omega
    exact congrArg Host.Outcome.next (hostRow_replies h rfl hlen hbody)
  case clear =>
    intro p s h hl ho hp hsome hb hraw htrip
    have hbody := bodyFfClear_ok (c := cmdOf 0xC1 p s) (s := taken p s) ho hp hsome hb hraw htrip
    exact congrArg Host.Outcome.next (plainRow_replies h hl hbody)

/-! ## Update edges, flags and strobe pulses of a port (R322–R324, R327, R330–R332) -/

section Ports
variable {n : Nat} {s : State}

/-- An update edge comes only with the update clock of the port's tile (R322). -/
theorem ffEdgeRow_clocked (h : ffClock s (n / 12) = true) : ffEdgeRow n s = ffEdge n s := if_pos h
theorem ffEdgeRow_stopped (h : ffClock s (n / 12) = false) : ffEdgeRow n s = s := if_neg (Bool.eq_false_iff.mp h)
/-- A port that is not enabled drives what rank 2 gives (R321). -/
theorem ffEdge_disabled (h : rb s (ffk n 0) 0 = false) : ffEdge n s = ffSettle n s := if_pos (by rw [h]; rfl)
/-- COMPL is set in current mode only (R330). -/
theorem ffCompl_current (h : (ffP s n).cur = true) : ffCompl n s = ffFlag n 3 8 true s := if_pos h
theorem ffCompl_voltage (h : (ffP s n).cur = false) : ffCompl n s = s := if_neg (Bool.eq_false_iff.mp h)

end Ports

/-- Settles O40: each event by what the port does. -/
theorem fireflyPortEvents : Obligations.FireflyPortEvents := by
  unfold Obligations.FireflyPortEvents
  refine ⟨?plays, ?disabled, ?noClock, ?holdEnd, ?shortCircuit, ?shortCircuitEnd, ?compliance, ?noCompliance, ?complianceEnd, ?pulseBegin,
    ?pulseEnd⟩
  case plays =>
    exact fun n s hl hc h0 hd he hp => next_event_live hl ((ffEdgeRow_clocked hc).trans (ffEdge_play h0 hd he hp))
  case disabled => exact fun n s hl hc h0 => next_event_live hl ((ffEdgeRow_clocked hc).trans (ffEdge_disabled h0))
  case noClock => exact fun n s hl hc => next_event_live hl (ffEdgeRow_stopped hc)
  case holdEnd => exact fun n s hl => next_event_live (f := deglitched n.val) hl rfl
  case shortCircuit => exact fun n s hl => next_event_live (f := ffFlag n.val 1 7 true) hl rfl
  case shortCircuitEnd => exact fun n s hl => next_event_live (f := ffFlag n.val 1 7 false) hl rfl
  case compliance => exact fun n s hl hc => next_event_live hl (ffCompl_current hc)
  case noCompliance => exact fun n s hl hc => next_event_live hl (ffCompl_voltage hc)
  case complianceEnd => exact fun n s hl => next_event_live (f := ffFlag n.val 3 8 false) hl rfl
  case pulseBegin => exact fun n k s hl hp hr => next_event_live hl (pulseBegin_shut n.isLt hp hr)
  case pulseEnd => exact fun n k s hl => next_event_live (f := pulseEnd n.val k.val) hl rfl

end Sys2Proof.Machine
end

section
/-! PROOFS. SUP_SNAP, SUP_URGENT and the path test (R343, R347–R349), the slots of the supervisory converters and a region's
requests (R340, R344, R346, R356, R363), and load sessions (R364–R369). -/

namespace Sys2Proof.Machine

/-! ## SUP_SNAP and SUP_URGENT (R343, R347–R349) -/

section Supervisory
variable {c : Cmd} {s : State}

/-- SUP_SNAP of inputs that the caller owns, and that nothing holds where they are to be restarted. -/
theorem bodySupSnap_ok (h1 : 1 ≤ fld (pw c 0) 13 8) (h2 : fld (pw c 0) 13 8 ≤ 32) (h3 : fld (pw c 0) 6 0 + fld (pw c 0) 13 8 ≤ 128)
    (ho : ((List.range (fld (pw c 0) 13 8)).any fun i => ownerOf s 0x09 (fld (pw c 0) 6 0 + i) != c.part) = false)
    (hb : (bit (pw c 0) 17 == false && (List.range (fld (pw c 0) 13 8)).any fun i => busy s 0x09 (fld (pw c 0) 6 0 + i)) = false) :
    bodySupSnap c s =
      Ans.ok (if bit (pw c 0) 17 then s else forEach ((List.range (fld (pw c 0) 13 8)).map (fld (pw c 0) 6 0 + ·)) accRestart s)
        ([lo32 s.tb, hi32 s.tb] ++ (List.range (fld (pw c 0) 13 8)).flatMap fun i => snapBlock s (bit (pw c 0) 16) (fld (pw c 0) 6 0 + i)) := by
  have h0 : fld (pw c 0) 13 8 ≠ 0 := by omega
  simp only [bodySupSnap, h0, Nat.not_lt.mpr h2, Nat.not_lt.mpr h3, ho, hb, decide_false, Bool.or_self, Bool.false_eq_true, if_false]

/-- The urgent request that a SUP_URGENT makes, for itself or as the path test of a code (R343, R349). -/
def urgentOf (c : Cmd) (test : Option Nat) : SupReq :=
  ⟨supConv (fld (pw c 0) 6 0), 2, supLoc (fld (pw c 0) 6 0), some ⟨c.q, c.tag, c.notify, c.part⟩, test, false, none⟩

variable (ho : ownerOf s 0x09 (fld (pw c 0) 6 0) = c.part) (hodd : supOdd s (fld (pw c 0) 6 0) = false)
  (hb : busy s 0x09 (fld (pw c 0) 6 0) = false) (hst : standby s = false)
include ho hodd hb hst

theorem bodySupUrgent_requests : bodySupUrgent false c s = ⟨supRequest (urgentOf c none) s, 0, [], true⟩ := by
  simp only [bodySupUrgent, ho, hodd, hb, hst, Bool.false_and, bne_self_eq_false, Bool.false_eq_true, if_false]
  rfl
/-- A path test makes its request when the test DAC has settled for 5 µs. -/
theorem bodySupUrgent_tests (ht : (decide (64 ≤ fld (pw c 0) 6 0) || supDiff s (fld (pw c 0) 6 0) || decide (fld (pw c 0) 25 16 < 16) ||
      decide (1000 < fld (pw c 0) 25 16)) = false) : bodySupUrgent true c s =
    ⟨modSup (fun x => { x with dac := some (s.tb + 5000, urgentOf c (some (fld (pw c 0) 25 16))) }) s, 0, [], true⟩ := by
  simp only [bodySupUrgent, ho, hodd, hb, hst, ht, Bool.true_and, bne_self_eq_false, Bool.false_eq_true, if_false, if_true]
  rfl

end Supervisory

/-- Settles O32: SUP_SNAP replies what its body answers, and the two forms of SUP_URGENT wait. -/
theorem supervisoryCommands : Obligations.SupervisoryCommands := by
  unfold Obligations.SupervisoryCommands
  refine ⟨?snap, ?urgent, ?pathTest⟩
  case snap =>
    intro p s h hl h1 h2 h3 ho hb
    exact congrArg Host.Outcome.next (plainRow_replies h hl (bodySupSnap_ok (c := cmdOf 0xB0 p s) (s := taken p s) h1 h2 h3 ho hb))
  case urgent =>
    intro p s h hl h8 ho hodd hb hst
    have hbody := bodySupUrgent_requests (c := cmdOf 0xB1 p s) (s := taken p s) ho hodd hb hst
    have hsel : (selOf 8 8 p.pay != some 1) = true := by rw [selOf_word hl, fldbit, h8]; rfl
    exact congrArg Host.Outcome.next (hostRow_waits (lenOk := lenIs 1) h hsel (by simp [lenIs, hl]) hbody)
  case pathTest =>
    intro p s h hl h8 ho hodd ht hb hst
    have hbody := bodySupUrgent_tests (c := cmdOf 0xB1 p s) (s := taken p s) ho hodd hb hst ht
    have hsel : (selOf 8 8 p.pay == some 1) = true := by rw [selOf_word hl, fldbit, h8]; rfl
    exact congrArg Host.Outcome.next (hostRow_waits (lenOk := lenIs 1) h hsel (by simp [lenIs, hl]) hbody)

/-! ## Slots, requests and the fabric PLL (R340, R344, R346, R356, R363) -/

section Slots
variable {codes : List Int} {s : State}

/-- A sequenced slot of a round that goes on (R340, R342). -/
theorem slotEnd_goesOn {k : Nat} (hu : s.sup.urg = none) (hk : s.sup.slot = some k) (hm : supMay (slotTaken codes k s) = true)
    (hlen : k + 1 < (slotTaken codes k s).sup.len) (he : (slotTaken codes k s).sup.ending = false) : slotEnd codes s =
    modSup (fun x => { x with slot := some (k + 1), at_ := (slotTaken codes k s).tb }) (slotTaken codes k s) := by
  have htakes : slotTakes codes k s = slotTaken codes k s := rfl
  simp only [slotEnd, hu, hk, htakes, hm, hlen, he, decide_true, Bool.and_self, Bool.not_false, if_true]
theorem slotEnd_urgent {u : List SupReq} (hu : s.sup.urg = some u) : slotEnd codes s =
    supKick (modSup (fun x => { x with urg := none }) (forEach u (urgentEnd codes) s)) := by
  simp only [slotEnd, hu]
theorem slotEnd_none (hu : s.sup.urg = none) (hk : s.sup.slot = none) : slotEnd codes s = s := by
  simp only [slotEnd, hu, hk]

variable {r k merged : Nat}

/-- A region that neither runs nor is stopped makes no request beside those it latched (R363). -/
theorem fabRequest_still (h3 : regionState s r ≠ 3) (h4 : regionState s r ≠ 4) (hq : (fabOf s r).req.getLsbD k = false) :
    fabRequest r k merged s = s := if_pos (by rw [bne_iff_ne.mpr h3, bne_iff_ne.mpr h4, hq]; rfl)
theorem fabPllLock_on (h : rb s (fbk r 0xC) 16 = true) : fabPllLock r s = setB (fbk r 0) 4 true s := if_pos h

end Slots

/-- Settles O42: a slot by what was in progress, a request by the region's state, and the PLL. -/
theorem conversionsAndRequests : Obligations.ConversionsAndRequests := by
  unfold Obligations.ConversionsAndRequests
  refine ⟨?sequenced, ?urgent, ?noSlot, ?dma, ?notTaken, ?pll⟩
  case sequenced => exact fun codes k s hl hu hk hm hlen he => next_event_live hl (slotEnd_goesOn hu hk hm hlen he)
  case urgent => exact fun codes u s hl hu => next_event_live hl (slotEnd_urgent hu)
  case noSlot => exact fun codes s hl hu hk => next_event_live hl (slotEnd_none hu hk)
  case dma => exact fun r k merged s hl hst hm ho => next_event_live hl (fabRequest_dma k.isLt hst hm ho)
  case notTaken => exact fun r k merged s hl h3 h4 hq => next_event_live hl (fabRequest_still h3 h4 hq)
  case pll => exact fun r s hl h => next_event_live hl (fabPllLock_on h)

/-! ## Load sessions (R364–R369) -/

section Session
variable {c : Cmd} {x : Session} {s : State}

/-- The session that a BIT_BEGIN opens over the regions of its header (R366). -/
def sessionBegun (c : Cmd) : Session :=
  ⟨(regionsOf (dW (c.pay.drop 1) 2)).headD 0, c.part, bit (pw c 0) 0, c.pay.drop 1, 0, 0, [], [], false, 1000000000, none⟩

/-- A sound header, on regions of the caller's that nothing holds, from a device that takes the stream (R364–R366). -/
theorem bodyBitBegin_opens
    (hform : (dW (c.pay.drop 1) 0 != 0x46514254 || fld (dW (c.pay.drop 1) 1) 31 24 != 1 || (regionsOf (dW (c.pay.drop 1) 2)).isEmpty ||
      (dW (c.pay.drop 1) 3).toNat != 164 * (regionsOf (dW (c.pay.drop 1) 2)).length) = false)
    (ho : ((regionsOf (dW (c.pay.drop 1) 2)).any fun r => regOwner s r != c.part) = false)
    (hdev : (fld (dW (c.pay.drop 1) 1) 15 0 != 0x7196 || fld (dW (c.pay.drop 1) 1) 23 16 != 0x60) = false)
    (hauth : ((s.fabAuth && !bit (dW (c.pay.drop 1) 2) 8) || (bit (dW (c.pay.drop 1) 2) 8 && !keySet s)) = false)
    (hheld : (regionsOf (dW (c.pay.drop 1) 2)).any (regionHeld s) = false) : bodyBitBegin c s =
    Ans.ok (forEach (regionsOf (dW (c.pay.drop 1) 2)) (fun r t => setB (fbk r 0) 3 true t) { s with sessions := s.sessions ++ [sessionBegun c] })
      [BitVec.ofNat 32 ((regionsOf (dW (c.pay.drop 1) 2)).headD 0)] := by
  simp only [bodyBitBegin, hform, ho, hdev, hauth, hheld, Bool.false_eq_true, if_false]
  rfl

section Data
variable (hx : sessionOf s (fld (pw c 0) 2 0) = some x) (hp : (x.part != c.part || x.fin.isSome) = false)
include hx hp

section Chunk
variable (hseq : (fld (pw c 0) 10 8 != x.chunk || fld (pw c 0) 26 16 != x.frame || decide ((dW x.hdr 3).toNat ≤ x.frame)) = false)
include hseq

/-- A chunk in sequence that is not the last of its frame is buffered (R367). -/
theorem bodyBitData_buffers (hch : fld (pw c 0) 10 8 < 7) : bodyBitData c s =
    Ans.ok (putSession { x with buf := x.buf ++ ((c.pay.drop 1).take 128).flatMap wordBytes, chunk := fld (pw c 0) 10 8 + 1, rem := 1000000000 } s) [] := by
  simp only [bodyBitData, hx, hp, hseq, hch, Bool.false_eq_true, if_false, if_true]
/-- The last chunk of a frame brings the frame, which is taken with the given state where it passes (R367). -/
theorem bodyBitData_frame {t : State} (hch : fld (pw c 0) 10 8 = 7)
    (hf : frameIn x (x.buf ++ ((c.pay.drop 1).take 128).flatMap wordBytes) (pw c 129) s = (0, t)) : bodyBitData c s = Ans.ok t [] := by
  have hlast : ¬ fld (pw c 0) 10 8 < 7 := by omega
  simp only [bodyBitData, hx, hp, hseq, hlast, hf, Bool.false_eq_true, if_false, if_true]

end Chunk

theorem bodyBitEnd_accepted (hl : c.pay.length = (if bit (dW x.hdr 2) 8 then 6 else 2)) (hf : opsFull s c.q = false) : bodyBitEnd c s =
    Ans.long c (.bitEnd (fld (pw c 0) 2 0)) (putSession { x with fin := some (pw c 1, c.pay.drop 2) } s) := by
  simp only [bodyBitEnd, hx, hp, hl, hf, bne_self_eq_false, Bool.false_eq_true, if_false]

end Data

/-! ### The end of a session (R367–R369) -/

variable {sr : Nat} {o : LongOp} {crc : Word} {tag : List Word} {buf : List Byte}

/-- A region takes its part of a stream that verifies, and starts unless the load asked it to hold (R355, R368). -/
def regionLoaded (x : Session) (ri : Nat × Nat) (s : State) : State :=
  (if x.hold then id else regionStart ri.1) (wr (fbk ri.1 4) (dW x.hdr 4) (wr (fbk ri.1 8) (dW x.hdr 5) (setF (fbk ri.1 0) 15 8 0
    (setRegion ri.1 2 (setCfg ri.1 ((x.data.drop (671744 * ri.2)).take 671744) s)))))

theorem loadEnd_truncated (h : x.frame < (dW x.hdr 3).toNat) : loadEnd x crc tag s = (0x0D, loadFail x 0x0D s) := if_pos h
theorem loadEnd_unverified (h : (dW x.hdr 3).toNat ≤ x.frame) (hk : loadOk s x crc tag = false) :
    loadEnd x crc tag s = (0x0F, loadFail x 0x0F s) := by
  simp only [loadEnd, Nat.not_lt.mpr h, hk, Bool.not_false, if_false, if_true]
theorem loadEnd_verified (h : (dW x.hdr 3).toNat ≤ x.frame) (hk : loadOk s x crc tag = true) :
    loadEnd x crc tag s = (0, forEach x.regions.zipIdx (regionLoaded x) (dropSession x s)) := by
  have hstart : ∀ (r : Nat) (t : State), (if x.hold = true then t else regionStart r t) = (if x.hold then id else regionStart r) t := by
    intro r t; split <;> rfl
  simp only [loadEnd, Nat.not_lt.mpr h, hk, hstart, Bool.not_true, Bool.false_eq_true, if_false]
  rfl
/-- The final check of a session whose BIT_END is outstanding completes with the outcome of the load (R368). -/
theorem bitEndDone_completes {code : Nat} {t : State} (hx : sessionOf s sr = some x)
    (ho : s.ops.find? (fun o => o.kind == .bitEnd sr) = some o) (hf : x.fin = some (crc, tag)) (hend : loadEnd x crc tag s = (code, t)) :
    bitEndDone sr s = complete o.q o.tag code [] t := by
  simp only [bitEndDone, hx, ho, hf, hend]
/-- A frame that fails its CRC once counts and raises the source of its own region (R367). -/
theorem frameIn_failsOnce (hc : (crc32 buf == crc) = false) (hf : x.failed = false) : frameIn x buf crc s =
    (0xC4, raiseHw (0x0E0 + x.regions.getD (x.frame / 164) 0) none (0x38 + x.regions.getD (x.frame / 164) 0)
      (regOwner s (x.regions.getD (x.frame / 164) 0)) (incR (fbk (x.regions.getD (x.frame / 164) 0) 0xD0)
        (putSession { x with buf := [], chunk := 0, failed := true, rem := 1000000000 } s))) := by
  simp only [frameIn, hc, hf, Bool.not_false, Bool.false_eq_true, if_false, if_true]
  rfl
theorem frameIn_failsAgain (hc : (crc32 buf == crc) = false) (hf : x.failed = true) :
    frameIn x buf crc s = (0xC5, loadFail x 0x0D s) := by
  simp only [frameIn, hc, hf, Bool.not_true, Bool.false_eq_true, if_false]
theorem sessionTimeout_over (hx : sessionOf s sr = some x) (hf : x.fin = none) (hr : x.rem = 0) :
    sessionTimeout sr s = loadFail x 0x0D s := by
  simp only [sessionTimeout, hx, hf, hr, Option.isNone_none, beq_self_eq_true, Bool.and_self, if_true]

end Session

/-- Settles O27: the three commands by their bodies, the final check by the outcome of the load, a frame by its CRC, and the
session without data. -/
theorem loadSessions : Obligations.LoadSessions := by
  unfold Obligations.LoadSessions
  refine ⟨?begins, ?buffered, ?frameWritten, ?ends, ?verified, ?truncated, ?unverified, ?failsOnce, ?failsAgain, ?timeout⟩
  case begins =>
    intro p s h hl hform ho hdev hauth hheld
    exact congrArg Host.Outcome.next
      (plainRow_replies h hl (bodyBitBegin_opens (c := cmdOf 0x70 p s) (s := taken p s) hform ho hdev hauth hheld))
  case buffered =>
    intro p x s h hl hx hp hseq hch
    exact congrArg Host.Outcome.next (plainRow_replies h hl (bodyBitData_buffers (c := cmdOf 0x71 p s) (s := taken p s) hx hp hseq hch))
  case frameWritten =>
    intro p x s h hl hx hp hseq hch hcrc
    have hbody := bodyBitData_frame (c := cmdOf 0x71 p s) (s := taken p s) hx hp hseq hch (frameIn_ok hcrc)
    exact congrArg Host.Outcome.next (plainRow_replies h hl hbody)
  case ends =>
    intro p x s h hx hp hl hf
    have hbody := bodyBitEnd_accepted (c := cmdOf 0x72 p s) (s := taken p s) hx hp hl hf
    have hlen : (p.pay.length == 2 || p.pay.length == 6) = true := by rw [hl]; split <;> rfl
    exact congrArg Host.Outcome.next (hostRow_replies (sel := anyPay) (lenOk := fun _ n => n == 2 || n == 6) h rfl hlen hbody)
  case verified =>
    exact fun sr x o crc tag s hl hx ho hf hfr hk => next_event_live hl (bitEndDone_completes hx ho hf (loadEnd_verified hfr hk))
  case truncated =>
    exact fun sr x o crc tag s hl hx ho hf hfr => next_event_live hl (bitEndDone_completes hx ho hf (loadEnd_truncated hfr))
  case unverified =>
    exact fun sr x o crc tag s hl hx ho hf hfr hk => next_event_live hl (bitEndDone_completes hx ho hf (loadEnd_unverified hfr hk))
  case failsOnce =>
    rintro x buf crc _ s hc hf rfl
    exact frameIn_failsOnce hc hf
  case failsAgain => exact fun x buf crc s hc hf => frameIn_failsAgain hc hf
  case timeout => exact fun sr x s hl hx hf hr => next_event_live hl (sessionTimeout_over hx hf hr)

end Sys2Proof.Machine
end

section
/-! PROOFS. A DMA channel reads the descriptor at PTR (R377–R380, R387), moves a quantum, returns its descriptor, drains and
stops (R373, R381, R387–R389). -/

namespace Sys2Proof.Machine

/-! ## Accesses of a channel (R375, R376) -/

section Access
variable {α : Type} {host mayHost mayInside : Bool}

/-- An access that is permitted in the space it goes to passes both checks. -/
theorem access_permitted (h : (if host then mayHost else mayInside) = true) : (host && !mayHost) = false ∧ (!host && !mayInside) = false := by
  cases host <;> simp_all
/-- One that is not is refused with cause 3 in host memory and 2 inside. -/
theorem access_refused {stop : Nat → α} {go : α} (h : (if host then mayHost else mayInside) = false) :
    (if host && !mayHost then stop 3 else if !host && !mayInside then stop 2 else go) = stop (if host then 3 else 2) := by
  cases host <;> simp_all

end Access

/-! ## The descriptor at PTR (R377–R380, R387, R389) -/

section Read
variable {c : Nat} {host : HostBytes} {s : State}

/-- Reads of host memory are seen outside; the device is as it was. -/
theorem hostReads_eq (k f a n : Nat) (s : State) : hostReads k f a n s = { s with out := (hostReads k f a n s).out } := by
  induction f generalizing a n s with
  | zero => rfl
  | succ f ih =>
    rw [hostReads]
    split
    · rfl
    · dsimp only
      rw [ih]
      rfl
theorem descAsked_regs : (descAsked c s).regs = s.regs := by
  rw [descAsked]
  split
  · rw [hostReads_eq]
  · rfl

/-- What a channel without work does next, from what it has asked the host (R387). -/
theorem goIdle_idle (h : rb s (dmk c 0) 1 = false) : goIdle c s = setDmaState c 1 s := if_neg (Bool.eq_false_iff.mp h)
theorem goIdle_again (h : rb s (dmk c 0) 1 = true) :
    goIdle c s = setDmaState c 2 (modDma c (fun d => { d with fetch := true }) (setB (dmk c 0) 1 false s)) := if_pos h
theorem rb_unfetched {f : DmaCh → DmaCh} {k : RKey} {i : Nat} : rb (modDma c f (descAsked c s)) k i = rb s k i :=
  rb_congr (s := modDma c f (descAsked c s)) descAsked_regs k i

/-- What keeps a channel from reading is that it is not due (R379, R387). -/
theorem not_fetches : (dmaState s c != 2 || !(dch s c).fetch || (dch s c).desc.isSome || (dch s c).stop.isSome || dmaPaused s c) =
    !fetches c s := by
  simp only [fetches, Bool.not_and, Option.not_isNone, Bool.not_not]
  rfl
/-- A channel that is not due reads nothing (R379). -/
theorem descRead_notDue (h : fetches c s = false) : descRead c host s = s := if_pos (by rw [not_fetches, h]; rfl)

section Due
variable (hf : fetches c s = true)
include hf

/-- An access that the owner may not make stops the channel, with cause 3 in host memory and 2 inside (R375, R376). -/
theorem descRead_refused (hm : mayFetch c s = false) : descRead c host s = dmaStop c (if (dch s c).sp then 3 else 2) s := by
  simp only [descRead, not_fetches, hf, Bool.not_true, Bool.false_eq_true, if_false]
  exact access_refused (stop := fun cause => dmaStop c cause s) hm

variable (hm : mayFetch c s = true)
include hm

/-- The descriptor at PTR is read, and what it says decides (R379, R380, R387). -/
theorem descRead_permitted : descRead c host s =
    if !bit (dW (descWords c host s) 0) 0 then goIdle c (modDma c (fun y => { y with fetch := false }) (descAsked c s))
    else if badFormat (descWords c host s) then dmaStop c 1 (descHeld c (descWords c host s) s)
    else if bit (dW (descWords c host s) 0) 1 then
      setPtr c (d64 (descWords c host s) 1)
        (modDma c (fun y => { y with sp := bit (dW (descWords c host s) 0) 4 }) (descHeld c (descWords c host s) s))
    else schedule (descHeld c (descWords c host s) s) := by
  obtain ⟨hhost, hint⟩ := access_permitted hm
  simp only [descRead, not_fetches, hf, hhost, hint, Bool.not_true, Bool.false_eq_true, if_false]
  rfl

section Unowned
variable (hown : bit (dW (descWords c host s) 0) 0 = false)
include hown

theorem descRead_unowned : descRead c host s = goIdle c (modDma c (fun y => { y with fetch := false }) (descAsked c s)) :=
  (descRead_permitted hf hm).trans (if_pos (by rw [hown]; rfl))
theorem descRead_idle (hp : rb s (dmk c 0) 1 = false) :
    descRead c host s = setDmaState c 1 (modDma c (fun y => { y with fetch := false }) (descAsked c s)) :=
  (descRead_unowned hf hm hown).trans (goIdle_idle (rb_unfetched.trans hp))
/-- A start that is pending has PTR read once more. -/
theorem descRead_again (hp : rb s (dmk c 0) 1 = true) : descRead c host s = setDmaState c 2 (modDma c (fun y => { y with fetch := true })
    (setB (dmk c 0) 1 false (modDma c (fun y => { y with fetch := false }) (descAsked c s)))) :=
  (descRead_unowned hf hm hown).trans (goIdle_again (rb_unfetched.trans hp))

end Unowned

variable (hown : bit (dW (descWords c host s) 0) 0 = true)
include hown

theorem descRead_owned : descRead c host s =
    if badFormat (descWords c host s) then dmaStop c 1 (descHeld c (descWords c host s) s)
    else if bit (dW (descWords c host s) 0) 1 then
      setPtr c (d64 (descWords c host s) 1)
        (modDma c (fun y => { y with sp := bit (dW (descWords c host s) 0) 4 }) (descHeld c (descWords c host s) s))
    else schedule (descHeld c (descWords c host s) s) :=
  (descRead_permitted hf hm).trans (if_neg (by rw [hown]; exact Bool.false_ne_true))
theorem descRead_badFormat (hb : badFormat (descWords c host s) = true) :
    descRead c host s = dmaStop c 1 (descHeld c (descWords c host s) s) := (descRead_owned hf hm hown).trans (if_pos hb)

variable (hb : badFormat (descWords c host s) = false)
include hb

theorem descRead_link (hlink : bit (dW (descWords c host s) 0) 1 = true) : descRead c host s =
    setPtr c (d64 (descWords c host s) 1)
      (modDma c (fun y => { y with sp := bit (dW (descWords c host s) 0) 4 }) (descHeld c (descWords c host s) s)) :=
  (descRead_owned hf hm hown).trans ((if_neg (Bool.eq_false_iff.mp hb)).trans (if_pos hlink))
theorem descRead_data (hlink : bit (dW (descWords c host s) 0) 1 = false) : descRead c host s = schedule (descHeld c (descWords c host s) s) :=
  (descRead_owned hf hm hown).trans ((if_neg (Bool.eq_false_iff.mp hb)).trans (if_neg (Bool.eq_false_iff.mp hlink)))

end Due
end Read

/-- Settles O44: whether the channel is due, whether the access is permitted, and what the descriptor says. -/
theorem descriptorsAreRead : Obligations.DescriptorsAreRead := by
  unfold Obligations.DescriptorsAreRead
  refine ⟨?data, ?link, ?badFormat, ?idle, ?again, ?refused, ?notDue⟩
  case data => exact fun c host s hl hf hm hown hb hlink => next_event_live hl (descRead_data hf hm hown hb hlink)
  case link => exact fun c host s hl hf hm hown hb hlink => next_event_live hl (descRead_link hf hm hown hb hlink)
  case badFormat => exact fun c host s hl hf hm hown hb => next_event_live hl (descRead_badFormat hf hm hown hb)
  case idle => exact fun c host s hl hf hm hown hp => next_event_live hl (descRead_idle hf hm hown hp)
  case again => exact fun c host s hl hf hm hown hp => next_event_live hl (descRead_again hf hm hown hp)
  case refused => exact fun c host s hl hf hm => next_event_live hl (descRead_refused hf hm)
  case notDue => exact fun c host s hl hf => next_event_live hl (descRead_notDue hf)

/-! ## Quanta, returns, drains and stops (R373, R381, R387–R389) -/

section Move
variable {c k : Nat} {host : HostBytes} {d : List Word} {s : State}

/-- A quantum of a running channel ends (R373). -/
theorem quantumEnd_moves (hm : onMover s c = true) (hst : dmaState s c = 2) (hs : (dch s c).stop = none) :
    quantumEnd c host s = schedule (offMover c (dmaMove c 4096 host s)) := if_neg (by rw [hm, hst, hs]; exact Bool.false_ne_true)

theorem descDone_none (hd : (dch s c).desc = none) : descDone c s = s := by simp only [descDone, hd]

section Done
variable (hd : (dch s c).desc = some d) (hdone : (dch s c).done = true) (hs : (dch s c).stop = none)
include hd hdone hs

/-- The return is an access of the owner's; one that may not be made stops the channel (R375, R376). -/
theorem descDone_refused (hm : mayReturn c s = false) : descDone c s = dmaStop c (if (dch s c).atHost then 3 else 2) s := by
  simp only [descDone, hd, hdone, hs, Bool.not_true, Option.isSome_none, Bool.or_self, Bool.false_eq_true, if_false]
  exact access_refused (stop := fun cause => dmaStop c cause s) hm
/-- A descriptor goes back with OWN = 0 and is counted; PTR advances unless it is a link, and EVT of a data descriptor makes
a pulse (R381, R391). -/
theorem descDone_returned (hm : mayReturn c s = true) : descDone c s =
    let t := ledSub 5 c 2 1 (ledAdd 5 c 1 1 (ownBack c d s))
    let u := modDma c (fun y => { y with desc := none, done := false, fetch := true })
      (if bit (dW d 0) 1 then t else setPtr c ((dch s c).at_ + 32) t)
    if bit (dW d 0) 7 && !bit (dW d 0) 1 then dmaPulse c u else u := by
  obtain ⟨hhost, hint⟩ := access_permitted hm
  simp only [descDone, hd, hdone, hs, hhost, hint, setBit0_1 _ 1 (by decide), setBit0_1 _ 7 (by decide), Bool.not_true, Option.isSome_none,
    Bool.or_self, Bool.false_eq_true, if_false]
  rfl

end Done

/-- The channel has a host read under way: its descriptor's, on a mover, or the one at PTR (R388, R389). -/
def readUnderWay (c : Nat) (s : State) : Bool :=
  (onMover s c && readsHost c s && (dmaState s c == 2 || dmaState s c == 3)) || ((dch s c).fetch && (dch s c).sp && dmaState s c == 2)
theorem hostReadError_eq : hostReadError c s = if readUnderWay c s && (dch s c).stop.isNone then dmaStop c 4 s else s := rfl
theorem hostReadError_stops (h : readUnderWay c s = true) (hs : (dch s c).stop = none) : hostReadError c s = dmaStop c 4 s :=
  hostReadError_eq.trans (if_pos (by rw [h, hs]; rfl))
theorem hostReadError_idle (h : readUnderWay c s = false) : hostReadError c s = s :=
  hostReadError_eq.trans (if_neg (by rw [h]; exact Bool.false_ne_true))

/-- A drain ends only in PAUSING (R388). -/
theorem pauseDrained_not (h : dmaState s c ≠ 3) : pauseDrained c host s = s := if_pos (bne_iff_ne.mpr h)
/-- Reads that a quantum had issued when the pause began bring their bytes. -/
theorem pauseDrained_moves (h3 : dmaState s c = 3) (hd : (dch s c).desc = some d)
    (hm : (onMover s c && !(dch s c).done && (dch s c).stop.isNone) = true) : pauseDrained c host s =
    pauseEnded c (descDone c (offMover c (dmaMove c (issuedBytes d s) host (takeFree s).2))) := by
  simp only [pauseDrained, h3, hd, hm, bne_self_eq_false, Bool.false_eq_true, if_false, if_true]
  rfl
theorem pauseDrained_still (h3 : dmaState s c = 3) (hd : (dch s c).desc = some d)
    (hm : (onMover s c && !(dch s c).done && (dch s c).stop.isNone) = false) : pauseDrained c host s =
    pauseEnded c (descDone c (offMover c s)) := by
  simp only [pauseDrained, h3, hd, hm, bne_self_eq_false, Bool.false_eq_true, if_false]
  rfl

theorem dmaStopped_some (h : (dch s c).stop = some k) : dmaStopped c s =
    setF (dmk c 0) 11 8 k (setDmaState c 5 (modDma c (fun d => { d with stop := none, outq := [], done := false }) s)) := by
  simp only [dmaStopped, h]
theorem dmaStopped_none (h : (dch s c).stop = none) : dmaStopped c s = s := by simp only [dmaStopped, h]

end Move

/-- Settles O45: a quantum, a return by its access and kind, a failed read by what is under way, and the ends of a pause and of
a stop. -/
theorem descriptorsMoveAndReturn : Obligations.DescriptorsMoveAndReturn := by
  unfold Obligations.DescriptorsMoveAndReturn
  refine ⟨?quantum, ?returned, ?returnedLink, ?returnRefused, ?noDescriptor, ?readFailsMover, ?readFailsFetch, ?noRead, ?pausedEmpty,
    ?pausedMoving, ?pausedStill, ?notPausing, ?stopped, ?noStop⟩
  case quantum => exact fun c host s hl hm hst hs => next_event_live hl (quantumEnd_moves hm hst hs)
  case returned =>
    intro c d s hl hd hdone hs hm h1 h7
    have hret := descDone_returned hd hdone hs hm
    rw [h1, h7] at hret
    exact next_event_live hl hret
  case returnedLink =>
    intro c d s hl hd hdone hs hm h1
    have hret := descDone_returned hd hdone hs hm
    rw [h1, Bool.not_true, Bool.and_false] at hret
    exact next_event_live hl hret
  case returnRefused => exact fun c d s hl hd hdone hs hm => next_event_live hl (descDone_refused hd hdone hs hm)
  case noDescriptor => exact fun c s hl hd => next_event_live hl (descDone_none hd)
  case readFailsMover =>
    intro c s hl hm hr hs hst
    refine next_event_live hl (hostReadError_stops ?_ hs)
    rcases hst with hst | hst <;> simp [readUnderWay, hm, hr, hst]
  case readFailsFetch =>
    intro c s hl hf hs hst
    exact next_event_live hl (hostReadError_stops (by simp [readUnderWay, hf, hst]) hs)
  case noRead =>
    intro c s hl hm hf
    exact next_event_live hl (hostReadError_idle (by simp [readUnderWay, hm, hf]))
  case pausedEmpty => exact fun e s hl h3 hd hp => next_event_live hl (pauseDrained_none h3 hd hp)
  case pausedMoving =>
    intro e d s hl h3 hd hm hdone hs
    exact next_event_live hl (pauseDrained_moves h3 hd (by rw [hm, hdone, hs]; rfl))
  case pausedStill => exact fun e d s hl h3 hd hm => next_event_live hl (pauseDrained_still h3 hd hm)
  case notPausing => exact fun e s hl h3 => next_event_live hl (pauseDrained_not h3)
  case stopped => exact fun c k s hl h => next_event_live hl (dmaStopped_some h)
  case noStop => exact fun c s hl h => next_event_live hl (dmaStopped_none h)

end Sys2Proof.Machine
end

section
/-! PROOFS. Causes from outside, and the group 3 supplies (R404, R405, R409, R441, R444, R447). -/

namespace Sys2Proof.Machine

/-- What a row of the board's leaves, once the step is finished. -/
theorem next_finish {s t : State} (h : s = t) : (.next (finish s) : Host.Outcome State Fault Refusal) = .next (finish t) :=
  congrArg (fun u => Host.Outcome.next (finish u)) h

section Outside
variable {src unit i m k t e : Nat} {temp : BitVec 16} {s : State}

/-! ## Wires, memories, temperature and references (R404, R405, R409, R444, R447) -/

/-- The wires of a member that the source has are the pair's (R405). -/
theorem wireRow_broken (g : (srcUsed i && memValid i m) = true) : wireRow true i m s = wireBroken i m s := if_pos g
theorem wireRow_mended (g : (srcUsed i && memValid i m) = true) : wireRow false i m s = wireMended i m s := if_pos g
/-- The source of a device SRAM's ECC failures is the transient one or, for a failure at both reads, the lasting one (R404). -/
theorem ecc_device {l : Bool} (h : i = 0x030) : eccRaise i m unit l s = raiseHw (if l then 0x031 else 0x030) none unit 0 s :=
  if_pos (Or.inl h)
/-- A tile above the junction maximum begins its cause, with the temperature (R404). -/
theorem dieHot_above (h : tjMax < sext 16 temp.toNat) : dieHot t temp s =
    causeOn (tileSrc t 0xF) none (0x10 + t) 0 (BitVec.ofNat 32 temp.toNat) (modTile t (fun x => { x with dieTemp := BitVec.ofNat 32 temp.toNat }) s) :=
  if_pos h
theorem dieHot_below (h : sext 16 temp.toNat ≤ tjMax) : dieHot t temp s = s := if_neg (Int.not_lt.mpr h)
/-- A cause from outside begins on a device that is not in power-on reset (R404). -/
theorem outsideOn_next (h : s.por = false) : outsideOn src unit s = finish (causeOn src none unit 0 0 s) :=
  if_neg (Bool.eq_false_iff.mp h)
theorem outsideOn_por (h : s.por = true) : outsideOn src unit s = s := if_pos h

/-! ## Group 3 supplies (R328, R441) -/

/-- The supply of rail `k` is valid. -/
def railUp (k : Nat) (s : State) : State := { s with rails := s.rails ||| BitVec.ofNat 25 (2 ^ k) }
/-- The supply of rail `k` is below its minimum. -/
def railDown (k : Nat) (s : State) : State := { s with rails := s.rails &&& ~~~(BitVec.ofNat 25 (2 ^ k)) }

/-- The Firefly supply of a tile wakes the tile's ports on a device that is alive (R328). -/
theorem railOn_firefly (h8 : 8 ≤ k) (h16 : k < 16) (hl : live s = true) :
    railOn k s = forEach (tilePorts (k - 8)) ffWake (railUp k s) :=
  have hu : live (railUp k s) = true := hl
  if_pos (by rw [← railUp, hu, decide_eq_true h8, decide_eq_true h16]; rfl)
/-- Any other supply that becomes valid is marked so. -/
theorem railOn_other (h : k < 8 ∨ 16 ≤ k ∨ live s = false) : railOn k s = railUp k s := by
  refine if_neg ?_
  rw [← railUp, Bool.and_eq_true, Bool.and_eq_true, decide_eq_true_eq, decide_eq_true_eq]
  rintro ⟨⟨hl, h8⟩, h16⟩
  have hl : live s = true := hl
  rw [hl] at h
  obtain h | h | h := h
  · omega
  · omega
  · cases h
/-- The Firefly supply of a tile that falls leaves the tile's ports unpowered (R441). -/
theorem railOff_firefly (h8 : 8 ≤ k) (h16 : k < 16) :
    railOff k s = forEach (tilePorts (k - 8)) ffUnpowered (railDown k s) := if_pos ⟨h8, h16⟩
theorem railOff_other (h : ¬(8 ≤ k ∧ k < 16)) : railOff k s = railDown k s := if_neg h
/-- A supply other than that of the encoder pins takes with it what it feeds itself (R441). -/
theorem supplyLost_other (h : k ≠ 24) : supplyLost k s = railOff k s := if_pos h
/-- TRIP_N of a tile without its supply reads low: one that was high falls (R337, R441). -/
def tripDark (t : Nat) (s : State) : State :=
  if (tile s t).trip then s else
    if live (modTile t (fun x => { x with trip := true }) s) then tripLow t (modTile t (fun x => { x with trip := true }) s)
    else modTile t (fun x => { x with trip := true }) s
/-- PERST_N of a port without its supply reads low, and its link goes down (R56, R441). -/
def perstDark (p : Nat) (s : State) : State :=
  modLink p (fun l => { l with perst := false }) (if s.por then s else linkDown p .down s)
/-- The common supply falls: encoder inputs, TRIP_N and PERST_N read low (R441). -/
theorem supplyLost_common : supplyLost 24 s =
    forEach (List.range 8) perstDark (forEach (List.range 8) tripDark (forEach (List.range 32) encDark (railDown 24 s))) := rfl
/-- Encoder inputs that were low only forget what their filters waited for. -/
theorem encDark_low (hl : live s = true) (ha : (encP s e).a = false) (hb : (encP s e).b = false) (hz : (encP s e).z = false) :
    encDark e s = modEnc e (fun y => { y with chgA := none, chgB := none, chgZ := none }) s := by
  simp only [encDark, hl, ha, hb, hz, Bool.not_true, Bool.not_false, Bool.or_self, Bool.false_eq_true, if_false, if_true]

end Outside

/-- Settles O47: causes from outside by what each marks and raises, supplies by the pins that they feed. -/
theorem outsideCausesAndSupplies : Obligations.OutsideCausesAndSupplies := by
  refine ⟨?broken, ?brokenPor, ?brokenOld, ?mended, ?ecc, ?eccTile, ?hot, ?hotPor, ?notHot, ?cool, ?sclk, ?sclkPor, ?sclkBack, ?pll,
    ?pllPor, ?pllBack, ?sync, ?syncPor, ?syncBack, ?ffOn, ?otherOn, ?ffOff, ?otherOff, ?commonOff, ?dark⟩
  case broken => exact fun src mem s g g1 hp => next_finish ((wireRow_broken g).trans (wireBroken_new g g1 hp))
  case brokenPor => exact fun src mem s g g1 hp => next_finish ((wireRow_broken g).trans (wireBroken_por g g1 hp))
  case brokenOld => exact fun src mem s g g1 => next_finish ((wireRow_broken g).trans (wireBroken_old g g1))
  case mended => exact fun src mem s g => next_finish (wireRow_mended g)
  case ecc => exact fun src mem unit l s hl h => next_event_live hl (ecc_device h)
  case eccTile => exact fun t mem unit l s hl hm => next_event_live hl (ecc_tile t.isLt hm)
  case hot => exact fun t temp s hp h => next_outsidePor hp (dieHot_above h)
  case notHot => exact fun t temp s hp h => next_outsidePor hp (dieHot_below h)
  case hotPor => exact fun t temp s hp => congrArg Host.Outcome.next (if_pos hp)
  case cool => exact fun t s => rfl
  case sclk => exact fun s hp => congrArg Host.Outcome.next (outsideOn_next hp)
  case pll => exact fun s hp => congrArg Host.Outcome.next (outsideOn_next hp)
  case sync => exact fun s hp => congrArg Host.Outcome.next (outsideOn_next hp)
  case sclkPor => exact fun s hp => congrArg Host.Outcome.next (outsideOn_por hp)
  case pllPor => exact fun s hp => congrArg Host.Outcome.next (outsideOn_por hp)
  case syncPor => exact fun s hp => congrArg Host.Outcome.next (outsideOn_por hp)
  case sclkBack => exact fun s => rfl
  case pllBack => exact fun s => rfl
  case syncBack => exact fun s => rfl
  case ffOn => exact fun rail s h8 h16 hl => next_finish (railOn_firefly h8 h16 hl)
  case otherOn => exact fun rail s h => next_finish (railOn_other h)
  case ffOff => exact fun rail s h8 h16 => next_finish ((supplyLost_other (by omega)).trans (railOff_firefly h8 h16))
  case otherOff => exact fun rail s h => next_finish ((supplyLost_other (by omega)).trans (railOff_other (by omega)))
  case commonOff =>
    rintro ⟨k, hk⟩ s rfl
    exact next_finish supplyLost_common
  case dark => exact fun e s hl ha hb hz => encDark_low hl ha hb hz

end Sys2Proof.Machine
end

section
/-! PROOFS. The boot sequence (R370, R420, R421, R428, R431). -/

namespace Sys2Proof.Machine

section Boot
variable {s : State} {failed transient : List (Fin 512 × BitVec 5 × BitVec 8)} {sr e : Nat} {es : List Nat} {f : FlashStream}

/-! ## Steps 1 and 2 (R420, R421) -/

/-- Step 1 that has not ended loads the NVM: its flags, the roles, the last-gasp slot, the boot map, and the Firefly values
(R420, R428, R431). -/
theorem nvmLoaded_first (hl : live s = true) (h1 : s.step1 = false) :
    nvmLoaded s = supKick (setStep (forEach (List.range 96) ffWake
      { forEach (List.range 96) (fun n u => setNvv n (if areaOk s 0x4100 192 then ffNvEntry u n else 0) u)
          (bootMapped (bmOk s) (slotReady (if rf (nvmFlagged s) rstatK 1 0 = 1 then bootRoles (bmOk s) (nvmFlagged s) else nvmFlagged s)))
        with step1 := true })) :=
  if_neg (by rw [hl, h1]; decide)
theorem nvmLoaded_again (h1 : s.step1 = true) : nvmLoaded s = s :=
  if_pos (by rw [h1, Bool.or_true])
/-- Step 2 reports the broken wires of a source, member by member (R421). -/
def wiresReported (e : Nat × Nat) (s : State) : State :=
  forEach ((List.range 32).filter fun m => e.2 / 2 ^ m % 2 == 1) (fun m v => report (wireReport e.1 (memOf e.1 m) false true v) v) s
/-- A wire that is reported stands broken as before. -/
theorem wiresReported_bw (e : Nat × Nat) (s : State) : (wiresReported e s).flt.bw = s.flt.bw :=
  forEach_keeps (g := fun u => u.flt.bw) (f := fun m v => report (wireReport e.1 (memOf e.1 m) false true v) v) (fun _ _ => rfl) _ s
/-- Step 2 reports the broken wires that stand, though no memory failed (R421). -/
theorem selftested_wires (hl : live s = true) (h1 : s.step1 = true) (h2 : s.step2 = false) (hw : s.flt.bw ≠ []) :
    selftested [] [] s = setStep { setB rstatK 8 true (forEach s.flt.bw wiresReported s) with step2 := true } := by
  have hkept : (forEach s.flt.bw wiresReported s).flt.bw.isEmpty = false := by
    rw [forEach_keeps (g := fun u => u.flt.bw) wiresReported_bw, List.isEmpty_eq_false_iff]
    exact hw
  have hnone {g : Fin 512 × BitVec 5 × BitVec 8 → State → State} : forEach [] g s = s := rfl
  have hwires : forEach s.flt.bw (fun e u => forEach ((List.range 32).filter fun m => e.2 / 2 ^ m % 2 == 1)
    (fun m v => report (wireReport e.1 (memOf e.1 m) false true v) v) u) s = forEach s.flt.bw wiresReported s := rfl
  unfold selftested
  rw [if_neg (by rw [hl, h1, h2]; decide)]
  dsimp only
  rw [hnone, hnone, hwires, if_neg (by rw [hkept]; decide)]
theorem selftested_not (h : s.step1 = false ∨ s.step2 = true) : selftested failed transient s = s := by
  refine if_pos ?_
  obtain h | h := h
  · rw [h, Bool.not_false, Bool.or_true, Bool.true_or]
  · rw [h, Bool.or_true]

/-! ## Step 4 (R370) -/

/-- What the pins of the flash bring: zeros without their supply (R441). -/
def flashRead (s : State) (f : FlashStream) : FlashStream := if s.rails.getLsbD 16 then f else ⟨List.replicate 6 0, [], 0, []⟩

/-- Step 4 takes the next fabric entry of the boot map, where the bit-stream is of its first region. -/
theorem fabLoaded_next (hl : live s = true) (h1 : s.step1 = true) (he : s.bootFabs = e :: es)
    (hr : (bitsOf (bmW s (11 + 2 * e)) 8).headD sr = sr) : fabLoaded sr f s =
      setStep (bootLoad (bit (bmW s (11 + 2 * e)) 8) (bitsOf (bmW s (11 + 2 * e)) 8) (flashRead s f) { s with bootFabs := es }) := by
  rw [fabLoaded, if_neg (by rw [hl, h1]; decide), he]
  exact if_neg (by rw [hr]; simp)
theorem fabLoaded_none (he : s.bootFabs = []) : fabLoaded sr f s = s := by
  rw [fabLoaded, he]
  exact ite_self _
/-- Supplied pins bring the bit-stream. -/
theorem flashRead_powered (h : s.rails.getLsbD 16 = true) : flashRead s f = f := if_pos h
theorem flashRead_unpowered (h : s.rails.getLsbD 16 = false) : flashRead s f = ⟨[0, 0, 0, 0, 0, 0], [], 0, []⟩ :=
  if_neg (Bool.eq_false_iff.mp h)

/-! ## READY (R420) -/

theorem bootReady_reached (hl : live s = true) (h1 : s.step1 = true) (h2 : s.step2 = true) (hf : s.bootFabs = []) (ht : s.bootTiles = [])
    (hr : isReady s = false) : bootReady s = setF rstatK 6 4 6 s :=
  if_pos (by rw [hl, h1, h2, hf, ht, hr]; rfl)

end Boot

/-- Settles O49: each step of the boot by what it finds ended. -/
theorem bootSteps : Obligations.BootSteps := by
  refine ⟨?nvm, ?nvmAgain, ?passed, ?failed, ?wires, ?notStep2, ?load, ?barred, ?unpowered, ?noEntry, ?ready, ?notReady⟩
  case nvm => exact fun s hl h1 => next_event_live hl (nvmLoaded_first hl h1)
  case nvmAgain => exact fun s hl h1 => next_event_live hl (nvmLoaded_again h1)
  case passed => exact fun failed transient s hl h1 h2 hf ht hw => next_event_live hl (selftest_none hl h1 h2 hf ht hw)
  case failed => exact fun failed transient s hl h1 h2 hf hw => next_event_live hl (selftest_failed hl h1 h2 hf hw)
  case wires => exact fun s hl h1 h2 hw => next_event_live hl (selftested_wires hl h1 h2 hw)
  case notStep2 => exact fun failed transient s hl h => next_event_live hl (selftested_not h)
  case load =>
    intro sr e es f s hl h1 hp he hr
    refine next_event_live hl ((fabLoaded_next hl h1 he hr).trans ?_)
    rw [flashRead_powered hp]
    rfl
  case barred =>
    intro sr e es f s hl h1 hp he hr hh hb
    refine next_event_live hl ((fabLoaded_next hl h1 he (by rw [hr]; rfl)).trans ?_)
    rw [flashRead_powered hp, hr]
    exact congrArg setStep (bootLoad_barred hh hb)
  case unpowered =>
    intro sr e es f s hl h1 hp he hr
    refine next_event_live hl ((fabLoaded_next hl h1 he hr).trans ?_)
    rw [flashRead_unpowered hp]
  case noEntry => exact fun sr f s hl he => next_event_live hl (fabLoaded_none he)
  case ready => exact fun s hl h1 h2 hf ht hr => next_event_live hl (bootReady_reached hl h1 h2 hf ht hr)
  case notReady => exact fun s hl h => next_event_live hl (bootReady_not h)

end Sys2Proof.Machine
end
